-- ==== Sys2Proof/Word.lean ====
section
/-! DEFINITION. The word types of the Nalix and their plainest readings (spec/00_scope.md R4, R9). -/
namespace Sys2Proof

/-- One byte of memory. -/
abbrev Byte := BitVec 8

/-- One window word, uniform register or instruction word (R52, R143). -/
abbrev Word := BitVec 32

/-- A register pair, a tagged pointer or a literal (R53, R101, R143). -/
abbrev DWord := BitVec 64

/-- A register quad or an FX128 value (R53, R82). -/
abbrev QWord := BitVec 128

end Sys2Proof
end

