-- ==== Sys2Proof/Syntax.lean ====
section
/-! DEFINITION. The instructions of the Nalix: every row of the opcode table, the 63 compact forms of R151, the extended
instructions of R152 with the fields of R145, the Rinsar instructions of R452 and the steps of the device's units. -/
namespace Sys2Proof

/-- How an instruction stands in memory (R143). A compact form that executes as its extended twin (R147) has form
`cmp`; it is no encoding of its own. -/
inductive XForm where
  | cmp | cmpLit | ext | extLit
  deriving DecidableEq, Repr

/-- The operand fields of an extended instruction (R145), or of the twin of a compact one (R147). `m` is the MOD word and
`lit` the literal, zero where there is none. -/
structure X where
  form : XForm
  pn : Bool
  pg : BitVec 5
  dx : BitVec 7
  d : BitVec 8
  bi : Bool
  bk : Bool
  ak : Bool
  fc : Bool
  fb : Bool
  fa : Bool
  c : BitVec 8
  b : BitVec 8
  a : BitVec 8
  m : Word
  lit : DWord
  deriving DecidableEq, Repr

/-- The length in bytes (R143). -/
def X.len (x : X) : Nat :=
  match x.form with
  | .cmp => 4
  | .cmpLit => 12
  | .ext => 12
  | .extLit => 20

/-- Whether the instruction carries a literal (R143). -/
def X.hasLit (x : X) : Bool := x.form = .cmpLit || x.form = .extLit

/-- Bits [h:l] of the MOD word, as a number. -/
def X.mf (x : X) (h l : Nat) : Nat := x.m.toNat / 2 ^ l % 2 ^ (h + 1 - l)

/-- Bit `l` of the MOD word. -/
def X.mb (x : X) (l : Nat) : Bool := x.m.getLsbD l

/-- The shared sub-fields of R149. -/
def X.ty (x : X) : Nat := x.mf 4 0
def X.rnd (x : X) : Nat := x.mf 7 5
def X.sat (x : X) : Bool := x.mb 8
def X.ord (x : X) : Nat := x.mf 11 9
def X.scope (x : X) : Nat := x.mf 14 12
def X.grp (x : X) : Nat := x.mf 19 15
def X.slot (x : X) : Nat := x.mf 22 20

/-- TY or, for code 0, the default type (R150). -/
def X.tyOr (x : X) (dflt : Nat) : Nat := if x.ty = 0 then dflt else x.ty

/-- One constructor per row of the opcode table. `g` and `n` are PG and PN of a compact form (R144). A step of a unit
carries no fields of its own: what it acts on (the operands its docstring names, in that order) stands in the state's
event argument, which the step function fills from the agenda. -/
inductive Instr where
  /-- NOP (R197): Compact nop: no effect. -/
  | nop (g : BitVec 2) (n : Bool)
  /-- NOP_EXTENDED (R197): Extended twin of nop, with any guard p0-p31. -/
  | nopExtended (x : X)
  /-- BRA (R190): Compact branch by a 20-bit word offset when the guard is true. -/
  | bra (g : BitVec 2) (n : Bool) (o : BitVec 20)
  /-- BRA_EXTENDED (R190): Extended branch, with a 32-bit word offset in MOD. -/
  | braExtended (x : X)
  /-- CALL (R191): Compact call: writes the link word to D and branches by a 13-bit word offset. -/
  | call (g : BitVec 2) (n : Bool) (o : BitVec 13) (d : BitVec 7)
  /-- CALL_EXTENDED (R191): Extended call, with the offset in MOD. -/
  | callExtended (x : X)
  /-- RET (R191): Compact return to the text offset held in word A, checked under R189. -/
  | ret (g : BitVec 2) (n : Bool) (a : BitVec 7)
  /-- RET_EXTENDED (R191): Extended twin of ret. -/
  | retExtended (x : X)
  /-- EXIT (R196): Compact exit: the fibre becomes exited, and its pending results are discarded. -/
  | exit (g : BitVec 2) (n : Bool)
  /-- EXIT_EXTENDED (R196): Extended twin of exit. -/
  | exitExtended (x : X)
  /-- YIELD (R197): Compact yield: the fibre moves to the tail of its quadrant's queue. -/
  | yield (g : BitVec 2) (n : Bool)
  /-- YIELD_EXTENDED (R197): Extended twin of yield. -/
  | yieldExtended (x : X)
  /-- WAIT (R199): Compact wait: blocks the fibre until the memory word differs from a value. -/
  | wait (g : BitVec 2) (n : Bool) (a : BitVec 7) (b : BitVec 6)
  /-- WAIT_EXTENDED (R199): Extended wait, with acquire ordering, scope and any kind of B operand. -/
  | waitExtended (x : X)
  /-- MOV (R180): Compact move of word A to word D. -/
  | mov (g : BitVec 2) (n : Bool) (d : BitVec 7) (a : BitVec 7)
  /-- MOV_EXTENDED (R180): Extended move of a word, pair, quad or k register. -/
  | movExtended (x : X)
  /-- MOVI (R181): Compact move of a 6-bit unsigned immediate to D. -/
  | movi (g : BitVec 2) (n : Bool) (d : BitVec 7) (i : BitVec 6)
  /-- MOVI_EXTENDED (R181): Move of an 8-bit signed immediate or a literal to a word or pair. -/
  | moviExtended (x : X)
  /-- MOVK (R182): Compact read of the committed value of a k register. -/
  | movk (g : BitVec 2) (n : Bool) (d : BitVec 7) (k : BitVec 6)
  /-- MOVK_EXTENDED (R182): Extended twin of movk, with BK set. -/
  | movkExtended (x : X)
  /-- MOVS (R183): Compact read of a special register by selector. -/
  | movs (g : BitVec 2) (n : Bool) (d : BitVec 7) (s : BitVec 6)
  /-- MOVS_EXTENDED (R183): Extended movs: reads any selector, or with WR writes %fpflags after its pending special-function producers. -/
  | movsExtended (x : X)
  /-- WK (R184): Compact write of the pending value of a k register. -/
  | wk (g : BitVec 2) (n : Bool) (k : BitVec 6) (a : BitVec 7)
  /-- WK_EXTENDED (R184): Extended twin of wk. -/
  | wkExtended (x : X)
  /-- LEA (R185): Compact pointer arithmetic on the ADDR field of a tagged pointer. -/
  | lea (g : BitVec 2) (n : Bool) (d : BitVec 7) (a : BitVec 7) (b : BitVec 6)
  /-- LEA_EXTENDED (R185): Extended lea, with a scale SH and zero extension SX. -/
  | leaExtended (x : X)
  /-- IADD (R170): Compact integer add. -/
  | iadd (g : BitVec 2) (n : Bool) (d : BitVec 7) (a : BitVec 7) (b : BitVec 6)
  /-- IADD_EXTENDED (R170): Extended integer add, with type and saturation. -/
  | iaddExtended (x : X)
  /-- ISUB (R170): Compact integer subtract. -/
  | isub (g : BitVec 2) (n : Bool) (d : BitVec 7) (a : BitVec 7) (b : BitVec 6)
  /-- ISUB_EXTENDED (R170): Extended integer subtract. -/
  | isubExtended (x : X)
  /-- IMUL (R170): Compact integer multiply, low half. -/
  | imul (g : BitVec 2) (n : Bool) (d : BitVec 7) (a : BitVec 7) (b : BitVec 6)
  /-- IMUL_EXTENDED (R170): Extended integer multiply, low half. -/
  | imulExtended (x : X)
  /-- IMULH (R170): Compact integer multiply, high half. -/
  | imulh (g : BitVec 2) (n : Bool) (d : BitVec 7) (a : BitVec 7) (b : BitVec 6)
  /-- IMULH_EXTENDED (R170): Extended integer multiply, high half. -/
  | imulhExtended (x : X)
  /-- IMAD (R170): Compact multiply-add, with C read from D. -/
  | imad (g : BitVec 2) (n : Bool) (d : BitVec 7) (a : BitVec 7) (b : BitVec 6)
  /-- IMAD_EXTENDED (R170): Extended multiply-add. -/
  | imadExtended (x : X)
  /-- ISAD (R170): Compact absolute difference and add, with C read from D. -/
  | isad (g : BitVec 2) (n : Bool) (d : BitVec 7) (a : BitVec 7) (b : BitVec 6)
  /-- ISAD_EXTENDED (R170): Extended absolute difference and add. -/
  | isadExtended (x : X)
  /-- IMIN (R170): Compact integer minimum. -/
  | imin (g : BitVec 2) (n : Bool) (d : BitVec 7) (a : BitVec 7) (b : BitVec 6)
  /-- IMIN_EXTENDED (R170): Extended integer minimum. -/
  | iminExtended (x : X)
  /-- IMAX (R170): Compact integer maximum. -/
  | imax (g : BitVec 2) (n : Bool) (d : BitVec 7) (a : BitVec 7) (b : BitVec 6)
  /-- IMAX_EXTENDED (R170): Extended integer maximum. -/
  | imaxExtended (x : X)
  /-- IABS (R170): Compact integer absolute value. -/
  | iabs (g : BitVec 2) (n : Bool) (d : BitVec 7) (a : BitVec 7)
  /-- IABS_EXTENDED (R170): Extended integer absolute value. -/
  | iabsExtended (x : X)
  /-- INEG (R170): Compact integer negate. -/
  | ineg (g : BitVec 2) (n : Bool) (d : BitVec 7) (a : BitVec 7)
  /-- INEG_EXTENDED (R170): Extended integer negate. -/
  | inegExtended (x : X)
  /-- AND (R173): Compact bitwise and. -/
  | and (g : BitVec 2) (n : Bool) (d : BitVec 7) (a : BitVec 7) (b : BitVec 6)
  /-- AND_EXTENDED (R173): Extended bitwise and. -/
  | andExtended (x : X)
  /-- OR (R173): Compact bitwise or. -/
  | or (g : BitVec 2) (n : Bool) (d : BitVec 7) (a : BitVec 7) (b : BitVec 6)
  /-- OR_EXTENDED (R173): Extended bitwise or. -/
  | orExtended (x : X)
  /-- XOR (R173): Compact bitwise exclusive or. -/
  | xor (g : BitVec 2) (n : Bool) (d : BitVec 7) (a : BitVec 7) (b : BitVec 6)
  /-- XOR_EXTENDED (R173): Extended bitwise exclusive or. -/
  | xorExtended (x : X)
  /-- SHL (R174): Compact shift left by a 6-bit immediate count. -/
  | shl (g : BitVec 2) (n : Bool) (d : BitVec 7) (a : BitVec 7) (i : BitVec 6)
  /-- SHL_EXTENDED (R174): Extended shift left. -/
  | shlExtended (x : X)
  /-- SHR (R174): Compact logical shift right by a 6-bit immediate count. -/
  | shr (g : BitVec 2) (n : Bool) (d : BitVec 7) (a : BitVec 7) (i : BitVec 6)
  /-- SHR_EXTENDED (R174): Extended logical shift right, with FUN = 0. -/
  | shrExtended (x : X)
  /-- FSH (R174): Funnel shift right of the pair C:A, the extended shr with FUN = 1. -/
  | fsh (x : X)
  /-- SAR (R174): Compact arithmetic shift right. -/
  | sar (g : BitVec 2) (n : Bool) (d : BitVec 7) (a : BitVec 7) (i : BitVec 6)
  /-- SAR_EXTENDED (R174): Extended arithmetic shift right. -/
  | sarExtended (x : X)
  /-- ROT (R174): Compact left rotation. -/
  | rot (g : BitVec 2) (n : Bool) (d : BitVec 7) (a : BitVec 7) (i : BitVec 6)
  /-- ROT_EXTENDED (R174): Extended left rotation. -/
  | rotExtended (x : X)
  /-- BFX (R175): Compact bit-field extract. -/
  | bfx (g : BitVec 2) (n : Bool) (d : BitVec 7) (a : BitVec 7) (b : BitVec 6)
  /-- BFX_EXTENDED (R175): Extended bit-field extract. -/
  | bfxExtended (x : X)
  /-- BFI (R175): Compact bit-field insert, with the base C read from D. -/
  | bfi (g : BitVec 2) (n : Bool) (d : BitVec 7) (a : BitVec 7) (b : BitVec 6)
  /-- BFI_EXTENDED (R175): Extended bit-field insert. -/
  | bfiExtended (x : X)
  /-- POPC (R176): Compact population count. -/
  | popc (g : BitVec 2) (n : Bool) (d : BitVec 7) (a : BitVec 7)
  /-- POPC_EXTENDED (R176): Extended population count. -/
  | popcExtended (x : X)
  /-- CLZ (R176): Compact count of leading zeros. -/
  | clz (g : BitVec 2) (n : Bool) (d : BitVec 7) (a : BitVec 7)
  /-- CLZ_EXTENDED (R176): Extended count of leading zeros. -/
  | clzExtended (x : X)
  /-- BREV (R176): Compact bit reversal. -/
  | brev (g : BitVec 2) (n : Bool) (d : BitVec 7) (a : BitVec 7)
  /-- BREV_EXTENDED (R176): Extended bit reversal. -/
  | brevExtended (x : X)
  /-- PRMT (R177): Compact byte permute of C:A under four byte programs. -/
  | prmt (g : BitVec 2) (n : Bool) (d : BitVec 7) (a : BitVec 7) (b : BitVec 6)
  /-- PRMT_EXTENDED (R177): Extended byte permute. -/
  | prmtExtended (x : X)
  /-- FADD (R205): Compact FP32 add. -/
  | fadd (g : BitVec 2) (n : Bool) (d : BitVec 7) (a : BitVec 7) (b : BitVec 6)
  /-- FADD_EXTENDED (R205): Extended FP32 add, with rounding and saturation. -/
  | faddExtended (x : X)
  /-- FSUB (R205): Compact FP32 subtract. -/
  | fsub (g : BitVec 2) (n : Bool) (d : BitVec 7) (a : BitVec 7) (b : BitVec 6)
  /-- FSUB_EXTENDED (R205): Extended FP32 subtract. -/
  | fsubExtended (x : X)
  /-- FMUL (R205): Compact FP32 multiply. -/
  | fmul (g : BitVec 2) (n : Bool) (d : BitVec 7) (a : BitVec 7) (b : BitVec 6)
  /-- FMUL_EXTENDED (R205): Extended FP32 multiply. -/
  | fmulExtended (x : X)
  /-- FFMA (R205): Compact FP32 fused multiply-add, with C read from D. -/
  | ffma (g : BitVec 2) (n : Bool) (d : BitVec 7) (a : BitVec 7) (b : BitVec 6)
  /-- FFMA_EXTENDED (R205): Extended FP32 fused multiply-add. -/
  | ffmaExtended (x : X)
  /-- FMIN (R207): Compact FP32 minimum. -/
  | fmin (g : BitVec 2) (n : Bool) (d : BitVec 7) (a : BitVec 7) (b : BitVec 6)
  /-- FMIN_EXTENDED (R207): Extended FP32 minimum. -/
  | fminExtended (x : X)
  /-- FMAX (R207): Compact FP32 maximum. -/
  | fmax (g : BitVec 2) (n : Bool) (d : BitVec 7) (a : BitVec 7) (b : BitVec 6)
  /-- FMAX_EXTENDED (R207): Extended FP32 maximum. -/
  | fmaxExtended (x : X)
  /-- FSCALE (R205): Compact scaling of an FP32 value by a power of two. -/
  | fscale (g : BitVec 2) (n : Bool) (d : BitVec 7) (a : BitVec 7) (b : BitVec 6)
  /-- FSCALE_EXTENDED (R205): Extended fscale. -/
  | fscaleExtended (x : X)
  /-- FRND (R208): Compact rounding of an FP32 value to an integral value. -/
  | frnd (g : BitVec 2) (n : Bool) (d : BitVec 7) (a : BitVec 7)
  /-- FRND_EXTENDED (R208): Extended frnd, with a rounding mode. -/
  | frndExtended (x : X)
  /-- FRCP (R212): Compact reciprocal; long-latency, D marked empty at issue. -/
  | frcp (g : BitVec 2) (n : Bool) (d : BitVec 7) (a : BitVec 7)
  /-- FRCP_EXTENDED (R212): Extended reciprocal, with rounding. -/
  | frcpExtended (x : X)
  /-- FRSQ (R212): Compact reciprocal square root; long-latency. -/
  | frsq (g : BitVec 2) (n : Bool) (d : BitVec 7) (a : BitVec 7)
  /-- FRSQ_EXTENDED (R212): Extended reciprocal square root. -/
  | frsqExtended (x : X)
  /-- FSQRT (R212): Compact square root; long-latency. -/
  | fsqrt (g : BitVec 2) (n : Bool) (d : BitVec 7) (a : BitVec 7)
  /-- FSQRT_EXTENDED (R212): Extended square root, with rounding. -/
  | fsqrtExtended (x : X)
  /-- FEX2 (R212): Compact base-2 exponential; long-latency. -/
  | fex2 (g : BitVec 2) (n : Bool) (d : BitVec 7) (a : BitVec 7)
  /-- FEX2_EXTENDED (R212): Extended base-2 exponential. -/
  | fex2Extended (x : X)
  /-- FLG2 (R212): Compact base-2 logarithm; long-latency. -/
  | flg2 (g : BitVec 2) (n : Bool) (d : BitVec 7) (a : BitVec 7)
  /-- FLG2_EXTENDED (R212): Extended base-2 logarithm. -/
  | flg2Extended (x : X)
  /-- FSINPI (R212): Compact sin(pi a); long-latency. -/
  | fsinpi (g : BitVec 2) (n : Bool) (d : BitVec 7) (a : BitVec 7)
  /-- FSINPI_EXTENDED (R212): Extended sin(pi a). -/
  | fsinpiExtended (x : X)
  /-- FCOSPI (R212): Compact cos(pi a); long-latency. -/
  | fcospi (g : BitVec 2) (n : Bool) (d : BitVec 7) (a : BitVec 7)
  /-- FCOSPI_EXTENDED (R212): Extended cos(pi a). -/
  | fcospiExtended (x : X)
  /-- FTANH (R212): Compact hyperbolic tangent; long-latency. -/
  | ftanh (g : BitVec 2) (n : Bool) (d : BitVec 7) (a : BitVec 7)
  /-- FTANH_EXTENDED (R212): Extended hyperbolic tangent. -/
  | ftanhExtended (x : X)
  /-- HADD2 (R216): Compact packed FP16 add. -/
  | hadd2 (g : BitVec 2) (n : Bool) (d : BitVec 7) (a : BitVec 7) (b : BitVec 6)
  /-- HADD2_EXTENDED (R216): Extended packed FP16 or BF16 add. -/
  | hadd2Extended (x : X)
  /-- HMUL2 (R216): Compact packed FP16 multiply. -/
  | hmul2 (g : BitVec 2) (n : Bool) (d : BitVec 7) (a : BitVec 7) (b : BitVec 6)
  /-- HMUL2_EXTENDED (R216): Extended packed FP16 or BF16 multiply. -/
  | hmul2Extended (x : X)
  /-- HFMA2 (R216): Compact packed FP16 fused multiply-add, with C read from D. -/
  | hfma2 (g : BitVec 2) (n : Bool) (d : BitVec 7) (a : BitVec 7) (b : BitVec 6)
  /-- HFMA2_EXTENDED (R216): Extended packed FP16 fused multiply-add. -/
  | hfma2Extended (x : X)
  /-- BFMA2 (R216): Compact packed BF16 fused multiply-add, with C read from D. -/
  | bfma2 (g : BitVec 2) (n : Bool) (d : BitVec 7) (a : BitVec 7) (b : BitVec 6)
  /-- BFMA2_EXTENDED (R216): Extended packed BF16 fused multiply-add. -/
  | bfma2Extended (x : X)
  /-- ICVTF (R217): Compact conversion of s32 to FP32 under RNE. -/
  | icvtf (g : BitVec 2) (n : Bool) (d : BitVec 7) (a : BitVec 7)
  /-- ICVTF_EXTENDED (R217): Extended integer-to-float conversion. -/
  | icvtfExtended (x : X)
  /-- FCVTI (R218): Compact conversion of FP32 to s32 under RNE. -/
  | fcvti (g : BitVec 2) (n : Bool) (d : BitVec 7) (a : BitVec 7)
  /-- FCVTI_EXTENDED (R218): Extended float-to-integer conversion. -/
  | fcvtiExtended (x : X)
  /-- IDOT4 (R224): Compact four-byte integer dot product, with C read from D. -/
  | idot4 (g : BitVec 2) (n : Bool) (d : BitVec 7) (a : BitVec 7) (b : BitVec 6)
  /-- IDOT4_EXTENDED (R224): Extended four-byte dot product, with signedness and saturation. -/
  | idot4Extended (x : X)
  /-- FDOT2 (R223): Compact two-term FP16 dot product into FP32, with C read from D. -/
  | fdot2 (g : BitVec 2) (n : Bool) (d : BitVec 7) (a : BitVec 7) (b : BitVec 6)
  /-- FDOT2_EXTENDED (R223): Extended two-term dot product. -/
  | fdot2Extended (x : X)
  /-- LD (R235): Compact load; marks D empty and delivers the value when it lands. -/
  | ld (g : BitVec 2) (n : Bool) (d : BitVec 7) (a : BitVec 7) (i : BitVec 6)
  /-- LD_EXTENDED (R235): Extended load, with size, acquire and scope. -/
  | ldExtended (x : X)
  /-- ST (R235): Compact store of word D to memory. -/
  | st (g : BitVec 2) (n : Bool) (d : BitVec 7) (a : BitVec 7) (i : BitVec 6)
  /-- ST_EXTENDED (R235): Extended store, with size, release and scope. -/
  | stExtended (x : X)
  /-- LDC (R235): Compact load through the constant cache. -/
  | ldc (g : BitVec 2) (n : Bool) (d : BitVec 7) (a : BitVec 7) (i : BitVec 6)
  /-- LDC_EXTENDED (R235): Extended load through the constant cache. -/
  | ldcExtended (x : X)
  /-- IADDC (R171): Add with carry-in and carry-out predicates. -/
  | iaddc (x : X)
  /-- ISUBB (R171): Subtract with borrow-in and borrow-out predicates. -/
  | isubb (x : X)
  /-- IMADW (R172): Wide multiply-add: a 64-bit product plus a pair. -/
  | imadw (x : X)
  /-- LOP3 (R173): Three-input bitwise function given by a truth table. -/
  | lop3 (x : X)
  /-- ICMP (R178): Integer compare into a predicate, optionally combined with another and written as a mask word. -/
  | icmp (x : X)
  /-- ISEL (R179): Selection of A or B by a predicate. -/
  | isel (x : X)
  /-- PTAG (R186): Replacement of the SPACE or RANK field of a pointer. -/
  | ptag (x : X)
  /-- PSPACE (R187): Extraction of SPACE or RANK, with a validity predicate. -/
  | pspace (x : X)
  /-- PLOP3 (R188): Three-input predicate function by a truth table. -/
  | plop3 (x : X)
  /-- PSETB (R188): Setting of predicates p1-p31 from the bits of a word under a mask. -/
  | psetb (x : X)
  /-- PGETB (R188): Packing of all 32 predicates into a word. -/
  | pgetb (x : X)
  /-- PMOV (R188): Copy of a predicate, optionally negated. -/
  | pmov (x : X)
  /-- BRX (R191): Branch to a register text offset plus B, checked under R189. -/
  | brx (x : X)
  /-- CALLX (R192): Call with regrouping: the fibre joins its quadrant's collection and blocks until it completes. -/
  | callx (x : X)
  /-- SPAWN (R194): Creation of a new fibre at the lowest free index, passing up to eight words. -/
  | spawn (x : X)
  /-- SLEEP (R198): Blocks the fibre until %clock reaches its value at issue plus n. -/
  | sleep (x : X)
  /-- BRK (R201): Raises BREAK precisely, with a code. -/
  | brk (x : X)
  /-- TRAP (R201): Raises SOFTWARE precisely, with a code. -/
  | trap (x : X)
  /-- FCMP (R209): FP32 compare into a predicate, optionally combined with another and written as a mask word. -/
  | fcmp (x : X)
  /-- FCLASS (R210): One-hot classification of an FP32 value, or a class test into a predicate. -/
  | fclass (x : X)
  /-- FEXP (R211): Extraction of the exponent of an FP32 value. -/
  | fexp (x : X)
  /-- FMANT (R211): Extraction of the significand of an FP32 value, scaled into [1, 2). -/
  | fmant (x : X)
  /-- HMNX2 (R216): Packed FP16 or BF16 minimum or maximum. -/
  | hmnx2 (x : X)
  /-- FCVT (R219): Conversion between floating-point formats. -/
  | fcvt (x : X)
  /-- UNPK (R222): Expansion of packed E2M1, E2M3 or E3M2 elements into E4M3 bytes. -/
  | unpk (x : X)
  /-- PACK (R221): Conversion of N FP32 words into narrow elements packed into one word. -/
  | pack (x : X)
  /-- SHFL (R226): Squad shuffle of A values among the contributors of a rendezvous. -/
  | shfl (x : X)
  /-- VOTE (R227): Squad vote: ballot, any, all or uniform over a predicate. -/
  | vote (x : X)
  /-- SQRED (R229): Squad reduction of the contributors' values. -/
  | sqred (x : X)
  /-- SQSCAN (R230): Squad prefix scan, inclusive or exclusive. -/
  | sqscan (x : X)
  /-- MATCH (R228): Squad match of values: peers, count or rank. -/
  | matchSq (x : X)
  /-- ATOM (R237): Integer atomic at the home, returning the old value. -/
  | atom (x : X)
  /-- RED (R237): Integer reduction at the home, with no return value. -/
  | red (x : X)
  /-- ATOMF (R240): Floating-point atomic add, min or max. -/
  | atomf (x : X)
  /-- ATOMFX (R241): Addition of an FP32 value into an FX128 cell at a binary point P. -/
  | atomfx (x : X)
  /-- FENCE (R242): Acquire, release, acq-rel or sequentially consistent fence at a scope. -/
  | fence (x : X)
  /-- FENCEP (R243): Acquire fence that promotes the releases of a victim core. -/
  | fencep (x : X)
  /-- LDFE (R245): Load that waits for a full vault granule, optionally emptying it. -/
  | ldfe (x : X)
  /-- STFE (R246): Store that sets its vault granule full. -/
  | stfe (x : X)
  /-- FEZAP (R247): Empties every granule of a vault byte range. -/
  | fezap (x : X)
  /-- FEPRB (R248): Reads the full/empty bits of 32 granules. -/
  | feprb (x : X)
  /-- BAR_INIT (R251): Initialises a barrier register with an expected arrival count. -/
  | barInit (x : X)
  /-- BAR_ARV (R251): Arrival on a barrier register, followed by an evaluation. -/
  | barArv (x : X)
  /-- BAR_EXP (R251): Adds expected bytes, with an optional arrival, and evaluates. -/
  | barExp (x : X)
  /-- BAR_WAIT (R251): Blocks while PHASE equals the given parity. -/
  | barWait (x : X)
  /-- BAR_TEST (R251): Writes a predicate telling whether the phase has passed. -/
  | barTest (x : X)
  /-- CPY (R253): Per-fibre copy of up to 32 bytes into the vault, on a tag counter. -/
  | cpy (x : X)
  /-- CPYWAIT (R255): Blocks until the counter of a copy tag is zero. -/
  | cpywait (x : X)
  /-- CPYTEST (R255): Reads a copy tag counter into D and a zero test into DX. -/
  | cpytest (x : X)
  /-- TCPY (R256): Hands a tile copy descriptor to the copy engine in one of its modes. -/
  | tcpy (x : X)
  /-- TCPYC (R263): Conditional tile commit against a version word. -/
  | tcpyc (x : X)
  /-- PFX (R264): Prefetch of a byte range into L2, and optionally L1. -/
  | pfx (x : X)
  /-- CONT (R265): Appends a continuation record to the launch's pool, as a release. -/
  | cont (x : X)
  /-- GANG (R276): Writes the squad mask of a gang register. -/
  | gang (x : X)
  /-- MMA (R278): Gang matrix multiply-accumulate into a grid of accumulator tiles through the Belay latch. -/
  | mma (x : X)
  /-- ACLR (R283): Fills tiles with a value. -/
  | aclr (x : X)
  /-- ALD (R284): Loads tiles from memory with conversion. -/
  | ald (x : X)
  /-- AST (R284): Stores tiles to memory with conversion. -/
  | ast (x : X)
  /-- ALD_FRAG (R286): Fragment-mode load of a tile from the windows of a gang. -/
  | aldFrag (x : X)
  /-- AST_FRAG (R286): Fragment-mode store of a tile into the windows of a gang. -/
  | astFrag (x : X)
  /-- ACVT (R287): Converts tile elements in place. -/
  | acvt (x : X)
  /-- ASCL (R288): Scales tile elements by a row vector and a column vector. -/
  | ascl (x : X)
  /-- PLAN (R289): Converts row-major vault blocks into planar blocks in place. -/
  | plan (x : X)
  /-- AWAIT (R290): Blocks until the selected matrix operations have completed. -/
  | await (x : X)
  /-- AWAIT_TEST (R290): Writes a predicate telling whether the selected matrix operations have completed. -/
  | awaitTest (x : X)
  /-- MVTX (R296): Writes four words of a vertex into the mesh output buffer. -/
  | mvtx (x : X)
  /-- MPRIM (R297): Writes or culls a primitive slot of the mesh output buffer. -/
  | mprim (x : X)
  /-- MEND (R298): Ends the fibre's mesh output with vertex and primitive counts; the fibre counts as exited. -/
  | mend (x : X)
  /-- ATTR (R299): Interpolates an attribute word at the centre, the centroid or a sample. -/
  | attr (x : X)
  /-- PXDISC (R300): Clears coverage bits of the pixel fibre. -/
  | pxdisc (x : X)
  /-- KBINS (R304): Hands a k-buffer insertion to the output merger. -/
  | kbins (x : X)
  /-- OMST (R302): Hands a render-target store of the covered samples to the output merger. -/
  | omst (x : X)
  /-- OMLD (R303): Render-target read of one sample through the output merger; D stays empty until it is performed. -/
  | omld (x : X)
  /-- SMP (R306): Texture sample, standard or latent, with a status predicate. -/
  | smp (x : X)
  /-- TLD (R311): Unfiltered texel load, optionally latent-decoded. -/
  | tld (x : X)
  /-- TRACE (R313): Casts one ray per fibre into an acceleration structure. -/
  | trace (x : X)
  /-- TRCONT (R315): Decides on a candidate hit and resumes the suspended traversal. -/
  | trcont (x : X)
  /-- SYSRD (R369): Reads a system register, or %frec of a named fibre. -/
  | sysrd (x : X)
  /-- SYSWR (R369): Writes a system register. -/
  | syswr (x : X)
  /-- TRET_RETRY (R370): Ends handler mode; the trapping fibre retries at %tpc and the frozen entries replay. -/
  | tretRetry (x : X)
  /-- TRET_SKIP (R370): Ends handler mode; the trapping fibre continues after the trapping instruction. -/
  | tretSkip (x : X)
  /-- TRET_AT (R370): Ends handler mode; the trapping fibre continues at a given text offset. -/
  | tretAt (x : X)
  /-- TRET_KILL (R380): Ends the work-group without resuming, and posts a trap record on lane H. -/
  | tretKill (x : X)
  /-- TMASK_CRIT (R371): Opens a critical region, CRITN := 256. -/
  | tmaskCrit (x : X)
  /-- TMASK_END (R371): Closes a critical region, CRITN := 0. -/
  | tmaskEnd (x : X)
  /-- CACHEX (R372): Invalidates the L1, the constant cache or the context's weight tables of the executing core. -/
  | cachex (x : X)
  /-- MTUINV_INV (R424): Drops the MTU's kept translations and the write grants of a run of pages. -/
  | mtuinvInv (x : X)
  /-- MTUINV_REL (R424): As mtuinv.inv, and also releases the parked operations of pages with open episodes. -/
  | mtuinvRel (x : X)
  /-- FRMPUT (R425): Pushes a free frame onto the frame FIFO of its size. -/
  | frmput (x : X)
  /-- WGCTL_YIELD (R374): Asks the hub scheduler to pre-empt the fibre's own work-group. -/
  | wgctlYield (x : X)
  /-- WGCTL_SETPC (R374): In a handler, sets the resume PC of another fibre. -/
  | wgctlSetpc (x : X)
  /-- WGCTL_KILL (R374): In a handler, makes another fibre exited. -/
  | wgctlKill (x : X)
  /-- RFETCH (R452): Reads the next unread slot of a hardware queue slot into the packet buffer. -/
  | rfetch (d : BitVec 5) (s : BitVec 5) (t : BitVec 5)
  /-- BFXT (R452): Bit-field extract on a hart register. -/
  | bfxt (d : BitVec 5) (s : BitVec 5) (t : BitVec 5)
  /-- SWAIT (R452): Blocks the hart until an event arrives or a count of hub cycles passes. -/
  | swait (d : BitVec 5) (s : BitVec 5)
  /-- DSPCH (R452): Hands a launch record in the buffer to the hub scheduler for a queue. -/
  | dspch (d : BitVec 5) (s : BitVec 5) (t : BitVec 5)
  /-- FRAGMENT_TRANSFER (R286): Once earlier operations on the tile have completed, the fragment transfer runs and releases the gang. Operands: wg, g. -/
  | fragmentTransfer
  /-- MATRIX_OP_START (R269): A released matrix operation starts on its engine once the engine is free and its dependences have completed. Operands: wg, op. -/
  | matrixOpStart
  /-- MATRIX_STEP_COMPLETE (R273): An engine completes one step of an operation, such as a block-chunk or a tile row, and advances the progress mark. Operands: wg, op. -/
  | matrixStepComplete
  /-- ISSUE_CYCLE (R34): Each cc, each quadrant admits fibres to its candidate set and issues one rope from the group with the oldest ready fibre. -/
  | issueCycle
  /-- COLLECTION_CLOSE (R37): A callx collection closes when 16 issue cycles have passed since it opened, and its fibres are sorted and assigned positions. Operands: core, cid. -/
  | collectionClose
  /-- REGROUP_MOVE_COMPLETE (R38): The regrouping move ends; each fibre writes its link and continues at its target. Operands: core, cid. -/
  | regroupMoveComplete
  /-- LOAD_RESULT_LANDS (R65): A load or returning atomic result arrives, fills its destination words and marks them full. Operands: op. -/
  | loadResultLands
  /-- SPECIAL_FUNCTION_RESULT_LANDS (R71): A special-function result lands in D, or raises ARITH as an ASYNC cause when an enabled flag is set. Operands: op. -/
  | specialFunctionResultLands
  /-- SAMPLE_LANDS (R310): A sample's channels and its status predicate land. Operands: op. -/
  | sampleLands
  /-- TEXEL_LANDS (R311): A tld texel and its status predicate land. Operands: op. -/
  | texelLands
  /-- TRAVERSAL_RECORD_LANDS (R315): The traversal unit lands a final or candidate hit record in D to D + 7. Operands: op. -/
  | traversalRecordLands
  /-- MERGER_ACCESS_PERFORMED (R301): The output merger performs an accepted omst, omld or kbins in primitive order at its pixel. Operands: op. -/
  | mergerAccessPerformed
  /-- HOME_REQUEST (R393): A request reaches its home L2 slice or vault bank, which registers its tag and performs it once, combined under R116. Operands: op, part. -/
  | homeRequest
  /-- WAIT_RECHECK_TIMEOUT (R199): 4,096 cc pass since a wait's last read, and the word is read again. Operands: wg, fid. -/
  | waitRecheckTimeout
  /-- SLEEP_EXPIRY (R198): %clock reaches the sleep's target, and the fibre becomes eligible. Operands: wg, fid. -/
  | sleepExpiry
  /-- CRITICAL_REGION_TIMEOUT (R371): 4,096 cc pass since a critical region opened, and CRITN becomes 0. Operands: wg, fid. -/
  | criticalRegionTimeout
  /-- L1_LINE_EXPIRY (R114): An L1 line reaches 8,192 cc after its fill and is invalidated. Operands: core, line. -/
  | l1LineExpiry
  /-- CPY_LANDING (R253): A cpy's 32 bytes land; granules are set full and the tag counter is decremented. Operands: op. -/
  | cpyLanding
  /-- COPY_UNIT_COMPLETE (R262): A copy-engine unit lands, is acknowledged, parks or is given up; it is counted on BYTES and the copy may complete. Operands: op, unit. -/
  | copyUnitComplete
  /-- TCPYC_COMMIT (R263): The version word's home compares the version, writes the tile and bumps the version, or writes nothing, and DX is set. Operands: op. -/
  | tcpycCommit
  /-- HALT_COMPLETE (R377): Every fibre of a trapping or pre-empted work-group has stopped and the waits have ended. Operands: wg. -/
  | haltComplete
  /-- FREEZE_COMPLETE (R401): 20 cc after the last request, in-flight operations are frozen and the record is written. Operands: wg. -/
  | freezeComplete
  /-- ASYNC_TRAP_TAKEN (R375): A pending ASYNC cause is taken at the next instruction boundary of its fibre. Operands: wg. -/
  | asyncTrapTaken
  /-- PREEMPT_REQUEST (R383): A pre-emption request reaches a core and its work-group stops issuing. Operands: wg. -/
  | preemptRequest
  /-- SAVE_COMPLETE (R385): The save image is written and the core's resources are free. Operands: wg. -/
  | saveComplete
  /-- SCHEDULING_STEP (R443): Every 64 cc, the hub scheduler places and resumes work-groups within the budgets, in rank order. -/
  | schedulingStep
  /-- SPIN_WINDOW_EXPIRY (R446): A running work-group has been blocked for SPINW cc, and a suspended peer is resumed within T_res. Operands: wg. -/
  | spinWindowExpiry
  /-- FAULT_SWAP_THRESHOLD (R47): A work-group blocked on faults passes the threshold and may be swapped out. Operands: wg. -/
  | faultSwapThreshold
  /-- WORKGROUP_RETIRE (R20): A work-group whose fibres have all exited retires once its operations are acknowledged, and frees its slot. Operands: wg. -/
  | workgroupRetire
  /-- POOL_RECORD_ARRIVAL (R29): The front end places a continuation record into a bin. Operands: launch. -/
  | poolRecordArrival
  /-- BIN_AGE_LIMIT (R30): A bin's oldest record reaches the bin age limit. Operands: launch, bin. -/
  | binAgeLimit
  /-- POOL_WORKGROUP_FORM (R30): A bin forms a work-group once its field-1 value is free. Operands: launch, bin. -/
  | poolWorkgroupForm
  /-- PRIMITIVE_SETUP (R321): The raster engine clips, snaps and rasterises the primitives of a handed-over mesh buffer. Operands: pass. -/
  | primitiveSetup
  /-- PIXEL_LAUNCH_TIMEOUT (R323): 256 cc pass with no further quad ready, and a partly filled pixel work-group launches with padding. Operands: pass, region. -/
  | pixelLaunchTimeout
  /-- PASS_END (R327): The remaining bins are rendered, tile state is written to the targets and the k-buffer is resolved. Operands: pass. -/
  | passEnd
  /-- TAG_RETIRE_BATCH (R394): A core sends retirements when 64 have gathered for one home, or 256 cc have passed. Operands: core. -/
  | tagRetireBatch
  /-- TAG_RETIREMENT_RECEIVE (R394): A home drops the entries of retired tags. Operands: idx. -/
  | tagRetirementReceive
  /-- TAG_PIN_RELEASE (R394): A forwarded retirement releases a pinned sequence number on the issuing core. Operands: core, seq. -/
  | tagPinRelease
  /-- TAG_QUOTA_STOP (R395): A core receives a quota stop and holds new tagged operations of the context. Operands: core, ctx. -/
  | tagQuotaStop
  /-- TAG_QUOTA_GO (R395): A core receives a go and admits the context's tagged operations again. Operands: core, ctx. -/
  | tagQuotaGo
  /-- MTU_WALK (R412): The MTU walks the page table for a request that the L2 sends to memory. Operands: op, part. -/
  | mtuWalk
  /-- PAGE_FILL_COMPLETE (R414): A fill ends; the entry's word 1 is written and the held requests are served. Operands: page. -/
  | pageFillComplete
  /-- EPISODE_RELEASE (R420): After mtuinv.rel, the page is walked again and its parked and held traffic is performed, or discarded if the walk is fatal. Operands: page. -/
  | episodeRelease
  /-- LANE_RECORD_HANDOVER (R381): The trap collector hands an accepted lane H or lane R record over, in SEQ order. -/
  | laneRecordHandover
  /-- CAIRN_BATCH_WINDOW (R421): WINDOW cc pass since a batch's first page, and the batch closes. -/
  | cairnBatchWindow
  /-- CAIRN_RING_WRITE (R421): Once the ring has room, Cairn writes a closed batch and releases HEAD. -/
  | cairnRingWrite
  /-- HW_TIMEOUT (R234): An uncached device access is not completed within 48 cc and ends with HW_TIMEOUT. Operands: op. -/
  | hwTimeout
  /-- DOORBELL (R432): A host write to DBELL advances a queue's WIDX and makes the queue ready. Operands: v. -/
  | doorbell
  /-- LAUNCH (R438): A LAUNCH packet copies its launch record and starts a grid launch. Operands: q. -/
  | launch
  /-- POOL_LAUNCH (R439): A POOL_LAUNCH packet starts a launch fed by a continuation pool. Operands: q. -/
  | poolLaunch
  /-- RENDER_PASS_OPEN (R440): A RENDER_PASS open starts a pass from its pass block. Operands: q. -/
  | renderPassOpen
  /-- RENDER_PASS_CLOSE (R436): A RENDER_PASS close ends the open pass. Operands: q. -/
  | renderPassClose
  /-- DRAW_MESH (R435): A DRAW_MESH packet launches mesh work-groups into the open pass. Operands: q. -/
  | drawMesh
  /-- COPY (R436): A COPY packet copies LEN bytes. Operands: q. -/
  | copy
  /-- WAIT_PACKET (R441): A WAIT packet compares a word, and parks the queue when the comparison fails. Operands: q. -/
  | waitPacket
  /-- WAIT_WATCH_RECHECK (R441): A write or snoop on a watched line makes the signal unit read the word again. Operands: q. -/
  | waitWatchRecheck
  /-- WAIT_WATCH_TIMEOUT (R441): 65,536 cc pass and a parked queue's word is read again. Operands: q. -/
  | waitWatchTimeout
  /-- SIGNAL (R436): A SIGNAL packet sets or adds to a word, as a release at .sys. Operands: q. -/
  | signal
  /-- LINK (R431): A LINK packet moves the queue to its next segment and frees the old one. Operands: q. -/
  | link
  /-- FENCE_PACKET (R436): A FENCE packet waits for earlier packets and performs fence.ar at its scope. Operands: q. -/
  | fencePacket
  /-- PARTITION_SET (R442): A PARTITION_SET packet installs a partition block. Operands: q. -/
  | partitionSet
  /-- PACKET_COMPLETE (R436): A packet completes: a release at .sys, CSTAT and CSIG written, and an event posted with IRQ. Operands: pkt. -/
  | packetComplete
  /-- EQUINOX_REPORT (R450): Rank 0 receives a ready or refused report, and sends go or abort. Operands: rank, gen, code. -/
  | equinoxReport
  /-- EQUINOX_GO (R450): A module receives go, sets GEN and starts placement. Operands: gen. -/
  | equinoxGo
  /-- EQUINOX_ABORT (R451): A module receives abort and completes the launch with CODE 3. Operands: gen, code. -/
  | equinoxAbort
  /-- EQUINOX_TIMEOUT (R451): EQTMO cc pass without every report, and rank 0 sends abort. Operands: gen. -/
  | equinoxTimeout
  /-- DBGREQ_HALT (R404): A DBGREQ write with OP 0 starts a debugger halt. Operands: v. -/
  | dbgreqHalt
  /-- DBGREQ_CONTINUE (R405): A DBGREQ write with OP 1 continues a halted work-group by replay. Operands: v. -/
  | dbgreqContinue
  /-- DBGREQ_CONVERT (R405): A DBGREQ write with OP 2 converts a debugger halt into a pre-emption. Operands: v. -/
  | dbgreqConvert
  /-- DBGREQ_KILL (R405): A DBGREQ write with OP 3 ends the work-group under R380. Operands: v. -/
  | dbgreqKill
  /-- REGISTER_WRITE (R427): A write to a hub register that has no row of its own. Operands: host, off, v. -/
  | registerWrite
  /-- MR_EXTEND (R476): A write of IDX to MRCTL extends MRi with MRDATA. Operands: i. -/
  | mrExtend
  /-- SWAIT_TIMEOUT (R452): The swait count expires and rd receives 0. Operands: hart. -/
  | swaitTimeout
  /-- RINSAR_HUB_TIMEOUT (R453): The hub gives no answer within 65,536 hub cycles and the hart takes mcause 31. Operands: hart. -/
  | rinsarHubTimeout
  /-- RDS (R458): Read request at a home, granting S, or E when no other agent holds the line. Operands: agent, line. -/
  | rds
  /-- RDX (R458): Read-for-ownership request at a home; other copies are snooped out and E is granted. Operands: agent, line. -/
  | rdx
  /-- UPG (R459): Upgrade from S to E without data, served as RdX if the copy was snooped away. Operands: agent, line. -/
  | upg
  /-- WB (R458): Write-back of M data to the home; the agent goes to I. Operands: agent, line, data. -/
  | wb
  /-- SNPS (R458): Snoop at an agent that downgrades its copy to S and returns dirty data. Operands: agent, line. -/
  | snps
  /-- SNPI (R458): Snoop at an agent that invalidates its copy and returns dirty data. Operands: agent, line. -/
  | snpi
  /-- RSP (R459): An agent's snoop response, possibly with data and CNF, reaches the home. Operands: agent, line, data. -/
  | rsp
  /-- GO (R458): A grant from the home reaches the requesting agent. Operands: agent, line. -/
  | go
  /-- GOACK (R459): Receipt of a grant reaches the home and ends the transaction. Operands: agent, line. -/
  | goack
  /-- PEER_FLIT_RECEIVE (R465): A peer-link flit is checked, acknowledged or refused with NAK, applied to flow control, or forwarded. Operands: link, flit. -/
  | peerFlitReceive
  /-- CXL_PORT_LINK_DOWN (R463): A downstream port's link goes down, and its accesses return poison. Operands: port. -/
  | cxlPortLinkDown
  /-- DISPLAY_GUARD_TIME (R470): At T_g a head takes its complete frame or warps the last complete frame to the newest pose. Operands: head. -/
  | displayGuardTime
  /-- HEAD_ENABLE_POLL (R469): Every 65,536 cc, disabled heads are read for enabling and their timing is taken. -/
  | headEnablePoll
  /-- IMAGE (R473): A DOE IMAGE object stages image bytes. Operands: off, data. -/
  | image
  /-- BOOT (R475): A DOE BOOT object makes the boot ROM measure and check the image and start the harts or enter recovery. Operands: len. -/
  | boot
  /-- STATUS (R473): A DOE STATUS object returns BOOTST. -/
  | status
  /-- ATTEST (R477): A DOE ATTEST object returns a signed report of the measurement registers. Operands: nonce. -/
  | attest
  /-- MODULE_RESET (R472): A fundamental reset, loss of 48 V or a power-stage trip clears device state and starts bring-up. -/
  | moduleReset
  /-- POWER_SAMPLE (R480): Every 4,096 cc the power stage measures PIN. Operands: pin. -/
  | powerSample
  /-- D3HOT_ENTRY (R481): On host request, every core is gated and GDDR 7 enters self-refresh. -/
  | d3hotEntry
  /-- D3HOT_EXIT (R481): Return from D3hot: the hub restores its registers without a reset. -/
  | d3hotExit
  /-- D3COLD_ENTRY (R481): GDDR 7 enters self-refresh before power is removed. -/
  | d3coldEntry
  /-- CORE_IDLE_GATE (R481): A core that has held no work-group for 65,536 cc is power-gated. Operands: core. -/
  | coreIdleGate
  /-- SRAM_SCRUB (R478): Every 4,096 cc, each array scrubs one word, correcting or poisoning it. -/
  | sramScrub
  /-- AUX_POWER_LOSS (R481): The host stops supplying auxiliary power while the module is in D3cold, so the GDDR 7 contents become undefined. -/
  | auxPowerLoss
  /-- PEER_LINK_TRAINED (R467): A peer link that LEN allows to train finishes training and comes up, and LINKST.UP is set. Operands: n. -/
  | peerLinkTrained
  /-- DOWNSTREAM_PORT_LINK_UP (R463): A downstream CXL port's link comes up, and its CXLCAP UP bit and capacity take effect. Operands: port, cap. -/
  | downstreamPortLinkUp
  /-- FREE_LIST_GET_ADVANCE (R431): The queue engine sees the host advance GET of a full free list, writes the held old segment into the list and resumes reading the queue's slots. Operands: q. -/
  | freeListGetAdvance
  /-- EQUINOX_PACKET_RECEIVE (R450): A module of rank other than 0 receives a replicated domain launch with its generation, checks the record and reports ready or refused to rank 0. Operands: data. -/
  | equinoxPacketReceive
  deriving DecidableEq, Repr

end Sys2Proof
end

