-- ==== Sys2Proof/WellFormed.lean ====
section
/-! DEFINITION. Which field values are encodings: step 4 of R154, with R146, R147, R149, R151 and R155. -/
namespace Sys2Proof

/-- How an entry uses field D: not at all, as a destination (or a pair it reads), as a k index (R184), as a gang register
(R276), or equal to C (R235, R244). -/
inductive DUse where
  | none | any | kreg | gang | eqC
  deriving DecidableEq, Repr

/-- How an entry uses field A, B or C (R146): not at all, a window word, a window word or k register (A), every form (B),
a window word, k register or the literal (R240, R241), an immediate or literal (R181), a k register (R182), a predicate number. -/
inductive SUse where
  | none | win | wink | full | regLit | imm | kreg | pred
  deriving DecidableEq, Repr

/-- Whether the compact map lets the instruction carry a literal (B6 is reg or imm), and whether it marks it C = D (R151). -/
inductive CUse where
  | no | lit | litCD
  deriving DecidableEq, Repr

/-- The operand record of an XOPC: what its entry assigns. `mask` holds the assigned MOD bits (R149), `bt` says that B has
the width of TY, `sq` marks the squad instructions (R225). -/
structure Shape where
  op : Nat
  d : DUse := .none
  dx : Bool := false
  a : SUse := .none
  b : SUse := .none
  c : SUse := .none
  mask : Word := 0#32
  bt : Bool := false
  sq : Bool := false
  cl : CUse := .no
  /-- The entry has ORD, SCOPE and GRP (R149). -/
  sc : Bool := false
  deriving DecidableEq, Repr

/-- A type code of 64 bits or more (R150). -/
def ty64 (t : Nat) : Bool := 0x0A ≤ t && t ≤ 0x0F

/-- Bits of operand B, for the literal rule of R146. -/
def Shape.bWidth (h : Shape) (x : X) : Nat := if h.bt && ty64 x.ty then 64 else 32

/-- The literal is the member mask (R225). -/
def Shape.litIsMask (h : Shape) (x : X) : Bool := h.sq && x.mf 31 30 = 2

def DUse.ok (u : DUse) (x : X) : Bool :=
  match u with
  | .none => x.d = 0#8
  | .any => true
  | .kreg => x.d.toNat < 64
  | .gang => x.d.toNat < 4
  | .eqC => x.d = x.c

def SUse.okA (u : SUse) (x : X) : Bool :=
  match u with
  | .win => !x.ak
  | .wink => !x.ak || x.a.toNat < 64
  | .pred => !x.ak && !x.fa && x.a.toNat < 32
  | _ => !x.ak && !x.fa && x.a = 0#8

/-- `byLit`: B is the literal, so the field itself is unused. -/
def SUse.okB (u : SUse) (byLit : Bool) (x : X) : Bool :=
  match u with
  | .win => !x.bi && !x.bk
  | .full => !(x.bi && x.bk) && (!x.bk || x.b.toNat < 64) && (!byLit || x.b = 0#8)
  | .regLit => x.bi = x.hasLit && !(x.bi && x.bk) && (!x.bk || x.b.toNat < 64) && (!byLit || x.b = 0#8)
  | .imm => x.bi && !x.bk && (!byLit || x.b = 0#8)
  | .kreg => x.bk && !x.bi && x.b.toNat < 64
  | .pred => !x.bi && !x.bk && !x.fb && x.b.toNat < 32
  | _ => !x.bi && !x.bk && !x.fb && x.b = 0#8

def SUse.okC (u : SUse) (x : X) : Bool :=
  match u with
  | .win => true
  | .pred => !x.fc && x.c.toNat < 32
  | _ => !x.fc && x.c = 0#8

/-- The literal rules of R146 and R225. -/
def Shape.okLit (h : Shape) (x : X) : Bool :=
  if h.litIsMask x then x.form = .extLit && x.lit.toNat < 2 ^ 32
  else if x.hasLit then x.bi && x.lit.toNat < 2 ^ h.bWidth x
  else x.lit = 0#64

/-- The fields a compact + literal form can hold (R147). -/
def Shape.okCmpLit (h : Shape) (x : X) : Bool :=
  x.pg.toNat < 4 && x.dx = 0#7 && x.d.toNat < 128 && x.a.toNat < 128 && x.b = 0#8 && x.m.toNat < 64 &&
  x.bi && !x.bk && !x.ak && !x.fa && !x.fb && !x.fc &&
  (match h.cl with
   | .no => false
   | .lit => x.c = 0#8
   | .litCD => x.c = x.d.setWidth 8)

def Shape.okForm (h : Shape) (x : X) : Bool :=
  match x.form with
  | .cmp => false
  | .cmpLit => h.okCmpLit x
  | .ext => true
  | .extLit => true

/-- MOD bits no field of the entry holds are zero, and GRP is zero unless SCOPE = 6 (R149). -/
def Shape.okMod (h : Shape) (x : X) : Bool :=
  x.m &&& ~~~h.mask = 0#32 && (!h.sc || x.scope = 6 || x.grp = 0)

def Shape.ok (h : Shape) (x : X) : Bool :=
  h.d.ok x && (if h.dx then x.dx.toNat < 32 else x.dx = 0#7) && h.a.okA x &&
  h.b.okB (x.hasLit && !h.litIsMask x) x && h.c.okC x && h.okLit x && h.okForm x && h.okMod x

/-! ## Fields that are reserved under values of others (R155) -/

/-- Unused A, B, C, D or DX. -/
def X.noA (x : X) : Bool := x.a = 0#8 && !x.ak && !x.fa
def X.noB (x : X) : Bool := x.b = 0#8 && !x.bi && !x.bk && !x.fb
def X.noC (x : X) : Bool := x.c = 0#8 && !x.fc
def X.noD (x : X) : Bool := x.d = 0#8
def X.noDx (x : X) : Bool := x.dx = 0#7

/-- `cond` requires `need`. -/
def whenB (cond need : Bool) : Bool := !cond || need

def exIcmp (x : X) : Bool := whenB (!x.mb 28) x.noD && whenB (x.mf 27 26 = 0) x.noC
def exFcmp (x : X) : Bool := whenB (!x.mb 28) x.noD && whenB (x.mf 30 29 = 0) x.noC
def exMovs (x : X) : Bool := if x.mb 31 then x.noD else x.noA
def exFclass (x : X) : Bool := if x.mb 23 then x.noD else x.noB && x.noDx
def exUnpk (x : X) : Bool := if x.mb 31 then x.mf 27 23 = 0 else x.slot = 0
def exPack (x : X) : Bool :=
  if x.mb 31 then x.mf 27 23 = 0 && x.rnd = 0 && !x.sat else x.slot = 0 && whenB (x.rnd ≠ 5) x.noB
/-- R225: C is read only with MSRC = 1. -/
def exSquad (x : X) : Bool := whenB (x.mf 31 30 ≠ 1) x.noC
def exVote (x : X) : Bool :=
  exSquad x && (if x.mf 24 23 = 0 then !x.mb 28 else whenB (!x.mb 28) x.noD)
def exAtom (x : X) : Bool := whenB (x.mf 26 23 ≠ 7) x.noC
def exAtomf (x : X) : Bool := whenB (x.mb 31) x.noD && whenB (x.mf 24 23 ≠ 0) (x.rnd = 0)
def exAtomfx (x : X) : Bool := whenB (x.mb 31) x.noD
/-- BR is used with CNT alone, SLOT in the planar modes alone (R256, R258). -/
def exTcpy (x : X) : Bool := whenB (!x.mb 28) (x.mf 26 23 = 0) && whenB (x.mf 31 29 < 2 || 4 < x.mf 31 29) (x.slot = 0)
def exAscl (x : X) : Bool := whenB (!x.mb 10) x.noA && whenB (!x.mb 9) x.noB
def exAwait (x : X) : Bool := whenB (x.mb 10) (x.mf 31 23 = 0 && x.mf 19 11 = 0)
def exAttr (x : X) : Bool := whenB (x.mf 26 25 ≠ 2) x.noB
def exSmp (x : X) : Bool := whenB (x.mf 28 27 = 2) x.noC
def exSysrd (x : X) : Bool := whenB (x.mf 31 20 ≠ 0x050) x.noB

/-! ## The operand records (R151, R152 and each entry) -/

def shNopExtended : Shape := { op := 0x001 }
def shBraExtended : Shape := { op := 0x002, mask := 0xFFFFFFFF#32 }
def shCallExtended : Shape := { op := 0x003, d := .any, mask := 0xFFFFFFFF#32 }
def shRetExtended : Shape := { op := 0x004, a := .wink }
def shExitExtended : Shape := { op := 0x005 }
def shYieldExtended : Shape := { op := 0x006 }
def shWaitExtended : Shape := { op := 0x007, a := .win, b := .full, mask := 0x000FFE00#32, cl := .lit, sc := true }
def shMovExtended : Shape := { op := 0x008, d := .any, a := .wink, mask := 0x0000011F#32 }
def shMoviExtended : Shape := { op := 0x009, d := .any, b := .imm, mask := 0x0000011F#32, bt := true, cl := .lit }
def shMovkExtended : Shape := { op := 0x00A, d := .any, b := .kreg }
def shMovsExtended : Shape := { op := 0x00B, d := .any, a := .wink, mask := 0xFF800000#32 }
def shWkExtended : Shape := { op := 0x00C, d := .kreg, a := .wink }
def shLeaExtended : Shape := { op := 0x00D, d := .any, a := .win, b := .full, mask := 0x07800000#32, cl := .lit }
def shIaddExtended : Shape := { op := 0x00E, d := .any, a := .wink, b := .full, mask := 0x0000011F#32, bt := true, cl := .lit }
def shIsubExtended : Shape := { op := 0x00F, d := .any, a := .wink, b := .full, mask := 0x0000011F#32, bt := true, cl := .lit }
def shImulExtended : Shape := { op := 0x010, d := .any, a := .wink, b := .full, mask := 0x0000011F#32, bt := true, cl := .lit }
def shImulhExtended : Shape := { op := 0x011, d := .any, a := .wink, b := .full, mask := 0x0000011F#32, bt := true, cl := .lit }
def shImadExtended : Shape := { op := 0x012, d := .any, a := .wink, b := .full, c := .win, mask := 0x0000011F#32, bt := true, cl := .litCD }
def shIsadExtended : Shape := { op := 0x013, d := .any, a := .wink, b := .full, c := .win, mask := 0x0000011F#32, bt := true, cl := .litCD }
def shIminExtended : Shape := { op := 0x014, d := .any, a := .wink, b := .full, mask := 0x0000011F#32, bt := true, cl := .lit }
def shImaxExtended : Shape := { op := 0x015, d := .any, a := .wink, b := .full, mask := 0x0000011F#32, bt := true, cl := .lit }
def shIabsExtended : Shape := { op := 0x016, d := .any, a := .wink, mask := 0x0000011F#32 }
def shInegExtended : Shape := { op := 0x017, d := .any, a := .wink, mask := 0x0000011F#32 }
def shAndExtended : Shape := { op := 0x018, d := .any, a := .wink, b := .full, mask := 0x0000011F#32, bt := true, cl := .lit }
def shOrExtended : Shape := { op := 0x019, d := .any, a := .wink, b := .full, mask := 0x0000011F#32, bt := true, cl := .lit }
def shXorExtended : Shape := { op := 0x01A, d := .any, a := .wink, b := .full, mask := 0x0000011F#32, bt := true, cl := .lit }
def shShlExtended : Shape := { op := 0x01B, d := .any, a := .wink, b := .full, mask := 0x0000011F#32, cl := .lit }
def shShrExtended : Shape := { op := 0x01C, d := .any, a := .wink, b := .full, mask := 0x0080011F#32, cl := .lit }
def shFsh : Shape := { op := 0x01C, d := .any, a := .wink, b := .full, c := .win, mask := 0x0080011F#32 }
def shSarExtended : Shape := { op := 0x01D, d := .any, a := .wink, b := .full, mask := 0x0000011F#32, cl := .lit }
def shRotExtended : Shape := { op := 0x01E, d := .any, a := .wink, b := .full, mask := 0x0000011F#32, cl := .lit }
def shBfxExtended : Shape := { op := 0x01F, d := .any, a := .wink, b := .full, mask := 0x0000011F#32, cl := .lit }
def shBfiExtended : Shape := { op := 0x020, d := .any, a := .wink, b := .full, c := .win, mask := 0x0000011F#32, cl := .litCD }
def shPopcExtended : Shape := { op := 0x021, d := .any, a := .wink, mask := 0x0000011F#32 }
def shClzExtended : Shape := { op := 0x022, d := .any, a := .wink, mask := 0x0000011F#32 }
def shBrevExtended : Shape := { op := 0x023, d := .any, a := .wink, mask := 0x0000011F#32 }
def shPrmtExtended : Shape := { op := 0x024, d := .any, a := .wink, b := .full, c := .win, mask := 0x0000011F#32, cl := .litCD }
def shFaddExtended : Shape := { op := 0x025, d := .any, a := .wink, b := .full, mask := 0x000001FF#32, cl := .lit }
def shFsubExtended : Shape := { op := 0x026, d := .any, a := .wink, b := .full, mask := 0x000001FF#32, cl := .lit }
def shFmulExtended : Shape := { op := 0x027, d := .any, a := .wink, b := .full, mask := 0x000001FF#32, cl := .lit }
def shFfmaExtended : Shape := { op := 0x028, d := .any, a := .wink, b := .full, c := .win, mask := 0x000001FF#32, cl := .litCD }
def shFminExtended : Shape := { op := 0x029, d := .any, a := .wink, b := .full, mask := 0x0000001F#32, cl := .lit }
def shFmaxExtended : Shape := { op := 0x02A, d := .any, a := .wink, b := .full, mask := 0x0000001F#32, cl := .lit }
def shFscaleExtended : Shape := { op := 0x02B, d := .any, a := .wink, b := .full, mask := 0x000001FF#32, cl := .lit }
def shFrndExtended : Shape := { op := 0x02C, d := .any, a := .wink, mask := 0x000000FF#32 }
def shFrcpExtended : Shape := { op := 0x02D, d := .any, a := .wink, mask := 0x000000FF#32 }
def shFrsqExtended : Shape := { op := 0x02E, d := .any, a := .wink, mask := 0x0000001F#32 }
def shFsqrtExtended : Shape := { op := 0x02F, d := .any, a := .wink, mask := 0x000000FF#32 }
def shFex2Extended : Shape := { op := 0x030, d := .any, a := .wink, mask := 0x0000001F#32 }
def shFlg2Extended : Shape := { op := 0x031, d := .any, a := .wink, mask := 0x0000001F#32 }
def shFsinpiExtended : Shape := { op := 0x032, d := .any, a := .wink, mask := 0x0000001F#32 }
def shFcospiExtended : Shape := { op := 0x033, d := .any, a := .wink, mask := 0x0000001F#32 }
def shFtanhExtended : Shape := { op := 0x034, d := .any, a := .wink, mask := 0x0000001F#32 }
def shHadd2Extended : Shape := { op := 0x035, d := .any, a := .wink, b := .full, mask := 0x000001FF#32, cl := .lit }
def shHmul2Extended : Shape := { op := 0x036, d := .any, a := .wink, b := .full, mask := 0x000001FF#32, cl := .lit }
def shHfma2Extended : Shape := { op := 0x037, d := .any, a := .wink, b := .full, c := .win, mask := 0x000001FF#32, cl := .litCD }
def shBfma2Extended : Shape := { op := 0x038, d := .any, a := .wink, b := .full, c := .win, mask := 0x000001FF#32, cl := .litCD }
def shIcvtfExtended : Shape := { op := 0x039, d := .any, a := .wink, mask := 0x038001FF#32 }
def shFcvtiExtended : Shape := { op := 0x03A, d := .any, a := .wink, mask := 0x038000FF#32 }
def shIdot4Extended : Shape := { op := 0x03B, d := .any, a := .wink, b := .full, c := .win, mask := 0x01800100#32, cl := .litCD }
def shFdot2Extended : Shape := { op := 0x03C, d := .any, a := .wink, b := .full, c := .win, mask := 0x000001FF#32, cl := .litCD }
def shLdExtended : Shape := { op := 0x03D, d := .any, a := .win, b := .full, mask := 0x000FFE1F#32, cl := .lit, sc := true }
def shStExtended : Shape := { op := 0x03E, d := .eqC, a := .win, b := .full, c := .win, mask := 0x000FFE1F#32, cl := .litCD, sc := true }
/-- `ldc` takes SCOPE and GRP as `ld` does: R235 writes no scope in its syntax and passes SCOPE in its pseudocode. DESIGN CHOICE, log 15. -/
def shLdcExtended : Shape := { op := 0x03F, d := .any, a := .win, b := .full, mask := 0x000FFE1F#32, cl := .lit, sc := true }
def shIaddc : Shape := { op := 0x040, d := .any, a := .wink, b := .full, c := .pred, dx := true, mask := 0x0080011F#32, bt := true }
def shIsubb : Shape := { op := 0x041, d := .any, a := .wink, b := .full, c := .pred, dx := true, mask := 0x0080011F#32, bt := true }
def shImadw : Shape := { op := 0x042, d := .any, a := .wink, b := .full, c := .win, mask := 0x0000011F#32 }
def shLop3 : Shape := { op := 0x043, d := .any, a := .wink, b := .full, c := .win, mask := 0x7F80011F#32, bt := true }
def shIcmp : Shape := { op := 0x044, d := .any, a := .wink, b := .full, c := .pred, dx := true, mask := 0x1F80011F#32, bt := true }
def shIsel : Shape := { op := 0x045, d := .any, a := .wink, b := .full, c := .pred, mask := 0x0000011F#32, bt := true }
def shPtag : Shape := { op := 0x046, d := .any, a := .win, b := .full, mask := 0x01800000#32 }
def shPspace : Shape := { op := 0x047, d := .any, a := .win, dx := true, mask := 0x01800000#32 }
def shPlop3 : Shape := { op := 0x048, a := .pred, b := .pred, c := .pred, dx := true, mask := 0x7F800000#32 }
def shPsetb : Shape := { op := 0x049, a := .wink, b := .full }
def shPgetb : Shape := { op := 0x04A, d := .any }
def shPmov : Shape := { op := 0x04B, a := .pred, dx := true, mask := 0x00800000#32 }
def shBrx : Shape := { op := 0x04C, a := .wink, b := .full }
def shCallx : Shape := { op := 0x04D, d := .any, a := .wink, b := .full, mask := 0xFF800000#32 }
def shSpawn : Shape := { op := 0x04E, d := .any, a := .wink, b := .win, dx := true, mask := 0x07800000#32 }
def shSleep : Shape := { op := 0x04F, b := .full }
def shBrk : Shape := { op := 0x050, mask := 0x0000FFFF#32 }
def shTrap : Shape := { op := 0x051, mask := 0x0000FFFF#32 }
def shFcmp : Shape := { op := 0x060, d := .any, a := .wink, b := .full, c := .pred, dx := true, mask := 0x7780001F#32 }
/-- `fclass` names no type: TY must be 0, also where it would say `.f32`. DESIGN CHOICE, log 15. -/
def shFclass : Shape := { op := 0x061, d := .any, a := .wink, b := .full, dx := true, mask := 0x00800000#32 }
def shFexp : Shape := { op := 0x062, d := .any, a := .wink, mask := 0x0000001F#32 }
def shFmant : Shape := { op := 0x063, d := .any, a := .wink, mask := 0x0000001F#32 }
def shHmnx2 : Shape := { op := 0x064, d := .any, a := .wink, b := .full, mask := 0x0080001F#32 }
def shFcvt : Shape := { op := 0x065, d := .any, a := .wink, mask := 0x0F8001FF#32 }
def shUnpk : Shape := { op := 0x066, d := .any, a := .wink, mask := 0x8FF00000#32 }
def shPack : Shape := { op := 0x067, d := .any, a := .win, b := .full, mask := 0x8FF001E0#32 }
def shShfl : Shape := { op := 0x068, d := .any, a := .wink, b := .full, c := .win, dx := true, mask := 0xC180001F#32, sq := true }
def shVote : Shape := { op := 0x069, d := .any, a := .pred, c := .win, dx := true, mask := 0xD3800000#32, sq := true }
def shSqred : Shape := { op := 0x06A, d := .any, a := .wink, c := .win, mask := 0xF80001FF#32, sq := true }
def shSqscan : Shape := { op := 0x06B, d := .any, a := .wink, c := .win, mask := 0xFC0001FF#32, sq := true }
def shMatchSq : Shape := { op := 0x06C, d := .any, a := .wink, c := .win, dx := true, mask := 0xC180001F#32, sq := true }
def shAtom : Shape := { op := 0x080, d := .any, a := .win, b := .full, c := .win, mask := 0x078FFE1F#32, bt := true, sc := true }
def shRed : Shape := { op := 0x081, a := .win, b := .full, mask := 0x078FFE1F#32, bt := true, sc := true }
def shAtomf : Shape := { op := 0x082, d := .any, a := .win, b := .regLit, mask := 0x818FFEFF#32, sc := true }
def shAtomfx : Shape := { op := 0x083, d := .any, a := .win, b := .regLit, mask := 0xBF8FFE00#32, sc := true }
def shFence : Shape := { op := 0x084, mask := 0x000FFE00#32, sc := true }
def shFencep : Shape := { op := 0x085, a := .wink, mask := 0x008FFE00#32, sc := true }
def shLdfe : Shape := { op := 0x086, d := .any, a := .win, b := .full, mask := 0x8000001F#32 }
def shStfe : Shape := { op := 0x087, d := .eqC, a := .win, b := .full, c := .win, mask := 0x0000001F#32 }
def shFezap : Shape := { op := 0x088, a := .win, b := .full }
def shFeprb : Shape := { op := 0x089, d := .any, a := .win, dx := true }
def shBarInit : Shape := { op := 0x08A, b := .full, mask := 0x07800000#32 }
def shBarArv : Shape := { op := 0x08B, b := .full, mask := 0x07800000#32 }
def shBarExp : Shape := { op := 0x08C, b := .full, mask := 0x0F800000#32 }
def shBarWait : Shape := { op := 0x08D, b := .full, mask := 0x07800000#32 }
def shBarTest : Shape := { op := 0x08E, b := .full, dx := true, mask := 0x07800000#32 }
def shCpy : Shape := { op := 0x08F, d := .any, a := .win, b := .full, mask := 0x00007000#32 }
def shCpywait : Shape := { op := 0x090, mask := 0x00007000#32 }
def shCpytest : Shape := { op := 0x091, d := .any, dx := true, mask := 0x00007000#32 }
def shTcpy : Shape := { op := 0x092, a := .win, mask := 0xFFF07000#32 }
def shTcpyc : Shape := { op := 0x093, a := .win, b := .win, dx := true, mask := 0xE0000000#32 }
def shPfx : Shape := { op := 0x094, a := .win, b := .full, mask := 0x80000000#32 }
def shCont : Shape := { op := 0x095, a := .win, b := .full }
def shGang : Shape := { op := 0x0C0, d := .gang, b := .full }
def shMma : Shape := { op := 0x0C1, a := .win, b := .win, c := .win, mask := 0xFFFFFFF8#32 }
def shAclr : Shape := { op := 0x0C2, b := .full, mask := 0xFF8FF800#32 }
def shAld : Shape := { op := 0x0C3, a := .win, b := .full, mask := 0xFF8FFC1F#32 }
def shAst : Shape := { op := 0x0C4, a := .win, b := .full, mask := 0xFF8FFDFF#32 }
def shAldFrag : Shape := { op := 0x0C3, d := .any, b := .full, mask := 0xFF8FE400#32 }
def shAstFrag : Shape := { op := 0x0C4, d := .any, b := .full, mask := 0xFF8FE400#32 }
def shAcvt : Shape := { op := 0x0C5, mask := 0xFF8FF9FF#32 }
def shAscl : Shape := { op := 0x0C6, a := .win, b := .win, mask := 0xFF8FFFE0#32 }
def shPlan : Shape := { op := 0x0C7, a := .win, mask := 0x007FFC00#32 }
def shAwait : Shape := { op := 0x0C8, mask := 0xFF8FFE00#32 }
def shAwaitTest : Shape := { op := 0x0C8, dx := true, mask := 0xFF8FFE00#32 }
def shMvtx : Shape := { op := 0x0E0, a := .wink, b := .win, mask := 0x07800000#32 }
def shMprim : Shape := { op := 0x0E1, a := .wink, b := .full, mask := 0x00800000#32 }
def shMend : Shape := { op := 0x0E2, a := .wink, b := .full }
def shAttr : Shape := { op := 0x0E3, d := .any, b := .full, mask := 0xFF800000#32 }
def shPxdisc : Shape := { op := 0x0E4, b := .full }
def shKbins : Shape := { op := 0x0E5, a := .wink, b := .win }
def shOmst : Shape := { op := 0x0E6, a := .wink, mask := 0x07800000#32 }
def shOmld : Shape := { op := 0x0E7, d := .any, b := .full, mask := 0x07800000#32 }
def shSmp : Shape := { op := 0x0E8, d := .any, a := .win, b := .win, c := .win, dx := true, mask := 0xFF000000#32 }
def shTld : Shape := { op := 0x0E9, d := .any, a := .win, b := .win, dx := true, mask := 0x07800000#32 }
def shTrace : Shape := { op := 0x0EA, d := .any, a := .win, b := .win, c := .win }
def shTrcont : Shape := { op := 0x0EB, d := .any, b := .full }
def shSysrd : Shape := { op := 0x1E0, d := .any, b := .full, mask := 0xFFF00000#32 }
def shSyswr : Shape := { op := 0x1E1, a := .wink, mask := 0xFFF00000#32 }
def shTretRetry : Shape := { op := 0x1E2, mask := 0x01800000#32 }
def shTretSkip : Shape := { op := 0x1E2, mask := 0x01800000#32 }
def shTretAt : Shape := { op := 0x1E2, a := .wink, mask := 0x01800000#32 }
def shTretKill : Shape := { op := 0x1E2, mask := 0x01800000#32 }
def shTmaskCrit : Shape := { op := 0x1E3, mask := 0x01800000#32 }
def shTmaskEnd : Shape := { op := 0x1E3, mask := 0x01800000#32 }
def shCachex : Shape := { op := 0x1E4, mask := 0x01800000#32 }
def shMtuinvInv : Shape := { op := 0x1E5, a := .win, b := .full, mask := 0x01800000#32 }
def shMtuinvRel : Shape := { op := 0x1E5, a := .win, b := .full, mask := 0x01800000#32 }
def shFrmput : Shape := { op := 0x1E6, a := .win, dx := true, mask := 0x01800000#32 }
def shWgctlYield : Shape := { op := 0x1E7, mask := 0x01800000#32 }
def shWgctlSetpc : Shape := { op := 0x1E7, a := .wink, b := .full, mask := 0x01800000#32 }
def shWgctlKill : Shape := { op := 0x1E7, a := .wink, mask := 0x01800000#32 }

/-- What an instruction's well-formedness speaks of: nothing, or a record with its operand shape, its own rule and the
MOD bits that tell it from the other instructions of its XOPC. -/
inductive View where
  | plain
  | ext (h : Shape) (own : Bool) (x : X)

/-- The record of an extended instruction with its shape; `own` joins the entry's own reserved-field rule and the
discriminating MOD bits. -/
def Instr.view : Instr → View
  | .nop _ _ => .plain
  | .nopExtended x => .ext shNopExtended true x
  | .bra _ _ _ => .plain
  | .braExtended x => .ext shBraExtended true x
  | .call _ _ _ _ => .plain
  | .callExtended x => .ext shCallExtended true x
  | .ret _ _ _ => .plain
  | .retExtended x => .ext shRetExtended true x
  | .exit _ _ => .plain
  | .exitExtended x => .ext shExitExtended true x
  | .yield _ _ => .plain
  | .yieldExtended x => .ext shYieldExtended true x
  | .wait _ _ _ _ => .plain
  | .waitExtended x => .ext shWaitExtended true x
  | .mov _ _ _ _ => .plain
  | .movExtended x => .ext shMovExtended true x
  | .movi _ _ _ _ => .plain
  | .moviExtended x => .ext shMoviExtended true x
  | .movk _ _ _ _ => .plain
  | .movkExtended x => .ext shMovkExtended true x
  | .movs _ _ _ _ => .plain
  | .movsExtended x => .ext shMovsExtended (exMovs x) x
  | .wk _ _ _ _ => .plain
  | .wkExtended x => .ext shWkExtended true x
  | .lea _ _ _ _ _ => .plain
  | .leaExtended x => .ext shLeaExtended true x
  | .iadd _ _ _ _ _ => .plain
  | .iaddExtended x => .ext shIaddExtended true x
  | .isub _ _ _ _ _ => .plain
  | .isubExtended x => .ext shIsubExtended true x
  | .imul _ _ _ _ _ => .plain
  | .imulExtended x => .ext shImulExtended true x
  | .imulh _ _ _ _ _ => .plain
  | .imulhExtended x => .ext shImulhExtended true x
  | .imad _ _ _ _ _ => .plain
  | .imadExtended x => .ext shImadExtended true x
  | .isad _ _ _ _ _ => .plain
  | .isadExtended x => .ext shIsadExtended true x
  | .imin _ _ _ _ _ => .plain
  | .iminExtended x => .ext shIminExtended true x
  | .imax _ _ _ _ _ => .plain
  | .imaxExtended x => .ext shImaxExtended true x
  | .iabs _ _ _ _ => .plain
  | .iabsExtended x => .ext shIabsExtended true x
  | .ineg _ _ _ _ => .plain
  | .inegExtended x => .ext shInegExtended true x
  | .and _ _ _ _ _ => .plain
  | .andExtended x => .ext shAndExtended true x
  | .or _ _ _ _ _ => .plain
  | .orExtended x => .ext shOrExtended true x
  | .xor _ _ _ _ _ => .plain
  | .xorExtended x => .ext shXorExtended true x
  | .shl _ _ _ _ _ => .plain
  | .shlExtended x => .ext shShlExtended true x
  | .shr _ _ _ _ _ => .plain
  | .shrExtended x => .ext shShrExtended (decide (x.mf 23 23 = 0)) x
  | .fsh x => .ext shFsh (decide (x.mf 23 23 = 1)) x
  | .sar _ _ _ _ _ => .plain
  | .sarExtended x => .ext shSarExtended true x
  | .rot _ _ _ _ _ => .plain
  | .rotExtended x => .ext shRotExtended true x
  | .bfx _ _ _ _ _ => .plain
  | .bfxExtended x => .ext shBfxExtended true x
  | .bfi _ _ _ _ _ => .plain
  | .bfiExtended x => .ext shBfiExtended true x
  | .popc _ _ _ _ => .plain
  | .popcExtended x => .ext shPopcExtended true x
  | .clz _ _ _ _ => .plain
  | .clzExtended x => .ext shClzExtended true x
  | .brev _ _ _ _ => .plain
  | .brevExtended x => .ext shBrevExtended true x
  | .prmt _ _ _ _ _ => .plain
  | .prmtExtended x => .ext shPrmtExtended true x
  | .fadd _ _ _ _ _ => .plain
  | .faddExtended x => .ext shFaddExtended true x
  | .fsub _ _ _ _ _ => .plain
  | .fsubExtended x => .ext shFsubExtended true x
  | .fmul _ _ _ _ _ => .plain
  | .fmulExtended x => .ext shFmulExtended true x
  | .ffma _ _ _ _ _ => .plain
  | .ffmaExtended x => .ext shFfmaExtended true x
  | .fmin _ _ _ _ _ => .plain
  | .fminExtended x => .ext shFminExtended true x
  | .fmax _ _ _ _ _ => .plain
  | .fmaxExtended x => .ext shFmaxExtended true x
  | .fscale _ _ _ _ _ => .plain
  | .fscaleExtended x => .ext shFscaleExtended true x
  | .frnd _ _ _ _ => .plain
  | .frndExtended x => .ext shFrndExtended true x
  | .frcp _ _ _ _ => .plain
  | .frcpExtended x => .ext shFrcpExtended true x
  | .frsq _ _ _ _ => .plain
  | .frsqExtended x => .ext shFrsqExtended true x
  | .fsqrt _ _ _ _ => .plain
  | .fsqrtExtended x => .ext shFsqrtExtended true x
  | .fex2 _ _ _ _ => .plain
  | .fex2Extended x => .ext shFex2Extended true x
  | .flg2 _ _ _ _ => .plain
  | .flg2Extended x => .ext shFlg2Extended true x
  | .fsinpi _ _ _ _ => .plain
  | .fsinpiExtended x => .ext shFsinpiExtended true x
  | .fcospi _ _ _ _ => .plain
  | .fcospiExtended x => .ext shFcospiExtended true x
  | .ftanh _ _ _ _ => .plain
  | .ftanhExtended x => .ext shFtanhExtended true x
  | .hadd2 _ _ _ _ _ => .plain
  | .hadd2Extended x => .ext shHadd2Extended true x
  | .hmul2 _ _ _ _ _ => .plain
  | .hmul2Extended x => .ext shHmul2Extended true x
  | .hfma2 _ _ _ _ _ => .plain
  | .hfma2Extended x => .ext shHfma2Extended true x
  | .bfma2 _ _ _ _ _ => .plain
  | .bfma2Extended x => .ext shBfma2Extended true x
  | .icvtf _ _ _ _ => .plain
  | .icvtfExtended x => .ext shIcvtfExtended true x
  | .fcvti _ _ _ _ => .plain
  | .fcvtiExtended x => .ext shFcvtiExtended true x
  | .idot4 _ _ _ _ _ => .plain
  | .idot4Extended x => .ext shIdot4Extended true x
  | .fdot2 _ _ _ _ _ => .plain
  | .fdot2Extended x => .ext shFdot2Extended true x
  | .ld _ _ _ _ _ => .plain
  | .ldExtended x => .ext shLdExtended true x
  | .st _ _ _ _ _ => .plain
  | .stExtended x => .ext shStExtended true x
  | .ldc _ _ _ _ _ => .plain
  | .ldcExtended x => .ext shLdcExtended true x
  | .iaddc x => .ext shIaddc true x
  | .isubb x => .ext shIsubb true x
  | .imadw x => .ext shImadw true x
  | .lop3 x => .ext shLop3 true x
  | .icmp x => .ext shIcmp (exIcmp x) x
  | .isel x => .ext shIsel true x
  | .ptag x => .ext shPtag true x
  | .pspace x => .ext shPspace true x
  | .plop3 x => .ext shPlop3 true x
  | .psetb x => .ext shPsetb true x
  | .pgetb x => .ext shPgetb true x
  | .pmov x => .ext shPmov true x
  | .brx x => .ext shBrx true x
  | .callx x => .ext shCallx true x
  | .spawn x => .ext shSpawn true x
  | .sleep x => .ext shSleep true x
  | .brk x => .ext shBrk true x
  | .trap x => .ext shTrap true x
  | .fcmp x => .ext shFcmp (exFcmp x) x
  | .fclass x => .ext shFclass (exFclass x) x
  | .fexp x => .ext shFexp true x
  | .fmant x => .ext shFmant true x
  | .hmnx2 x => .ext shHmnx2 true x
  | .fcvt x => .ext shFcvt true x
  | .unpk x => .ext shUnpk (exUnpk x) x
  | .pack x => .ext shPack (exPack x) x
  | .shfl x => .ext shShfl (exSquad x) x
  | .vote x => .ext shVote (exVote x) x
  | .sqred x => .ext shSqred (exSquad x) x
  | .sqscan x => .ext shSqscan (exSquad x) x
  | .matchSq x => .ext shMatchSq (exSquad x) x
  | .atom x => .ext shAtom (exAtom x) x
  | .red x => .ext shRed true x
  | .atomf x => .ext shAtomf (exAtomf x) x
  | .atomfx x => .ext shAtomfx (exAtomfx x) x
  | .fence x => .ext shFence true x
  | .fencep x => .ext shFencep true x
  | .ldfe x => .ext shLdfe true x
  | .stfe x => .ext shStfe true x
  | .fezap x => .ext shFezap true x
  | .feprb x => .ext shFeprb true x
  | .barInit x => .ext shBarInit true x
  | .barArv x => .ext shBarArv true x
  | .barExp x => .ext shBarExp true x
  | .barWait x => .ext shBarWait true x
  | .barTest x => .ext shBarTest true x
  | .cpy x => .ext shCpy true x
  | .cpywait x => .ext shCpywait true x
  | .cpytest x => .ext shCpytest true x
  | .tcpy x => .ext shTcpy (exTcpy x) x
  | .tcpyc x => .ext shTcpyc true x
  | .pfx x => .ext shPfx true x
  | .cont x => .ext shCont true x
  | .gang x => .ext shGang true x
  | .mma x => .ext shMma true x
  | .aclr x => .ext shAclr true x
  | .ald x => .ext shAld (decide (x.mf 10 10 = 0)) x
  | .ast x => .ext shAst (decide (x.mf 10 10 = 0)) x
  | .aldFrag x => .ext shAldFrag (decide (x.mf 10 10 = 1)) x
  | .astFrag x => .ext shAstFrag (decide (x.mf 10 10 = 1)) x
  | .fragmentTransfer => .plain
  | .acvt x => .ext shAcvt true x
  | .ascl x => .ext shAscl (exAscl x) x
  | .plan x => .ext shPlan true x
  | .await x => .ext shAwait (exAwait x && decide (x.mf 9 9 = 0)) x
  | .awaitTest x => .ext shAwaitTest (exAwait x && decide (x.mf 9 9 = 1)) x
  | .matrixOpStart => .plain
  | .matrixStepComplete => .plain
  | .mvtx x => .ext shMvtx true x
  | .mprim x => .ext shMprim true x
  | .mend x => .ext shMend true x
  | .attr x => .ext shAttr (exAttr x) x
  | .pxdisc x => .ext shPxdisc true x
  | .kbins x => .ext shKbins true x
  | .omst x => .ext shOmst true x
  | .omld x => .ext shOmld true x
  | .smp x => .ext shSmp (exSmp x) x
  | .tld x => .ext shTld true x
  | .trace x => .ext shTrace true x
  | .trcont x => .ext shTrcont true x
  | .sysrd x => .ext shSysrd (exSysrd x) x
  | .syswr x => .ext shSyswr true x
  | .tretRetry x => .ext shTretRetry (decide (x.mf 24 23 = 0)) x
  | .tretSkip x => .ext shTretSkip (decide (x.mf 24 23 = 1)) x
  | .tretAt x => .ext shTretAt (decide (x.mf 24 23 = 2)) x
  | .tretKill x => .ext shTretKill (decide (x.mf 24 23 = 3)) x
  | .tmaskCrit x => .ext shTmaskCrit (decide (x.mf 24 23 = 0)) x
  | .tmaskEnd x => .ext shTmaskEnd (decide (x.mf 24 23 ≠ 0)) x
  | .cachex x => .ext shCachex true x
  | .mtuinvInv x => .ext shMtuinvInv (decide (x.mf 24 23 = 0)) x
  | .mtuinvRel x => .ext shMtuinvRel (decide (x.mf 24 23 ≠ 0)) x
  | .frmput x => .ext shFrmput true x
  | .wgctlYield x => .ext shWgctlYield (decide (x.mf 24 23 = 0)) x
  | .wgctlSetpc x => .ext shWgctlSetpc (decide (x.mf 24 23 = 1)) x
  | .wgctlKill x => .ext shWgctlKill (decide (x.mf 24 23 ≥ 2)) x
  | .issueCycle => .plain
  | .collectionClose => .plain
  | .regroupMoveComplete => .plain
  | .loadResultLands => .plain
  | .specialFunctionResultLands => .plain
  | .sampleLands => .plain
  | .texelLands => .plain
  | .traversalRecordLands => .plain
  | .mergerAccessPerformed => .plain
  | .homeRequest => .plain
  | .waitRecheckTimeout => .plain
  | .sleepExpiry => .plain
  | .criticalRegionTimeout => .plain
  | .l1LineExpiry => .plain
  | .cpyLanding => .plain
  | .copyUnitComplete => .plain
  | .tcpycCommit => .plain
  | .haltComplete => .plain
  | .freezeComplete => .plain
  | .asyncTrapTaken => .plain
  | .preemptRequest => .plain
  | .saveComplete => .plain
  | .schedulingStep => .plain
  | .spinWindowExpiry => .plain
  | .faultSwapThreshold => .plain
  | .workgroupRetire => .plain
  | .poolRecordArrival => .plain
  | .binAgeLimit => .plain
  | .poolWorkgroupForm => .plain
  | .primitiveSetup => .plain
  | .pixelLaunchTimeout => .plain
  | .passEnd => .plain
  | .tagRetireBatch => .plain
  | .tagRetirementReceive => .plain
  | .tagPinRelease => .plain
  | .tagQuotaStop => .plain
  | .tagQuotaGo => .plain
  | .mtuWalk => .plain
  | .pageFillComplete => .plain
  | .episodeRelease => .plain
  | .laneRecordHandover => .plain
  | .cairnBatchWindow => .plain
  | .cairnRingWrite => .plain
  | .hwTimeout => .plain
  | .doorbell => .plain
  | .launch => .plain
  | .poolLaunch => .plain
  | .renderPassOpen => .plain
  | .renderPassClose => .plain
  | .drawMesh => .plain
  | .copy => .plain
  | .waitPacket => .plain
  | .waitWatchRecheck => .plain
  | .waitWatchTimeout => .plain
  | .signal => .plain
  | .link => .plain
  | .fencePacket => .plain
  | .partitionSet => .plain
  | .packetComplete => .plain
  | .equinoxReport => .plain
  | .equinoxGo => .plain
  | .equinoxAbort => .plain
  | .equinoxTimeout => .plain
  | .dbgreqHalt => .plain
  | .dbgreqContinue => .plain
  | .dbgreqConvert => .plain
  | .dbgreqKill => .plain
  | .registerWrite => .plain
  | .mrExtend => .plain
  | .rfetch _ _ _ => .plain
  | .bfxt _ _ _ => .plain
  | .swait _ _ => .plain
  | .swaitTimeout => .plain
  | .dspch _ _ _ => .plain
  | .rinsarHubTimeout => .plain
  | .rds => .plain
  | .rdx => .plain
  | .upg => .plain
  | .wb => .plain
  | .snps => .plain
  | .snpi => .plain
  | .rsp => .plain
  | .go => .plain
  | .goack => .plain
  | .peerFlitReceive => .plain
  | .cxlPortLinkDown => .plain
  | .displayGuardTime => .plain
  | .headEnablePoll => .plain
  | .image => .plain
  | .boot => .plain
  | .status => .plain
  | .attest => .plain
  | .moduleReset => .plain
  | .powerSample => .plain
  | .d3hotEntry => .plain
  | .d3hotExit => .plain
  | .d3coldEntry => .plain
  | .coreIdleGate => .plain
  | .sramScrub => .plain
  | .auxPowerLoss => .plain
  | .peerLinkTrained => .plain
  | .downstreamPortLinkUp => .plain
  | .freeListGetAdvance => .plain
  | .equinoxPacketReceive => .plain

/-- The fields of the instruction are an encoding of it. A compact form, a Rinsar instruction and a step of a unit have no
field value that is not. -/
def Instr.wf (i : Instr) : Bool :=
  match i.view with
  | .plain => true
  | .ext h own x => h.ok x && own

end Sys2Proof
end

