-- ==== Sys2Proof/Decode.lean ====
section
/-! DEFINITION. Decoding (R143 to R147, R151, R152; Rinsar R452), total and rejecting by name, and the encoder. -/
namespace Sys2Proof

/-- What the decoder finds. `reserved`: step 2 of R154 fails. `badField`: step 4 fails; `priv` says that the opcode is
privileged, so step 3 comes first. `short`: fewer words than the instruction has. -/
inductive Dec where
  | ok (i : Instr)
  | reserved
  | badField (priv : Bool)
  | short
  deriving DecidableEq, Repr

/-- Words of an instruction by LEN (R143). -/
def lenWords (w0 : Word) : Nat :=
  match (w0.extractLsb' 0 2).toNat with
  | 0 => 1
  | 1 => 3
  | 2 => 3
  | _ => 5

/-! ## Extended instructions -/

/-- The record of words 0 to 2 and the literal (R145). -/
def unpackX (form : XForm) (w0 w1 w2 : Word) (lit : DWord) : X where
  form := form
  pn := w0.getLsbD 16
  pg := w0.extractLsb' 11 5
  dx := w0.extractLsb' 25 7
  d := w0.extractLsb' 17 8
  bi := w1.getLsbD 29
  bk := w1.getLsbD 28
  ak := w1.getLsbD 27
  fc := w1.getLsbD 26
  fb := w1.getLsbD 25
  fa := w1.getLsbD 24
  c := w1.extractLsb' 16 8
  b := w1.extractLsb' 8 8
  a := w1.extractLsb' 0 8
  m := w2
  lit := lit

/-- The privileged opcodes (R153). -/
def privOp (op : Nat) : Bool := 0x1E0 ≤ op && op ≤ 0x1E7

/-- The instruction of an XOPC (R152), by its own MOD bits where one code has several; none for a reserved code. -/
def ofXop (op : Nat) (x : X) : Option Instr :=
  match op with
  | 0x001 => some (.nopExtended x)
  | 0x002 => some (.braExtended x)
  | 0x003 => some (.callExtended x)
  | 0x004 => some (.retExtended x)
  | 0x005 => some (.exitExtended x)
  | 0x006 => some (.yieldExtended x)
  | 0x007 => some (.waitExtended x)
  | 0x008 => some (.movExtended x)
  | 0x009 => some (.moviExtended x)
  | 0x00A => some (.movkExtended x)
  | 0x00B => some (.movsExtended x)
  | 0x00C => some (.wkExtended x)
  | 0x00D => some (.leaExtended x)
  | 0x00E => some (.iaddExtended x)
  | 0x00F => some (.isubExtended x)
  | 0x010 => some (.imulExtended x)
  | 0x011 => some (.imulhExtended x)
  | 0x012 => some (.imadExtended x)
  | 0x013 => some (.isadExtended x)
  | 0x014 => some (.iminExtended x)
  | 0x015 => some (.imaxExtended x)
  | 0x016 => some (.iabsExtended x)
  | 0x017 => some (.inegExtended x)
  | 0x018 => some (.andExtended x)
  | 0x019 => some (.orExtended x)
  | 0x01A => some (.xorExtended x)
  | 0x01B => some (.shlExtended x)
  | 0x01C => some (if x.mf 23 23 = 0 then .shrExtended x else .fsh x)
  | 0x01D => some (.sarExtended x)
  | 0x01E => some (.rotExtended x)
  | 0x01F => some (.bfxExtended x)
  | 0x020 => some (.bfiExtended x)
  | 0x021 => some (.popcExtended x)
  | 0x022 => some (.clzExtended x)
  | 0x023 => some (.brevExtended x)
  | 0x024 => some (.prmtExtended x)
  | 0x025 => some (.faddExtended x)
  | 0x026 => some (.fsubExtended x)
  | 0x027 => some (.fmulExtended x)
  | 0x028 => some (.ffmaExtended x)
  | 0x029 => some (.fminExtended x)
  | 0x02A => some (.fmaxExtended x)
  | 0x02B => some (.fscaleExtended x)
  | 0x02C => some (.frndExtended x)
  | 0x02D => some (.frcpExtended x)
  | 0x02E => some (.frsqExtended x)
  | 0x02F => some (.fsqrtExtended x)
  | 0x030 => some (.fex2Extended x)
  | 0x031 => some (.flg2Extended x)
  | 0x032 => some (.fsinpiExtended x)
  | 0x033 => some (.fcospiExtended x)
  | 0x034 => some (.ftanhExtended x)
  | 0x035 => some (.hadd2Extended x)
  | 0x036 => some (.hmul2Extended x)
  | 0x037 => some (.hfma2Extended x)
  | 0x038 => some (.bfma2Extended x)
  | 0x039 => some (.icvtfExtended x)
  | 0x03A => some (.fcvtiExtended x)
  | 0x03B => some (.idot4Extended x)
  | 0x03C => some (.fdot2Extended x)
  | 0x03D => some (.ldExtended x)
  | 0x03E => some (.stExtended x)
  | 0x03F => some (.ldcExtended x)
  | 0x040 => some (.iaddc x)
  | 0x041 => some (.isubb x)
  | 0x042 => some (.imadw x)
  | 0x043 => some (.lop3 x)
  | 0x044 => some (.icmp x)
  | 0x045 => some (.isel x)
  | 0x046 => some (.ptag x)
  | 0x047 => some (.pspace x)
  | 0x048 => some (.plop3 x)
  | 0x049 => some (.psetb x)
  | 0x04A => some (.pgetb x)
  | 0x04B => some (.pmov x)
  | 0x04C => some (.brx x)
  | 0x04D => some (.callx x)
  | 0x04E => some (.spawn x)
  | 0x04F => some (.sleep x)
  | 0x050 => some (.brk x)
  | 0x051 => some (.trap x)
  | 0x060 => some (.fcmp x)
  | 0x061 => some (.fclass x)
  | 0x062 => some (.fexp x)
  | 0x063 => some (.fmant x)
  | 0x064 => some (.hmnx2 x)
  | 0x065 => some (.fcvt x)
  | 0x066 => some (.unpk x)
  | 0x067 => some (.pack x)
  | 0x068 => some (.shfl x)
  | 0x069 => some (.vote x)
  | 0x06A => some (.sqred x)
  | 0x06B => some (.sqscan x)
  | 0x06C => some (.matchSq x)
  | 0x080 => some (.atom x)
  | 0x081 => some (.red x)
  | 0x082 => some (.atomf x)
  | 0x083 => some (.atomfx x)
  | 0x084 => some (.fence x)
  | 0x085 => some (.fencep x)
  | 0x086 => some (.ldfe x)
  | 0x087 => some (.stfe x)
  | 0x088 => some (.fezap x)
  | 0x089 => some (.feprb x)
  | 0x08A => some (.barInit x)
  | 0x08B => some (.barArv x)
  | 0x08C => some (.barExp x)
  | 0x08D => some (.barWait x)
  | 0x08E => some (.barTest x)
  | 0x08F => some (.cpy x)
  | 0x090 => some (.cpywait x)
  | 0x091 => some (.cpytest x)
  | 0x092 => some (.tcpy x)
  | 0x093 => some (.tcpyc x)
  | 0x094 => some (.pfx x)
  | 0x095 => some (.cont x)
  | 0x0C0 => some (.gang x)
  | 0x0C1 => some (.mma x)
  | 0x0C2 => some (.aclr x)
  | 0x0C3 => some (if x.mf 10 10 = 0 then .ald x else .aldFrag x)
  | 0x0C4 => some (if x.mf 10 10 = 0 then .ast x else .astFrag x)
  | 0x0C5 => some (.acvt x)
  | 0x0C6 => some (.ascl x)
  | 0x0C7 => some (.plan x)
  | 0x0C8 => some (if x.mf 9 9 = 0 then .await x else .awaitTest x)
  | 0x0E0 => some (.mvtx x)
  | 0x0E1 => some (.mprim x)
  | 0x0E2 => some (.mend x)
  | 0x0E3 => some (.attr x)
  | 0x0E4 => some (.pxdisc x)
  | 0x0E5 => some (.kbins x)
  | 0x0E6 => some (.omst x)
  | 0x0E7 => some (.omld x)
  | 0x0E8 => some (.smp x)
  | 0x0E9 => some (.tld x)
  | 0x0EA => some (.trace x)
  | 0x0EB => some (.trcont x)
  | 0x1E0 => some (.sysrd x)
  | 0x1E1 => some (.syswr x)
  | 0x1E2 => some (if x.mf 24 23 = 0 then .tretRetry x else if x.mf 24 23 = 1 then .tretSkip x else if x.mf 24 23 = 2 then .tretAt x else .tretKill x)
  | 0x1E3 => some (if x.mf 24 23 = 0 then .tmaskCrit x else .tmaskEnd x)
  | 0x1E4 => some (.cachex x)
  | 0x1E5 => some (if x.mf 24 23 = 0 then .mtuinvInv x else .mtuinvRel x)
  | 0x1E6 => some (.frmput x)
  | 0x1E7 => some (if x.mf 24 23 = 0 then .wgctlYield x else if x.mf 24 23 = 1 then .wgctlSetpc x else .wgctlKill x)
  | _ => none

/-- DEDUCED, log 15. -/
def decodeX (op : Nat) (rsv : Bool) (x : X) : Dec :=
  match ofXop op x with
  | none => .reserved
  | some i => if rsv || !i.wf then .badField (privOp op) else .ok i

/-! ## Compact forms -/

/-- The fields of a compact word (R144). -/
def cB6 (w : Word) : BitVec 6 := w.extractLsb' 26 6
def cA (w : Word) : BitVec 7 := w.extractLsb' 19 7
def cD (w : Word) : BitVec 7 := w.extractLsb' 12 7
def cPG (w : Word) : BitVec 2 := w.extractLsb' 10 2
def cPN (w : Word) : Bool := w.getLsbD 9
def cOPC (w : Word) : Nat := (w.extractLsb' 2 7).toNat

/-- The instruction when the field rule of R151 holds, else a reserved field. -/
def decIf (c : Bool) (i : Instr) : Dec := if c then .ok i else .badField false

/-- A compact form without a literal (R151). -/
def decodeCompact (w : Word) : Dec :=
  match cOPC w with
  | 0x01 => decIf (cD w = 0#7 && cA w = 0#7 && cB6 w = 0#6) (.nop (cPG w) (cPN w))
  | 0x02 => .ok (.bra (cPG w) (cPN w) (w.extractLsb' 12 20))
  | 0x03 => .ok (.call (cPG w) (cPN w) (w.extractLsb' 19 13) (cD w))
  | 0x04 => decIf (cD w = 0#7 && cB6 w = 0#6) (.ret (cPG w) (cPN w) (cA w))
  | 0x05 => decIf (cD w = 0#7 && cA w = 0#7 && cB6 w = 0#6) (.exit (cPG w) (cPN w))
  | 0x06 => decIf (cD w = 0#7 && cA w = 0#7 && cB6 w = 0#6) (.yield (cPG w) (cPN w))
  | 0x07 => decIf (cD w = 0#7) (.wait (cPG w) (cPN w) (cA w) (cB6 w))
  | 0x08 => decIf (cB6 w = 0#6) (.mov (cPG w) (cPN w) (cD w) (cA w))
  | 0x09 => decIf (cA w = 0#7) (.movi (cPG w) (cPN w) (cD w) (cB6 w))
  | 0x0A => decIf (cA w = 0#7) (.movk (cPG w) (cPN w) (cD w) (cB6 w))
  | 0x0B => decIf (cA w = 0#7) (.movs (cPG w) (cPN w) (cD w) (cB6 w))
  | 0x0C => decIf (cB6 w = 0#6 && !w.getLsbD 18) (.wk (cPG w) (cPN w) (w.extractLsb' 12 6) (cA w))
  | 0x0D => .ok (.lea (cPG w) (cPN w) (cD w) (cA w) (cB6 w))
  | 0x0E => .ok (.iadd (cPG w) (cPN w) (cD w) (cA w) (cB6 w))
  | 0x0F => .ok (.isub (cPG w) (cPN w) (cD w) (cA w) (cB6 w))
  | 0x10 => .ok (.imul (cPG w) (cPN w) (cD w) (cA w) (cB6 w))
  | 0x11 => .ok (.imulh (cPG w) (cPN w) (cD w) (cA w) (cB6 w))
  | 0x12 => .ok (.imad (cPG w) (cPN w) (cD w) (cA w) (cB6 w))
  | 0x13 => .ok (.isad (cPG w) (cPN w) (cD w) (cA w) (cB6 w))
  | 0x14 => .ok (.imin (cPG w) (cPN w) (cD w) (cA w) (cB6 w))
  | 0x15 => .ok (.imax (cPG w) (cPN w) (cD w) (cA w) (cB6 w))
  | 0x16 => decIf (cB6 w = 0#6) (.iabs (cPG w) (cPN w) (cD w) (cA w))
  | 0x17 => decIf (cB6 w = 0#6) (.ineg (cPG w) (cPN w) (cD w) (cA w))
  | 0x18 => .ok (.and (cPG w) (cPN w) (cD w) (cA w) (cB6 w))
  | 0x19 => .ok (.or (cPG w) (cPN w) (cD w) (cA w) (cB6 w))
  | 0x1A => .ok (.xor (cPG w) (cPN w) (cD w) (cA w) (cB6 w))
  | 0x1B => .ok (.shl (cPG w) (cPN w) (cD w) (cA w) (cB6 w))
  | 0x1C => .ok (.shr (cPG w) (cPN w) (cD w) (cA w) (cB6 w))
  | 0x1D => .ok (.sar (cPG w) (cPN w) (cD w) (cA w) (cB6 w))
  | 0x1E => .ok (.rot (cPG w) (cPN w) (cD w) (cA w) (cB6 w))
  | 0x1F => .ok (.bfx (cPG w) (cPN w) (cD w) (cA w) (cB6 w))
  | 0x20 => .ok (.bfi (cPG w) (cPN w) (cD w) (cA w) (cB6 w))
  | 0x21 => decIf (cB6 w = 0#6) (.popc (cPG w) (cPN w) (cD w) (cA w))
  | 0x22 => decIf (cB6 w = 0#6) (.clz (cPG w) (cPN w) (cD w) (cA w))
  | 0x23 => decIf (cB6 w = 0#6) (.brev (cPG w) (cPN w) (cD w) (cA w))
  | 0x24 => .ok (.prmt (cPG w) (cPN w) (cD w) (cA w) (cB6 w))
  | 0x25 => .ok (.fadd (cPG w) (cPN w) (cD w) (cA w) (cB6 w))
  | 0x26 => .ok (.fsub (cPG w) (cPN w) (cD w) (cA w) (cB6 w))
  | 0x27 => .ok (.fmul (cPG w) (cPN w) (cD w) (cA w) (cB6 w))
  | 0x28 => .ok (.ffma (cPG w) (cPN w) (cD w) (cA w) (cB6 w))
  | 0x29 => .ok (.fmin (cPG w) (cPN w) (cD w) (cA w) (cB6 w))
  | 0x2A => .ok (.fmax (cPG w) (cPN w) (cD w) (cA w) (cB6 w))
  | 0x2B => .ok (.fscale (cPG w) (cPN w) (cD w) (cA w) (cB6 w))
  | 0x2C => decIf (cB6 w = 0#6) (.frnd (cPG w) (cPN w) (cD w) (cA w))
  | 0x2D => decIf (cB6 w = 0#6) (.frcp (cPG w) (cPN w) (cD w) (cA w))
  | 0x2E => decIf (cB6 w = 0#6) (.frsq (cPG w) (cPN w) (cD w) (cA w))
  | 0x2F => decIf (cB6 w = 0#6) (.fsqrt (cPG w) (cPN w) (cD w) (cA w))
  | 0x30 => decIf (cB6 w = 0#6) (.fex2 (cPG w) (cPN w) (cD w) (cA w))
  | 0x31 => decIf (cB6 w = 0#6) (.flg2 (cPG w) (cPN w) (cD w) (cA w))
  | 0x32 => decIf (cB6 w = 0#6) (.fsinpi (cPG w) (cPN w) (cD w) (cA w))
  | 0x33 => decIf (cB6 w = 0#6) (.fcospi (cPG w) (cPN w) (cD w) (cA w))
  | 0x34 => decIf (cB6 w = 0#6) (.ftanh (cPG w) (cPN w) (cD w) (cA w))
  | 0x35 => .ok (.hadd2 (cPG w) (cPN w) (cD w) (cA w) (cB6 w))
  | 0x36 => .ok (.hmul2 (cPG w) (cPN w) (cD w) (cA w) (cB6 w))
  | 0x37 => .ok (.hfma2 (cPG w) (cPN w) (cD w) (cA w) (cB6 w))
  | 0x38 => .ok (.bfma2 (cPG w) (cPN w) (cD w) (cA w) (cB6 w))
  | 0x39 => decIf (cB6 w = 0#6) (.icvtf (cPG w) (cPN w) (cD w) (cA w))
  | 0x3A => decIf (cB6 w = 0#6) (.fcvti (cPG w) (cPN w) (cD w) (cA w))
  | 0x3B => .ok (.idot4 (cPG w) (cPN w) (cD w) (cA w) (cB6 w))
  | 0x3C => .ok (.fdot2 (cPG w) (cPN w) (cD w) (cA w) (cB6 w))
  | 0x3D => .ok (.ld (cPG w) (cPN w) (cD w) (cA w) (cB6 w))
  | 0x3E => .ok (.st (cPG w) (cPN w) (cD w) (cA w) (cB6 w))
  | 0x3F => .ok (.ldc (cPG w) (cPN w) (cD w) (cA w) (cB6 w))
  | _ => .reserved

/-- The twin of a compact + literal form (R147). -/
def cmpLitX (cl : CUse) (w : Word) (lit : DWord) : X where
  form := .cmpLit
  pn := cPN w
  pg := (cPG w).setWidth 5
  dx := 0#7
  d := (cD w).setWidth 8
  bi := true
  bk := false
  ak := false
  fc := false
  fb := false
  fa := false
  c := if cl = .litCD then (cD w).setWidth 8 else 0#8
  b := 0#8
  a := (cA w).setWidth 8
  m := (cB6 w).setWidth 32
  lit := lit

/-- Which compact opcodes may carry a literal (R151). -/
def clUse (op : Nat) : CUse :=
  match op with
  | 0x07 => .lit
  | 0x09 => .lit
  | 0x0D => .lit
  | 0x0E => .lit
  | 0x0F => .lit
  | 0x10 => .lit
  | 0x11 => .lit
  | 0x12 => .litCD
  | 0x13 => .litCD
  | 0x14 => .lit
  | 0x15 => .lit
  | 0x18 => .lit
  | 0x19 => .lit
  | 0x1A => .lit
  | 0x1B => .lit
  | 0x1C => .lit
  | 0x1D => .lit
  | 0x1E => .lit
  | 0x1F => .lit
  | 0x20 => .litCD
  | 0x24 => .litCD
  | 0x25 => .lit
  | 0x26 => .lit
  | 0x27 => .lit
  | 0x28 => .litCD
  | 0x29 => .lit
  | 0x2A => .lit
  | 0x2B => .lit
  | 0x35 => .lit
  | 0x36 => .lit
  | 0x37 => .litCD
  | 0x38 => .litCD
  | 0x3B => .litCD
  | 0x3C => .litCD
  | 0x3D => .lit
  | 0x3E => .litCD
  | 0x3F => .lit
  | _ => .no

def decodeCmpLit (w : Word) (lit : DWord) : Dec :=
  match clUse (cOPC w) with
  | .no => .reserved
  | cl => decodeX (cOPC w) false (cmpLitX cl w lit)

/-! ## The decoder -/

/-- The literal of two words, the lower first (R143). -/
def litOf (l h : Word) : DWord := h ++ l

/-- The Orier instruction that a list of words begins with, and the words after it. -/
def decode (ws : List Word) : Dec × List Word :=
  match ws with
  | [] => (.short, [])
  | w0 :: r =>
    match (w0.extractLsb' 0 2).toNat with
    | 0 => (decodeCompact w0, r)
    | 1 =>
      match r with
      | l :: h :: r => (decodeCmpLit w0 (litOf l h), r)
      | _ => (.short, [])
    | 2 =>
      match r with
      | w1 :: w2 :: r =>
        (decodeX (w0.extractLsb' 2 9).toNat (w1.extractLsb' 30 2 ≠ 0#2) (unpackX .ext w0 w1 w2 0#64), r)
      | _ => (.short, [])
    | _ =>
      match r with
      | w1 :: w2 :: l :: h :: r =>
        (decodeX (w0.extractLsb' 2 9).toNat (w1.extractLsb' 30 2 ≠ 0#2) (unpackX .extLit w0 w1 w2 (litOf l h)), r)
      | _ => (.short, [])

/-- Little-endian words of a list of bytes (R4); bytes that fill no word are dropped. -/
def wordsOf : List Byte → List Word
  | a :: b :: c :: d :: r => (d ++ c ++ b ++ a) :: wordsOf r
  | _ => []

/-- The decoder on any bytes. -/
def decodeBytes (bs : List Byte) : Dec := (decode (wordsOf bs)).1

/-- A Rinsar instruction of a firmware hart (R452); none for any other word. -/
def decodeRinsar (w : Word) : Option Instr :=
  let d := w.extractLsb' 7 5
  let s := w.extractLsb' 15 5
  let t := w.extractLsb' 20 5
  if w.extractLsb' 0 7 = 0x0B#7 && w.extractLsb' 25 7 = 0#7 then
    match (w.extractLsb' 12 3).toNat with
    | 0 => some (.rfetch d s t)
    | 1 => some (.bfxt d s t)
    | 2 => if t = 0#5 then some (.swait d s) else none
    | 3 => some (.dspch d s t)
    | _ => none
  else none

/-! ## The encoder -/

/-- One bit. -/
def bitOf (b : Bool) : BitVec 1 := BitVec.ofBool b

/-- Words of a record under an XOPC (R145, R147). -/
def packX (op : Nat) (x : X) : List Word :=
  let lo : Word := x.lit.extractLsb' 0 32
  let hi : Word := x.lit.extractLsb' 32 32
  match x.form with
  | .cmp => []
  | .cmpLit =>
    [x.m.extractLsb' 0 6 ++ x.a.extractLsb' 0 7 ++ x.d.extractLsb' 0 7 ++ x.pg.extractLsb' 0 2 ++ bitOf x.pn ++
      BitVec.ofNat 7 op ++ 1#2, lo, hi]
  | f =>
    let w0 : Word := x.dx ++ x.d ++ bitOf x.pn ++ x.pg ++ BitVec.ofNat 9 op ++ (if f = .ext then 2#2 else 3#2)
    let w1 : Word := 0#2 ++ bitOf x.bi ++ bitOf x.bk ++ bitOf x.ak ++ bitOf x.fc ++ bitOf x.fb ++ bitOf x.fa ++
      x.c ++ x.b ++ x.a
    if f = .ext then [w0, w1, x.m] else [w0, w1, x.m, lo, hi]

/-- A compact word (R144): B6, A, D, PG, PN, OPC, LEN 0b00. -/
def packC (op : Nat) (g : BitVec 2) (n : Bool) (d a : BitVec 7) (b : BitVec 6) : List Word :=
  [b ++ a ++ d ++ g ++ bitOf n ++ BitVec.ofNat 7 op ++ 0#2]

def packR (funct : BitVec 3) (d s t : BitVec 5) : List Word :=
  [0#7 ++ t ++ s ++ funct ++ d ++ 0x0B#7]

/-- The words of an instruction; a step of a unit has none. -/
def encode : Instr → List Word
  | .nop g n => packC 0x01 g n 0#7 0#7 0#6
  | .nopExtended x => packX 0x001 x
  | .bra g n o => packC 0x02 g n (o.extractLsb' 0 7) (o.extractLsb' 7 7) (o.extractLsb' 14 6)
  | .braExtended x => packX 0x002 x
  | .call g n o d => packC 0x03 g n d (o.extractLsb' 0 7) (o.extractLsb' 7 6)
  | .callExtended x => packX 0x003 x
  | .ret g n a => packC 0x04 g n 0#7 a 0#6
  | .retExtended x => packX 0x004 x
  | .exit g n => packC 0x05 g n 0#7 0#7 0#6
  | .exitExtended x => packX 0x005 x
  | .yield g n => packC 0x06 g n 0#7 0#7 0#6
  | .yieldExtended x => packX 0x006 x
  | .wait g n a b => packC 0x07 g n 0#7 a b
  | .waitExtended x => packX 0x007 x
  | .mov g n d a => packC 0x08 g n d a 0#6
  | .movExtended x => packX 0x008 x
  | .movi g n d i => packC 0x09 g n d 0#7 i
  | .moviExtended x => packX 0x009 x
  | .movk g n d k => packC 0x0A g n d 0#7 k
  | .movkExtended x => packX 0x00A x
  | .movs g n d s => packC 0x0B g n d 0#7 s
  | .movsExtended x => packX 0x00B x
  | .wk g n k a => packC 0x0C g n (0#1 ++ k) a 0#6
  | .wkExtended x => packX 0x00C x
  | .lea g n d a b => packC 0x0D g n d a b
  | .leaExtended x => packX 0x00D x
  | .iadd g n d a b => packC 0x0E g n d a b
  | .iaddExtended x => packX 0x00E x
  | .isub g n d a b => packC 0x0F g n d a b
  | .isubExtended x => packX 0x00F x
  | .imul g n d a b => packC 0x10 g n d a b
  | .imulExtended x => packX 0x010 x
  | .imulh g n d a b => packC 0x11 g n d a b
  | .imulhExtended x => packX 0x011 x
  | .imad g n d a b => packC 0x12 g n d a b
  | .imadExtended x => packX 0x012 x
  | .isad g n d a b => packC 0x13 g n d a b
  | .isadExtended x => packX 0x013 x
  | .imin g n d a b => packC 0x14 g n d a b
  | .iminExtended x => packX 0x014 x
  | .imax g n d a b => packC 0x15 g n d a b
  | .imaxExtended x => packX 0x015 x
  | .iabs g n d a => packC 0x16 g n d a 0#6
  | .iabsExtended x => packX 0x016 x
  | .ineg g n d a => packC 0x17 g n d a 0#6
  | .inegExtended x => packX 0x017 x
  | .and g n d a b => packC 0x18 g n d a b
  | .andExtended x => packX 0x018 x
  | .or g n d a b => packC 0x19 g n d a b
  | .orExtended x => packX 0x019 x
  | .xor g n d a b => packC 0x1A g n d a b
  | .xorExtended x => packX 0x01A x
  | .shl g n d a i => packC 0x1B g n d a i
  | .shlExtended x => packX 0x01B x
  | .shr g n d a i => packC 0x1C g n d a i
  | .shrExtended x => packX 0x01C x
  | .fsh x => packX 0x01C x
  | .sar g n d a i => packC 0x1D g n d a i
  | .sarExtended x => packX 0x01D x
  | .rot g n d a i => packC 0x1E g n d a i
  | .rotExtended x => packX 0x01E x
  | .bfx g n d a b => packC 0x1F g n d a b
  | .bfxExtended x => packX 0x01F x
  | .bfi g n d a b => packC 0x20 g n d a b
  | .bfiExtended x => packX 0x020 x
  | .popc g n d a => packC 0x21 g n d a 0#6
  | .popcExtended x => packX 0x021 x
  | .clz g n d a => packC 0x22 g n d a 0#6
  | .clzExtended x => packX 0x022 x
  | .brev g n d a => packC 0x23 g n d a 0#6
  | .brevExtended x => packX 0x023 x
  | .prmt g n d a b => packC 0x24 g n d a b
  | .prmtExtended x => packX 0x024 x
  | .fadd g n d a b => packC 0x25 g n d a b
  | .faddExtended x => packX 0x025 x
  | .fsub g n d a b => packC 0x26 g n d a b
  | .fsubExtended x => packX 0x026 x
  | .fmul g n d a b => packC 0x27 g n d a b
  | .fmulExtended x => packX 0x027 x
  | .ffma g n d a b => packC 0x28 g n d a b
  | .ffmaExtended x => packX 0x028 x
  | .fmin g n d a b => packC 0x29 g n d a b
  | .fminExtended x => packX 0x029 x
  | .fmax g n d a b => packC 0x2A g n d a b
  | .fmaxExtended x => packX 0x02A x
  | .fscale g n d a b => packC 0x2B g n d a b
  | .fscaleExtended x => packX 0x02B x
  | .frnd g n d a => packC 0x2C g n d a 0#6
  | .frndExtended x => packX 0x02C x
  | .frcp g n d a => packC 0x2D g n d a 0#6
  | .frcpExtended x => packX 0x02D x
  | .frsq g n d a => packC 0x2E g n d a 0#6
  | .frsqExtended x => packX 0x02E x
  | .fsqrt g n d a => packC 0x2F g n d a 0#6
  | .fsqrtExtended x => packX 0x02F x
  | .fex2 g n d a => packC 0x30 g n d a 0#6
  | .fex2Extended x => packX 0x030 x
  | .flg2 g n d a => packC 0x31 g n d a 0#6
  | .flg2Extended x => packX 0x031 x
  | .fsinpi g n d a => packC 0x32 g n d a 0#6
  | .fsinpiExtended x => packX 0x032 x
  | .fcospi g n d a => packC 0x33 g n d a 0#6
  | .fcospiExtended x => packX 0x033 x
  | .ftanh g n d a => packC 0x34 g n d a 0#6
  | .ftanhExtended x => packX 0x034 x
  | .hadd2 g n d a b => packC 0x35 g n d a b
  | .hadd2Extended x => packX 0x035 x
  | .hmul2 g n d a b => packC 0x36 g n d a b
  | .hmul2Extended x => packX 0x036 x
  | .hfma2 g n d a b => packC 0x37 g n d a b
  | .hfma2Extended x => packX 0x037 x
  | .bfma2 g n d a b => packC 0x38 g n d a b
  | .bfma2Extended x => packX 0x038 x
  | .icvtf g n d a => packC 0x39 g n d a 0#6
  | .icvtfExtended x => packX 0x039 x
  | .fcvti g n d a => packC 0x3A g n d a 0#6
  | .fcvtiExtended x => packX 0x03A x
  | .idot4 g n d a b => packC 0x3B g n d a b
  | .idot4Extended x => packX 0x03B x
  | .fdot2 g n d a b => packC 0x3C g n d a b
  | .fdot2Extended x => packX 0x03C x
  | .ld g n d a i => packC 0x3D g n d a i
  | .ldExtended x => packX 0x03D x
  | .st g n d a i => packC 0x3E g n d a i
  | .stExtended x => packX 0x03E x
  | .ldc g n d a i => packC 0x3F g n d a i
  | .ldcExtended x => packX 0x03F x
  | .iaddc x => packX 0x040 x
  | .isubb x => packX 0x041 x
  | .imadw x => packX 0x042 x
  | .lop3 x => packX 0x043 x
  | .icmp x => packX 0x044 x
  | .isel x => packX 0x045 x
  | .ptag x => packX 0x046 x
  | .pspace x => packX 0x047 x
  | .plop3 x => packX 0x048 x
  | .psetb x => packX 0x049 x
  | .pgetb x => packX 0x04A x
  | .pmov x => packX 0x04B x
  | .brx x => packX 0x04C x
  | .callx x => packX 0x04D x
  | .spawn x => packX 0x04E x
  | .sleep x => packX 0x04F x
  | .brk x => packX 0x050 x
  | .trap x => packX 0x051 x
  | .fcmp x => packX 0x060 x
  | .fclass x => packX 0x061 x
  | .fexp x => packX 0x062 x
  | .fmant x => packX 0x063 x
  | .hmnx2 x => packX 0x064 x
  | .fcvt x => packX 0x065 x
  | .unpk x => packX 0x066 x
  | .pack x => packX 0x067 x
  | .shfl x => packX 0x068 x
  | .vote x => packX 0x069 x
  | .sqred x => packX 0x06A x
  | .sqscan x => packX 0x06B x
  | .matchSq x => packX 0x06C x
  | .atom x => packX 0x080 x
  | .red x => packX 0x081 x
  | .atomf x => packX 0x082 x
  | .atomfx x => packX 0x083 x
  | .fence x => packX 0x084 x
  | .fencep x => packX 0x085 x
  | .ldfe x => packX 0x086 x
  | .stfe x => packX 0x087 x
  | .fezap x => packX 0x088 x
  | .feprb x => packX 0x089 x
  | .barInit x => packX 0x08A x
  | .barArv x => packX 0x08B x
  | .barExp x => packX 0x08C x
  | .barWait x => packX 0x08D x
  | .barTest x => packX 0x08E x
  | .cpy x => packX 0x08F x
  | .cpywait x => packX 0x090 x
  | .cpytest x => packX 0x091 x
  | .tcpy x => packX 0x092 x
  | .tcpyc x => packX 0x093 x
  | .pfx x => packX 0x094 x
  | .cont x => packX 0x095 x
  | .gang x => packX 0x0C0 x
  | .mma x => packX 0x0C1 x
  | .aclr x => packX 0x0C2 x
  | .ald x => packX 0x0C3 x
  | .ast x => packX 0x0C4 x
  | .aldFrag x => packX 0x0C3 x
  | .astFrag x => packX 0x0C4 x
  | .fragmentTransfer => []
  | .acvt x => packX 0x0C5 x
  | .ascl x => packX 0x0C6 x
  | .plan x => packX 0x0C7 x
  | .await x => packX 0x0C8 x
  | .awaitTest x => packX 0x0C8 x
  | .matrixOpStart => []
  | .matrixStepComplete => []
  | .mvtx x => packX 0x0E0 x
  | .mprim x => packX 0x0E1 x
  | .mend x => packX 0x0E2 x
  | .attr x => packX 0x0E3 x
  | .pxdisc x => packX 0x0E4 x
  | .kbins x => packX 0x0E5 x
  | .omst x => packX 0x0E6 x
  | .omld x => packX 0x0E7 x
  | .smp x => packX 0x0E8 x
  | .tld x => packX 0x0E9 x
  | .trace x => packX 0x0EA x
  | .trcont x => packX 0x0EB x
  | .sysrd x => packX 0x1E0 x
  | .syswr x => packX 0x1E1 x
  | .tretRetry x => packX 0x1E2 x
  | .tretSkip x => packX 0x1E2 x
  | .tretAt x => packX 0x1E2 x
  | .tretKill x => packX 0x1E2 x
  | .tmaskCrit x => packX 0x1E3 x
  | .tmaskEnd x => packX 0x1E3 x
  | .cachex x => packX 0x1E4 x
  | .mtuinvInv x => packX 0x1E5 x
  | .mtuinvRel x => packX 0x1E5 x
  | .frmput x => packX 0x1E6 x
  | .wgctlYield x => packX 0x1E7 x
  | .wgctlSetpc x => packX 0x1E7 x
  | .wgctlKill x => packX 0x1E7 x
  | .issueCycle => []
  | .collectionClose => []
  | .regroupMoveComplete => []
  | .loadResultLands => []
  | .specialFunctionResultLands => []
  | .sampleLands => []
  | .texelLands => []
  | .traversalRecordLands => []
  | .mergerAccessPerformed => []
  | .homeRequest => []
  | .waitRecheckTimeout => []
  | .sleepExpiry => []
  | .criticalRegionTimeout => []
  | .l1LineExpiry => []
  | .cpyLanding => []
  | .copyUnitComplete => []
  | .tcpycCommit => []
  | .haltComplete => []
  | .freezeComplete => []
  | .asyncTrapTaken => []
  | .preemptRequest => []
  | .saveComplete => []
  | .schedulingStep => []
  | .spinWindowExpiry => []
  | .faultSwapThreshold => []
  | .workgroupRetire => []
  | .poolRecordArrival => []
  | .binAgeLimit => []
  | .poolWorkgroupForm => []
  | .primitiveSetup => []
  | .pixelLaunchTimeout => []
  | .passEnd => []
  | .tagRetireBatch => []
  | .tagRetirementReceive => []
  | .tagPinRelease => []
  | .tagQuotaStop => []
  | .tagQuotaGo => []
  | .mtuWalk => []
  | .pageFillComplete => []
  | .episodeRelease => []
  | .laneRecordHandover => []
  | .cairnBatchWindow => []
  | .cairnRingWrite => []
  | .hwTimeout => []
  | .doorbell => []
  | .launch => []
  | .poolLaunch => []
  | .renderPassOpen => []
  | .renderPassClose => []
  | .drawMesh => []
  | .copy => []
  | .waitPacket => []
  | .waitWatchRecheck => []
  | .waitWatchTimeout => []
  | .signal => []
  | .link => []
  | .fencePacket => []
  | .partitionSet => []
  | .packetComplete => []
  | .equinoxReport => []
  | .equinoxGo => []
  | .equinoxAbort => []
  | .equinoxTimeout => []
  | .dbgreqHalt => []
  | .dbgreqContinue => []
  | .dbgreqConvert => []
  | .dbgreqKill => []
  | .registerWrite => []
  | .mrExtend => []
  | .rfetch d s t => packR 0#3 d s t
  | .bfxt d s t => packR 1#3 d s t
  | .swait d s => packR 2#3 d s 0#5
  | .swaitTimeout => []
  | .dspch d s t => packR 3#3 d s t
  | .rinsarHubTimeout => []
  | .rds => []
  | .rdx => []
  | .upg => []
  | .wb => []
  | .snps => []
  | .snpi => []
  | .rsp => []
  | .go => []
  | .goack => []
  | .peerFlitReceive => []
  | .cxlPortLinkDown => []
  | .displayGuardTime => []
  | .headEnablePoll => []
  | .image => []
  | .boot => []
  | .status => []
  | .attest => []
  | .moduleReset => []
  | .powerSample => []
  | .d3hotEntry => []
  | .d3hotExit => []
  | .d3coldEntry => []
  | .coreIdleGate => []
  | .sramScrub => []
  | .auxPowerLoss => []
  | .peerLinkTrained => []
  | .downstreamPortLinkUp => []
  | .freeListGetAdvance => []
  | .equinoxPacketReceive => []

/-- The decoder on an instruction whose bits the opcode table numbers: words in ascending order, the bits above `nbits`
zero. A word that is no Orier instruction is offered to the Rinsar decoder, which is the firmware harts' (R153). -/
def decodeTableWord (nbits w : Nat) : Option Instr :=
  let v := w % 2 ^ nbits
  let word (k : Nat) : Word := BitVec.ofNat 32 (v / 2 ^ (32 * k))
  match (decode [word 0, word 1, word 2, word 3, word 4]).1 with
  | .ok i => some i
  | _ => decodeRinsar (word 0)

end Sys2Proof
end

