-- ==== Sys2Proof/Machine/Num.lean ====
section
/-! DEFINITION. Number formats, exact arithmetic and rounding (spec/03_number_formats.md, R75 to R89). -/
namespace Sys2Proof.Machine

open Sys2Proof

/-! ## Flags -/

/-- A flag set FL in the layout of `%fpflags` (R69). -/
abbrev Fl := BitVec 6

def flNV : Fl := 1#6
def flDZ : Fl := 2#6
def flOF : Fl := 4#6
def flUF : Fl := 8#6
def flNX : Fl := 16#6
def flSAT : Fl := 32#6

/-- `f` when the condition holds, else no flag. -/
def flIf (b : Bool) (f : Fl) : Fl := if b then f else 0#6

/-! ## Exact values -/

/-- An exact rational number `n / d`; `d` is kept positive. -/
structure Q where
  n : Int
  d : Nat
  deriving DecidableEq, Repr

def Q.zero : Q := ⟨0, 1⟩
def Q.one : Q := ⟨1, 1⟩
def Q.ofInt (i : Int) : Q := ⟨i, 1⟩

/-- `m * 2^e`, exactly. -/
def Q.scale (m : Int) (e : Int) : Q :=
  if e < 0 then ⟨m, 2 ^ e.natAbs⟩ else ⟨m * (2 ^ e.natAbs : Nat), 1⟩

def Q.neg (a : Q) : Q := ⟨-a.n, a.d⟩

def Q.add (a b : Q) : Q :=
  if a.d = b.d then ⟨a.n + b.n, a.d⟩
  else if b.d % a.d = 0 then ⟨a.n * (b.d / a.d : Nat) + b.n, b.d⟩
  else if a.d % b.d = 0 then ⟨a.n + b.n * (a.d / b.d : Nat), a.d⟩
  else ⟨a.n * b.d + b.n * a.d, a.d * b.d⟩

def Q.sub (a b : Q) : Q := a.add b.neg
def Q.mul (a b : Q) : Q := ⟨a.n * b.n, a.d * b.d⟩

/-- Exact quotient; a zero divisor gives zero (every caller excludes it). -/
def Q.div (a b : Q) : Q :=
  if b.n = 0 then Q.zero
  else if b.n < 0 then ⟨-(a.n * b.d), a.d * b.n.natAbs⟩
  else ⟨a.n * b.d, a.d * b.n.natAbs⟩

def Q.lt (a b : Q) : Bool := a.n * b.d < b.n * a.d
def Q.le (a b : Q) : Bool := a.n * b.d ≤ b.n * a.d
def Q.eq (a b : Q) : Bool := a.n * b.d = b.n * a.d
def Q.isZero (a : Q) : Bool := a.n = 0
def Q.isNeg (a : Q) : Bool := a.n < 0
def Q.abs (a : Q) : Q := ⟨a.n.natAbs, a.d⟩
def Q.max (a b : Q) : Q := if a.lt b then b else a
def Q.min (a b : Q) : Q := if b.lt a then b else a
def Q.floor (a : Q) : Int := a.n / a.d
def Q.sum (l : List Q) : Q := l.foldl Q.add Q.zero
/-- The same number over its least denominator. -/
def Q.norm (a : Q) : Q :=
  let g := Nat.gcd a.n.natAbs a.d
  if g ≤ 1 then a else ⟨a.n / g, a.d / g⟩

/-! ## Formats (R75 to R78) -/

/-- What the all-ones exponent code means (R76). -/
inductive FKind where
  | ieee | e4m3 | plain
  deriving DecidableEq, Repr

/-- A floating-point format: exponent and mantissa widths, bias, the position of mantissa bit 0, the kind (R75). -/
structure FFmt where
  ew : Nat
  mw : Nat
  bias : Nat
  low : Nat
  kind : FKind
  deriving DecidableEq, Repr

def fF32 : FFmt := ⟨8, 23, 127, 0, .ieee⟩
def fF19 : FFmt := ⟨8, 10, 127, 13, .ieee⟩
def fF16 : FFmt := ⟨5, 10, 15, 0, .ieee⟩
def fBF16 : FFmt := ⟨8, 7, 127, 0, .ieee⟩
def fE4M3 : FFmt := ⟨4, 3, 7, 0, .e4m3⟩
def fE5M2 : FFmt := ⟨5, 2, 15, 0, .ieee⟩
def fE2M1 : FFmt := ⟨2, 1, 1, 0, .plain⟩
def fE2M3 : FFmt := ⟨2, 3, 1, 0, .plain⟩
def fE3M2 : FFmt := ⟨3, 2, 3, 0, .plain⟩

/-- Bits of an element, sign included, without the ignored low bits of F19. -/
def FFmt.width (f : FFmt) : Nat := 1 + f.ew + f.mw

/-- The significand width counting the hidden bit (R75). -/
def FFmt.sig (f : FFmt) : Nat := f.mw + 1

/-- The value of an encoding: NaN (signalling or quiet), an infinity, or (-1)^neg * m * 2^e (R75, R76). -/
inductive FV where
  | nan (sig : Bool)
  | inf (neg : Bool)
  | fin (neg : Bool) (m : Nat) (e : Int)
  deriving DecidableEq, Repr

/-- FVal of R164: the value of encoding `v` in format `f`. -/
def FFmt.val (f : FFmt) (v : Nat) : FV :=
  let u := v / 2 ^ f.low
  let m := u % 2 ^ f.mw
  let e := u / 2 ^ f.mw % 2 ^ f.ew
  let neg := u / 2 ^ (f.mw + f.ew) % 2 = 1
  let ones := e = 2 ^ f.ew - 1
  if ones && f.kind = .ieee then
    if m = 0 then .inf neg else .nan (m < 2 ^ (f.mw - 1))
  else if ones && f.kind = .e4m3 && m = 7 then .nan false
  else if e = 0 then .fin neg m (1 - f.bias - f.mw)
  else .fin neg (m + 2 ^ f.mw) (e - f.bias - f.mw)

def FFmt.encode (f : FFmt) (neg : Bool) (e m : Nat) : Nat :=
  (((if neg then 2 ^ f.ew else 0) + e) * 2 ^ f.mw + m) * 2 ^ f.low

/-- The canonical NaN (R77). -/
def FFmt.cnan (f : FFmt) : Nat :=
  match f.kind with
  | .ieee => f.encode false (2 ^ f.ew - 1) (2 ^ (f.mw - 1))
  | .e4m3 => 0x7F
  | .plain => 0

/-- Exponent and mantissa of the greatest finite magnitude (R78). -/
def FFmt.maxFields (f : FFmt) : Nat × Nat :=
  match f.kind with
  | .ieee => (2 ^ f.ew - 2, 2 ^ f.mw - 1)
  | .e4m3 => (15, 6)
  | .plain => (2 ^ f.ew - 1, 2 ^ f.mw - 1)

def FFmt.maxFin (f : FFmt) (neg : Bool) : Nat := f.encode neg f.maxFields.1 f.maxFields.2
def FFmt.infEnc (f : FFmt) (neg : Bool) : Nat := f.encode neg (2 ^ f.ew - 1) 0
def FFmt.zero (f : FFmt) (neg : Bool) : Nat := f.encode neg 0 0

def FV.isNaN : FV → Bool
  | .nan _ => true
  | _ => false

def FV.isSNaN : FV → Bool
  | .nan s => s
  | _ => false

def FV.isInf : FV → Bool
  | .inf _ => true
  | _ => false

def FV.isNeg : FV → Bool
  | .nan _ => false
  | .inf n => n
  | .fin n _ _ => n

def FV.isZero : FV → Bool
  | .fin _ m _ => m = 0
  | _ => false

/-- The exact number of a finite value (zero for the others). -/
def FV.q : FV → Q
  | .fin n m e => Q.scale (if n then -(m : Int) else m) e
  | _ => Q.zero

/-! ## Rounding (R84 to R86) -/

/-- The rounding codes (R84): 0 rne, 1 rtz, 2 rup, 3 rdn, 4 rna, 5 sr. With `.sr` come the random bits and their number. -/
structure Rm where
  code : Nat
  bits : Nat := 0
  n : Nat := 1
  deriving DecidableEq, Repr

def rne : Rm := { code := 0 }

/-- Whether `r/d` of a unit above the kept magnitude moves it up. `odd` is the parity of the kept integer. -/
def Rm.up (m : Rm) (neg odd : Bool) (r d : Nat) : Bool :=
  match m.code with
  | 0 => 2 * r > d || (2 * r = d && odd)
  | 1 => false
  | 2 => !neg && r ≠ 0
  | 3 => neg && r ≠ 0
  | 4 => 2 * r ≥ d
  | 5 => r * 2 ^ m.n / d + m.bits ≥ 2 ^ m.n
  | _ => false

/-- `n/d` rounded to an integer, and whether it was inexact. -/
def Rm.int (m : Rm) (neg : Bool) (n d : Nat) : Nat × Bool :=
  let k := n / d
  let r := n % d
  (if m.up neg (k % 2 = 1) r d then k + 1 else k, r ≠ 0)

/-- The greatest `e` with 2^e ≤ n/d, for positive n and d. -/
def floorLog2 (n d : Nat) : Int :=
  let l : Int := (Nat.log2 n : Int) - Nat.log2 d
  if l < 0 then (if d ≤ n * 2 ^ l.natAbs then l else l - 1)
  else if d * 2 ^ l.natAbs ≤ n then l else l - 1

/-- `n/d` in units of 2^e, as a new pair. -/
def inUnits (n d : Nat) (e : Int) : Nat × Nat :=
  if e < 0 then (n * 2 ^ e.natAbs, d) else (n, d * 2 ^ e.natAbs)

/-- The result of an overflow in format `f` (R86). -/
def overflow (f : FFmt) (m : Rm) (sat neg : Bool) : Nat × Fl :=
  if sat then (f.maxFin neg, flOF ||| flNX ||| flSAT)
  else match f.kind with
    | .ieee =>
      let toZero := m.code = 1 || (m.code = 2 && neg) || (m.code = 3 && !neg)
      (if toZero then f.maxFin neg else f.infEnc neg, flOF ||| flNX)
    | .e4m3 => (0x7F, flOF ||| flNX)
    | .plain => (f.maxFin neg, flOF ||| flNX ||| flSAT)

/-- RoundTo of R164 for an exact number: the encoding in `f` and the flags of R88. `zneg` is the sign an exact zero takes. -/
def roundQ (f : FFmt) (m : Rm) (sat zneg : Bool) (x : Q) : Nat × Fl :=
  if x.n = 0 then (f.zero zneg, 0#6) else
  let neg := decide (x.n < 0)
  let n := x.n.natAbs
  let emin : Int := 1 - f.bias
  let e := floorLog2 n x.d
  let qe : Int := (if e < emin then emin else e) - f.mw
  let u := inUnits n x.d qe
  let (k, inx) := m.int neg u.1 u.2
  -- tininess is judged on the value rounded with an unbounded exponent range (R84)
  let v := inUnits n x.d (e - f.mw)
  let k1 := (m.int neg v.1 v.2).1
  let tiny := decide (e < emin) && !(e = emin - 1 && k1 = 2 ^ (f.mw + 1))
  let (k, qe) := if k ≥ 2 ^ (f.mw + 1) then (k / 2, qe + 1) else (k, qe)
  let ef : Nat := if k < 2 ^ f.mw then 0 else (qe + f.mw + f.bias).toNat
  let mf : Nat := if k < 2 ^ f.mw then k else k - 2 ^ f.mw
  let mx := f.maxFields
  if ef > mx.1 || (ef = mx.1 && mf > mx.2) then overflow f m sat neg
  else (f.encode neg ef mf, flIf inx flNX ||| flIf (inx && tiny) flUF)

/-- An infinite result or input in format `f` (R86). -/
def infTo (f : FFmt) (sat neg : Bool) : Nat × Fl :=
  match f.kind with
  | .ieee => if sat then (f.maxFin neg, flSAT) else (f.infEnc neg, 0#6)
  | .e4m3 => if sat then (f.maxFin neg, flSAT) else (0x7F, 0#6)
  | .plain => (f.maxFin neg, flSAT)

/-- Conversion of a value to a floating-point format (R86, R87). -/
def cvtF (f : FFmt) (m : Rm) (sat : Bool) (v : FV) : Nat × Fl :=
  match v with
  | .nan s => (f.cnan, flIf (s || f.kind = .plain) flNV)
  | .inf n => infTo f sat n
  | .fin n _ _ => roundQ f m sat n v.q

/-- The range of an integer of `w` bits (R80). -/
def intLo (w : Nat) (sgn : Bool) : Int := if sgn then -(2 ^ (w - 1) : Nat) else 0
def intHi (w : Nat) (sgn : Bool) : Int := if sgn then (2 ^ (w - 1) : Nat) - 1 else (2 ^ w : Nat) - 1

def clampInt (x lo hi : Int) : Int := if x < lo then lo else if x > hi then hi else x

/-- The low `w` bits of an integer (Bits of R164), as a natural number. -/
def bitsOf (x : Int) (w : Nat) : Nat := (x % (2 ^ w : Nat)).toNat

/-- An exact number rounded to an integer (R84), and whether it was inexact. -/
def roundInt (m : Rm) (x : Q) : Int × Bool :=
  let neg := decide (x.n < 0)
  let r := m.int neg x.n.natAbs x.d
  (if neg then -(r.1 : Int) else r.1, r.2)

/-- FP to integer (R87): never wraps. -/
def cvtI (w : Nat) (sgn : Bool) (m : Rm) (sat : Bool) (v : FV) : Int × Fl :=
  let lo := intLo w sgn
  let hi := intHi w sgn
  match v with
  | .nan _ => (0, flNV)
  | .inf n => (if n then lo else hi, flNV ||| flIf sat flSAT)
  | .fin .. =>
    let (i, inx) := roundInt m v.q
    if i < lo || i > hi then (clampInt i lo hi, flNV ||| flIf sat flSAT) else (i, flIf inx flNX)

/-- Integer narrowing (R86): wraps, or clamps under `.sat`. -/
def narrowI (w : Nat) (sgn sat : Bool) (x : Int) : Nat × Fl :=
  if sat then
    let y := clampInt x (intLo w sgn) (intHi w sgn)
    (bitsOf y w, flIf (y ≠ x) flSAT)
  else (bitsOf x w, 0#6)

/-! ## Sums of terms (R89, R99, R229, R299, R308) -/

/-- One term of an exact sum: not a number, an infinity, or a number with the sign its zero carries. -/
inductive Term where
  | bad
  | inf (neg : Bool)
  | num (neg : Bool) (x : Q)
  deriving DecidableEq, Repr

def FV.term : FV → Term
  | .nan _ => .bad
  | .inf n => .inf n
  | .fin n m e => .num n (FV.fin n m e).q

def Term.neg : Term → Term
  | .bad => .bad
  | .inf n => .inf !n
  | .num n x => .num (!n) x.neg

/-- The product of two values; the flag says that it was 0 times infinity. -/
def mulTerm (a b : FV) : Term × Bool :=
  match a, b with
  | .nan _, _ => (.bad, false)
  | _, .nan _ => (.bad, false)
  | .inf n, .inf k => (.inf (n != k), false)
  | .inf n, .fin k m _ => if m = 0 then (.bad, true) else (.inf (n != k), false)
  | .fin n m _, .inf k => if m = 0 then (.bad, true) else (.inf (n != k), false)
  | .fin n m e, .fin k p g => (.num (n != k) (Q.scale (if n != k then -((m * p : Nat) : Int) else (m * p : Nat)) (e + g)), false)

def Term.isBad : Term → Bool
  | .bad => true
  | _ => false

def Term.isInf (neg : Bool) : Term → Bool
  | .inf n => n = neg
  | _ => false

def Term.q : Term → Q
  | .num _ x => x
  | _ => Q.zero

/-- A zero of the given sign. -/
def Term.isZeroOf (neg : Bool) : Term → Bool
  | .num n x => x.n = 0 && n = neg
  | _ => false

/-- The sign an exact zero sum takes (R89): that of its terms when all are zeros of one sign, else + (or - under rdn). -/
def zeroSign (m : Rm) (ts : List Term) : Bool :=
  if ts.all (Term.isZeroOf true) then true
  else if ts.all (Term.isZeroOf false) then false
  else m.code = 3

/-- The terms summed exactly and rounded once. `NV` is raised for opposing infinities. -/
def sumTo (f : FFmt) (m : Rm) (sat : Bool) (ts : List Term) : Nat × Fl :=
  if ts.any Term.isBad then (f.cnan, 0#6)
  else
    let pos := ts.any (Term.isInf false)
    let neg := ts.any (Term.isInf true)
    if pos && neg then (f.cnan, flNV)
    else if pos || neg then infTo f sat neg
    else roundQ f m sat (zeroSign m ts) (Q.sum (ts.map Term.q))

/-- a + b in format `f` (R89). -/
def fpAdd (f : FFmt) (m : Rm) (sat : Bool) (a b : FV) : Nat × Fl :=
  let r := sumTo f m sat [a.term, b.term]
  (r.1, r.2 ||| flIf (a.isSNaN || b.isSNaN) flNV)

def fpSub (f : FFmt) (m : Rm) (sat : Bool) (a b : FV) : Nat × Fl :=
  let r := sumTo f m sat [a.term, b.term.neg]
  (r.1, r.2 ||| flIf (a.isSNaN || b.isSNaN) flNV)

def fpMul (f : FFmt) (m : Rm) (sat : Bool) (a b : FV) : Nat × Fl :=
  let p := mulTerm a b
  let r := sumTo f m sat [p.1]
  (r.1, r.2 ||| flIf (p.2 || a.isSNaN || b.isSNaN) flNV)

def fpFma (f : FFmt) (m : Rm) (sat : Bool) (a b c : FV) : Nat × Fl :=
  let p := mulTerm a b
  let r := sumTo f m sat [p.1, c.term]
  (r.1, r.2 ||| flIf (p.2 || a.isSNaN || b.isSNaN || c.isSNaN) flNV)

/-- The order of two values that are not NaN: -0 below +0 (R207). -/
def fpLt (a b : FV) : Bool :=
  match a, b with
  | .inf n, .inf k => n && !k
  | .inf n, _ => n
  | _, .inf k => !k
  | _, _ => if a.isZero && b.isZero then a.isNeg && !b.isNeg else a.q.lt b.q

/-- fmin and fmax (R207) on encodings; `mx` selects the greater. -/
def fpMinMax (f : FFmt) (mx : Bool) (a b : Nat) : Nat × Fl :=
  let va := f.val a
  let vb := f.val b
  let fl := flIf (va.isSNaN || vb.isSNaN) flNV
  if va.isNaN && vb.isNaN then (f.cnan, fl)
  else if va.isNaN then (b, fl)
  else if vb.isNaN then (a, fl)
  else if mx then (if fpLt va vb then b else a, fl)
  else (if fpLt vb va then b else a, fl)

/-! ## Square root, by digits -/

/-- Integer square root: `fuel` digits below `bit`. -/
def isqrtAux : Nat → Nat → Nat → Nat → Nat
  | 0, _, _, acc => acc
  | k + 1, n, bit, acc =>
    let c := acc + bit
    isqrtAux k n (bit / 2) (if c * c ≤ n then c else acc)

def isqrt (n : Nat) : Nat :=
  let h := Nat.log2 n / 2 + 1
  isqrtAux (h + 1) n (2 ^ h) 0

end Sys2Proof.Machine
end

