-- ==== Sys2Proof/Config.lean ====
section
/-! DEFINITION. What an implementation of the Nalix fixes and the spec does not state: free values without a body,
so that no proof can see what they are. Each is named in notes/assumptions. -/
namespace Sys2Proof.Config

open Sys2Proof

/-- The result a special-function unit proposes away from its exact points (R212, R213): `fn` is 0 for frsq, 1 fex2,
2 flg2, 3 fsinpi, 4 fcospi, 5 ftanh. The machine keeps it only inside the bound of R213. DESIGN CHOICE, log 4. -/
opaque sfuProposal (fn : Nat) (a : Word) : Word

/-- The UNORM8 value (R309) of channel `ch` at texel (i, j) of a BC or ASTC block, given the format code of R334 and
the 128 bits of the block: the decoding standards stand outside the spec. DESIGN CHOICE, log 6. -/
opaque blockTexel (fmt : Nat) (block : BitVec 128) (i j ch : Nat) : Byte

/-- SHA3-512 (R475, R476), a standard outside the spec. DESIGN CHOICE, log 7. -/
opaque sha3_512 (m : List Byte) : BitVec 512

/-- ML-DSA-87 signature check of a message under a public key (R475). DESIGN CHOICE, log 7. -/
opaque mldsaVerify (key msg sig : List Byte) : Bool

/-- The ML-DSA-87 public key the root of trust derives from the fused seed at a reset (R477). DESIGN CHOICE, log 7. -/
opaque mldsaPublic (seed : BitVec 256) : List Byte

/-- The ML-DSA-87 signature by the identity key of the fused seed (R477). DESIGN CHOICE, log 7. -/
opaque mldsaSign (seed : BitVec 256) (msg : List Byte) : List Byte

/-- The GDDR 7 byte found after a reset that leaves the contents undefined (R472): `n` numbers the reset, `a` is the
address. DESIGN CHOICE, log 3. -/
opaque gddrAfterReset (n a : Nat) : Byte

/-- The fused values of the root of trust (R475, R477): the hash of the accepted key, the security version and the
identity seed. The spec names them and states no value. DESIGN CHOICE, log 5. -/
opaque fusedKeyHash : BitVec 512
opaque fusedSvn : BitVec 32
opaque fusedSeed : BitVec 256

/-- The upper 96 bits of a k register read as an operand wider than a word: the spec gives k registers 32 bits (R52) and
states no value for the rest. DESIGN CHOICE, log 8. -/
opaque kUpper (n : Nat) (k : Word) : BitVec 96

/-- A byte of memory the device keeps for itself, whose contents have no meaning to software (R325, R327), or that an
agent outside may have changed (R458): `n` numbers the write. DESIGN CHOICE, logs 9, 34. -/
opaque deviceByte (n : Nat) : Byte

/-- The `n`-th value the machine takes where the spec states that a value results and not which. DESIGN CHOICE, log 10. -/
opaque freeWord (n : Nat) : Word

/-- The CRC-64 of a peer flit's first 120 bytes (R465): the spec names the check and states no polynomial. DESIGN CHOICE, log 11. -/
opaque crc64 (m : List Byte) : DWord

/-- The `n`-th answer to a freedom of order or of delay that the state lists no answer for. DESIGN CHOICE, log 13. -/
opaque freeChoice (n : Nat) : Nat

/-- The feature bits of core `c` whose unit bring-up finds unfit after reset `n` (R49, R472): the tests stand outside the spec.
DESIGN CHOICE, log 5. -/
opaque unfitUnits (n c : Nat) : Word

/-- Whether a line from (x0, y0) to (x1, y1) of equal extents has x as its major axis (R321). DESIGN CHOICE, log 10. -/
opaque lineAlongX (x0 y0 x1 y1 : Int) : Bool

end Sys2Proof.Config
end

