-- ==== Sys2Proof/Machine/Mem.lean ====
section
/-! DEFINITION. Memory as data: lists of (address, byte) pairs in one canonical form, little-endian values (R4), and the
stores of the module (R409, R455, R474). -/
namespace Sys2Proof.Machine

open Sys2Proof

/-! ## Sparse tables -/

/-- A table from numbers to values, strictly rising by key, listing no entry equal to the value of an unlisted key. -/
abbrev Table (α : Type) := List (Nat × α)

/-- The value of key `k`, `z` where nothing is listed. -/
def Table.get {α : Type} (z : α) : Table α → Nat → α
  | [], _ => z
  | (j, v) :: r, k => if k = j then v else if k < j then z else Table.get z r k

/-- The table without key `k`. -/
def Table.drop {α : Type} : Table α → Nat → Table α
  | [], _ => []
  | (j, v) :: r, k => if k = j then r else if k < j then (j, v) :: r else (j, v) :: Table.drop r k

/-- The table with `v` listed at key `k`. -/
def Table.put {α : Type} : Table α → Nat → α → Table α
  | [], k, v => [(k, v)]
  | (j, u) :: r, k, v =>
    if k = j then (k, v) :: r else if k < j then (k, v) :: (j, u) :: r else (j, u) :: Table.put r k v

/-- The table that reads `v` at key `k`: a value equal to `z` is not listed. -/
def Table.set {α : Type} [DecidableEq α] (z : α) (t : Table α) (k : Nat) (v : α) : Table α :=
  if v = z then t.drop k else t.put k v

/-- Every key of the table is above `lo` and the keys rise; no value is `z`. -/
def Table.okFrom {α : Type} [DecidableEq α] (z : α) (lo : Nat) : Table α → Bool
  | [] => true
  | (j, v) :: r => decide (lo ≤ j) && decide (v ≠ z) && Table.okFrom z (j + 1) r

/-! ## Memory -/

/-- All the bytes of the module's four stores. -/
abbrev Memory := List Host.Cell

/-- What a byte that nothing has written reads as. The spec gives no contents; DESIGN CHOICE, log 3. -/
def Memory.unlisted : Byte := 0#8

/-- The canonical form: strictly rising addresses, no entry equal to what an unlisted address reads as. -/
def Memory.wf (m : Memory) : Bool := Table.okFrom Memory.unlisted 0 m

def Memory.byte (m : Memory) (a : Nat) : Byte := Table.get Memory.unlisted m a

def Memory.setByte (m : Memory) (a : Nat) (b : Byte) : Memory := Table.set Memory.unlisted m a b

/-- The bytes written in order, the first of the list first. -/
def Memory.writes : List (Nat × Byte) → Memory → Memory
  | [], m => m
  | (a, b) :: r, m => Memory.writes r (m.setByte a b)

/-! ## The stores -/

/-- The key of address `a` in store `kind`: 0 local GDDR 7, 1 second tier, 2 host memory, 3 memory of peer modules, 4 memory of the
firmware complex. -/
def storeKey (kind a : Nat) : Nat := kind * 2 ^ 60 + a

/-- The key of a hart physical address (R474). -/
def hartKey (a : Nat) : Nat := storeKey 4 (a % 2 ^ 56)

/-- Local GDDR 7: 192 GB, a decimal prefix (R5, R409). -/
def gddrSize : Nat := 192 * 10 ^ 9

/-! ## Little-endian values (R4) -/

/-- The number a list of bytes holds, the first least significant. -/
def leNat : List Byte → Nat
  | [] => 0
  | b :: r => b.toNat + 256 * leNat r

/-- `n` bytes of a number, least significant first. -/
def leBytes : Nat → Nat → List Byte
  | 0, _ => []
  | n + 1, v => BitVec.ofNat 8 v :: leBytes n (v / 256)

/-- Bits [h:l] of a number. -/
def bitsN (v h l : Nat) : Nat := v / 2 ^ l % 2 ^ (h + 1 - l)

/-- Two's-complement reading of the low `w` bits of a number. -/
def sNat (w v : Nat) : Int :=
  let u := v % 2 ^ w
  if u < 2 ^ (w - 1) then u else (u : Int) - (2 ^ w : Nat)

/-- The bytes of words, lowest first. -/
def bytesOfWords (ws : List Word) : List Byte := ws.flatMap fun w => leBytes 4 w.toNat

/-- Words of bytes; the last is filled up with zeros. -/
def wordsOfBytes : List Byte → List Word
  | [] => []
  | [a] => [BitVec.ofNat 32 (leNat [a])]
  | [a, b] => [BitVec.ofNat 32 (leNat [a, b])]
  | [a, b, c] => [BitVec.ofNat 32 (leNat [a, b, c])]
  | a :: b :: c :: d :: r => BitVec.ofNat 32 (leNat [a, b, c, d]) :: wordsOfBytes r

/-- The number words hold, the lowest first (R53). -/
def wordsNat : List Word → Nat
  | [] => 0
  | w :: r => w.toNat + 2 ^ 32 * wordsNat r

/-- `n` words of a number (R53). -/
def natWords : Nat → Nat → List Word
  | 0, _ => []
  | n + 1, v => BitVec.ofNat 32 v :: natWords n (v / 2 ^ 32)

end Sys2Proof.Machine
end

