-- ==== Sys2Proof/Machine/State.lean ====
section
/-! DEFINITION. The state of one NX-512 module as plain data, and the machine right after reset (R472). Fields marked
"model" are the model's own, not the spec's; notes/assumptions says what they stand for. -/
namespace Sys2Proof.Machine

open Sys2Proof

/-! ## Outcomes -/

/-- Why the machine stops with a fault. -/
inductive Fault where
  /-- Nothing of this model raises it: every trap of the spec is a next state, and every address has a byte. Safe. -/
  | unreachable
  deriving DecidableEq, Repr

/-- Why an instruction is refused. -/
inductive Refusal where
  /-- Raised by no meaning: an arm of the dispatch that has no meaning yet. Safe. -/
  | notModelled (mnemonic : String)
  deriving DecidableEq, Repr

/-! ## Fibres (R14) -/

/-- An `ldfe` that waits for a granule of a member (R245): the rope group, and what it will deliver. -/
structure Take where
  rank : Nat
  gran : Nat
  grp : Nat
  clr : Bool
  addr : Nat
  size : Nat
  dst : Nat
  dn : Nat
  len : Nat
  m : Word
  deriving DecidableEq, Repr

/-- What a fibre is blocked on (R33). A blocked fibre stands at its instruction and executes it again when the condition
no longer holds, except where the constructor says that its PC has moved on. -/
inductive Wait where
  /-- Not blocked. -/
  | none
  /-- Empty words or pending predicates (R56, R66, R67). -/
  | words (ws ps : List Nat)
  /-- A pending special-function result (R72). -/
  | sfu
  /-- `sleep`, until the clock (R198); the PC has moved on. -/
  | sleep (until_ : Nat)
  /-- `wait` on the line or vault row that holds the word, since the clock of the last read: the value it compares with,
  read once, and whether the line has been written since (R199). -/
  | memw (key last v : Nat) (hit : Bool) (i : Instr)
  /-- `wait` whose read is held on an IA page (R46, R199). -/
  | memp (p v : Nat) (i : Instr)
  /-- In a `callx` collection (R37). -/
  | coll (cid : Nat)
  /-- At a convergent instruction, with the mask and guard of its arrival (R40). -/
  | conv (mask : Word) (guard : Bool) (i : Instr)
  /-- Moved by `callx`, until its words are full; then the link is written (R39, R192). -/
  | linkw (ws : List Nat) (d : Nat) (link : Word)
  /-- At an `mma` or fragment-mode transfer of a gang register, with its guard (R43, R277). -/
  | latch (g : Nat) (guard : Bool) (i : Instr)
  /-- A fence or release, until the fibre's operations older than `before` are performed and, when `parked`, its parked
  operations too (R128, R140). -/
  | ops (before : Nat) (parked : Bool)
  /-- The result of one operation (an acquire's read, `tcpyc`); the PC has moved on. -/
  | op (id : Nat)
  /-- `fencep`, until the stores of a core older than `before` have reached their homes (R139). -/
  | drain (core before : Nat)
  /-- `ldfe` on an empty granule of a member (R245). -/
  | granule (a : Take)
  /-- `bar.wait` while the phase equals the bit (R251). -/
  | bar (b : Nat) (phase : Bool)
  /-- `cpywait` until the counter of the tag is 0 (R255). -/
  | tag (t : Nat)
  /-- A copy whose counter stands at 255, or a core with 32 copies (R253, R262). -/
  | copyRoom (t : Nat) (engine : Bool)
  /-- `cont` on a full pool (R265). -/
  | pool
  /-- `await` on matrix operations (R290). -/
  | mops (ids : List Nat)
  /-- 16 matrix operations released and not completed (R271). -/
  | matRoom
  /-- The merger queue of the engine holds 1,024 accesses (R301). -/
  | merger (engine : Nat)
  /-- Sequence numbers, quota or the 8 requests of the slice that holds an address (R392, R395). -/
  | tagRoom (ia : Option Nat)
  /-- At a byte-view access, until matrix operations of its tile have written it (R111). -/
  | tiles (ids : List Nat)
  /-- At an access to an uncached page while a halt is pending (R234). -/
  | device
  /-- A fetch held on an IA page (R156). -/
  | page (p : Nat)
  /-- The hub's acknowledgement at a clock (R373); the PC has moved on. -/
  | ack (until_ : Nat)
  /-- `cachex`, done at a clock (R372). -/
  | cachex (until_ : Nat)
  deriving DecidableEq, Repr

/-- The pixel state of R294, with the part of the clipped primitive that gives the fibre its weights (R321). -/
structure Pixel where
  x : Nat
  y : Nat
  s : Nat
  cov : Nat
  draw : Nat
  g : Nat
  p : Nat
  part : Nat
  cov0 : Nat
  deriving DecidableEq, Repr

/-- The traversal unit's state for one fibre (R313 to R316, R399): the ray and flags, the current instance node, the
pending references, the committed and the candidate record, t_cur, and the stage. DEDUCED, log 29. -/
structure Trav where
  ray : List Word
  flags : Word
  /-- The root pointer of `trace`, and the address it stands for. -/
  ptr : Nat := 0
  root : Nat
  inst : Nat
  refs : List Nat
  /-- Address of the box node whose child stands at the head, 0 for none (HINT0 of R417). -/
  par : Nat := 0
  /-- Issue count of its `trace` (R399). -/
  ord : Nat := 0
  commit : List Word
  commitKey : List Nat
  cand : List Word
  candKey : List Nat
  tcur : Word
  stage : Nat
  deriving DecidableEq, Repr

/-- One fibre. `pc` is a text offset; `emp` lists the empty window words, `pend` the pending predicates.
DESIGN CHOICE, log 14. -/
structure Fib where
  live : Bool := false
  started : Bool := false
  pc : DWord := 0#64
  preds : Word := 1#32
  pend : List Nat := []
  win : List Word := []
  emp : List Nat := []
  priv : Bool := false
  hnd : Bool := false
  privBefore : Bool := false
  critn : Nat := 0
  critAt : Nat := 0
  cnt : List Nat := [0, 0, 0, 0, 0, 0, 0, 0]
  fpflags : BitVec 6 := 0#6
  lane : Nat := 0
  pos : Nat := 0
  fslot : Nat := 0
  wait : Wait := .none
  /-- In the candidate set since `age` (R33); `order` is 1 from a `yield` to the next admission (R197). -/
  cand : Bool := false
  age : Nat := 0
  order : Nat := 0
  /-- The first cc in which the fibre may issue again. -/
  readyAt : Nat := 0
  skid : Nat := 0
  /-- The instruction, numbered as its operations are, that the tag rules hold for this fibre (R115, R392, R395), else 0. -/
  tagGrp : Nat := 0
  /-- Found blocked during a halt: it stops where it stands (R377). -/
  stuck : Bool := false
  /-- Made by `spawn` in this cc: it counts as live from the next (R195). -/
  unborn : Bool := false
  pcause : Nat := 0
  pixel : Option Pixel := none
  trav : Option Trav := none
  deriving DecidableEq, Repr

/-! ## Operations in flight (R388 to R399) -/

/-- Kinds of operations that travel or are pending (R397), with the pending results that make no entry. -/
inductive OpKind where
  | ld | ldc | st | atom | red | atomf | atomfx | cpy | tcpy | tcpyc | cont | smp | tld | omld | trav | omst | kbins
  /-- A vault or accumulator read on its way to the window (R234). -/
  | local_
  /-- A special-function result (R202). -/
  | sfu
  /-- A row of `ast` on its way to its home: the accumulator engine writes it within one step (R273). -/
  | ast
  deriving DecidableEq, Repr

/-- What a request does at its home: the bytes of a store, or a read-modify-write (R238, R240, R241, R260). -/
inductive Act where
  | read
  | write (bs : List Byte)
  /-- `atom`, `red`: OP, TY, b and c. -/
  | int (op ty b c : Nat)
  /-- `atomf`: FOP, TY, RND and b. -/
  | flt (fop ty rnd b : Nat)
  /-- `atomfx`: P and b. -/
  | fx (p b : Nat)
  /-- A unit of `tcpy.red`: ROP, P and its source elements. -/
  | unit (rop p : Nat) (bs : List Byte)
  deriving DecidableEq, Repr

/-- Where one half of a travelling operation stands (R117, R412, R414, R417). -/
inductive PartSt where
  | sent | walk | fill | held | parked | done | given
  deriving DecidableEq, Repr

/-- One half: its virtual address, the offset of its bytes in the access, their number. -/
structure Part where
  va : Nat
  off : Nat
  len : Nat
  st : PartSt := .sent
  deriving DecidableEq, Repr

/-- An operation in flight. `st` holds the operand values read at issue (STATE of R397). -/
structure Op where
  id : Nat
  kind : OpKind
  wg : Nat
  fib : Nat
  ord : Nat := 0
  /-- The rope issue it belongs to (R115, R116). -/
  grp : Nat := 0
  dst : Nat := 0
  dn : Nat := 0
  dxp : Option Nat := none
  tag : Nat := 0
  scope : Nat := 0
  sgrp : Nat := 0
  acq : Bool := false
  rel : Bool := false
  core : Nat := 0
  addr : Nat := 0
  size : Nat := 0
  m : Word := 0#32
  st : List Word := []
  parts : List Part := []
  act : Act := .read
  /-- The bytes read or returned so far. -/
  bytes : List Byte := []
  res : List Word := []
  fl : BitVec 6 := 0#6
  due : Nat := 0
  /-- Result ready to land (R65). -/
  ready : Bool := false
  /-- Nothing lands any more (R39, R196). -/
  discard : Bool := false
  poisoned : Bool := false
  frozen : Bool := false
  /-- `tcpy`, `cpy`: complete units (R398). -/
  mark : Nat := 0
  win : Nat := 0
  uncached : Bool := false
  /-- Held page of an operation without halves, if any (R416). -/
  heldOn : Option Nat := none
  /-- It has raised the ASYNC cause of what was given up. -/
  lost : Bool := false
  /-- Clock at which it was sent last (R401). -/
  sentAt : Nat := 0
  /-- Its scope contains another core (R114); it counts as `.dev` or wider for parked operations (R140): read at issue (R121). -/
  wide : Bool := false
  deep : Bool := false
  /-- What a copy reads: each space or member, with the lowest address and the one after the highest (R124, R136). -/
  reads : List (Nat × Nat × Nat) := []
  /-- Reissued from a record (R403). -/
  again : Bool := false
  /-- Units of a tile copy given up (R262). -/
  gone : List Nat := []
  deriving DecidableEq, Repr

/-- Kinds of matrix operations (R267). -/
inductive MKind where
  | mma | aclr | acvt | ascl | plan | ald | ast
  deriving DecidableEq, Repr

/-- A released matrix operation (R267 to R273). -/
structure MOp where
  id : Nat
  kind : MKind
  fib : Nat
  arrivals : List Nat
  ord : Nat
  relAt : Nat
  tag : Nat := 0
  m : Word
  a : Nat := 0
  b : Nat := 0
  c : Nat := 0
  vecs : List Word := []
  lost : Bool := false
  started : Bool := false
  startAt : Nat := 0
  mark0 : Nat := 0
  mark : Nat := 0
  /-- In a halt: the mark after the step that runs (R273). -/
  stopAt : Option Nat := none
  /-- The current step waits on a page (R274). -/
  held : Bool := false
  deriving DecidableEq, Repr

/-! ## Work-groups (R18, R19) -/

/-- Where a work-group is: formed and not yet placed, on a core, swapped out, or gone. -/
inductive Place where
  | waiting | resident | suspended | retired
  deriving DecidableEq, Repr

/-- How a work-group was placed (R16, R293). -/
inductive WKind where
  | grid | pool | mesh | pixel
  deriving DecidableEq, Repr

/-- Why a work-group is stopping or stopped (R34, R376, R383, R404). -/
inductive Halt where
  | none
  | trap
  | preempt
  | debug
  deriving DecidableEq, Repr

/-- A barrier register (R249). -/
structure Bar where
  bytes : Int := 0
  init : Bool := false
  phase : Bool := false
  expect : Nat := 0
  pend : Nat := 0
  /-- The cc and the fibre of its last `bar.init` (R36; model). -/
  initAt : Nat := 0
  initBy : Nat := 0
  deriving DecidableEq, Repr

/-- A pending cause (R375): cause, asynchronous, value, fibre. -/
structure Cause where
  cause : Nat
  async : Bool
  tval : Nat
  fib : Nat
  deriving DecidableEq, Repr

/-- A range register (R407), already judged enabled or not. -/
structure Range where
  vbase : Nat := 0
  vsize : Nat := 0
  iabase : Nat := 0
  on : Bool := false
  deriving DecidableEq, Repr

/-- The context descriptor (R364). -/
structure Ctx where
  ctxd : Nat := 0
  tbase : Nat := 0
  tsize : Nat := 0
  ctxid : Nat := 0
  sup : Bool := false
  fsvc : Bool := false
  sgtab : Nat := 0
  ranges : Nat := 0
  savep : Nat := 0
  deriving DecidableEq, Repr

/-- A write of a uniform or gang register in the running cc: the register, the writing fibre's index, the value (R36). -/
structure KWrite where
  reg : Nat
  fib : Nat
  val : Word
  deriving DecidableEq, Repr

/-- One resident or suspended work-group. -/
structure WG where
  id : Nat
  launch : Nat
  kind : WKind := .grid
  place : Place := .resident
  core : Nat := 0
  slot : Nat := 0
  /-- First byte of its run of vault rows (R105). -/
  vbase : Nat := 0
  gidx : Nat := 0
  wid : Nat := 0
  rank : Nat := 0
  cohort : Nat := 0
  seq : Nat := 0
  fibs : List Fib := []
  /-- Committed values; the values before the latest commit, made in cc `kcAt`; pending values; the writes of cc `knAt`
  (R57, R58). -/
  k : List Word := []
  kOld : List Word := []
  kcAt : Nat := 0
  kp : List Word := []
  kn : List KWrite := []
  knAt : Nat := 0
  bars : List Bar := []
  gangs : List Word := [0#32, 0#32, 0#32, 0#32]
  /-- Writes of gang registers in the running cc, read from the next (R276). -/
  gn : List KWrite := []
  vault : Table Byte := []
  /-- Empty granules; poisoned vault bytes (R109, R478). -/
  empt : List Nat := []
  vbad : List Nat := []
  tiles : Table Word := []
  mops : List MOp := []
  halt : Halt := .none
  haltAt : Nat := 0
  /-- Further instructions a fibre may issue during a trap halt (R377). -/
  skidMax : Nat := 0
  trap : Option Cause := none
  /-- The trapping fibre's flags before those of its ARITH (R71, R376). -/
  trapFl : BitVec 6 := 0#6
  stopped : Bool := false
  frozen : Bool := false
  handling : Bool := false
  frozenAt : Nat := 0
  trapPend : Bool := false
  asyncs : List Cause := []
  /-- ASYNC causes that were pending at handler entry: taken after the return (R375, R379). -/
  asyncsLater : List Cause := []
  /-- Requests that wait for another halt to end (R386, R405). -/
  wantPreempt : Bool := false
  tcause : Word := 0#32
  tpc : Word := 0#32
  tval : DWord := 0#64
  tscr : List DWord := [0#64, 0#64, 0#64, 0#64]
  waddr : List DWord := [0#64, 0#64]
  wctl : Word := 0#32
  ctx : Ctx := {}
  rng : List Range := []
  issue : Nat := 0
  /-- The issue count at handler entry: what the handler sends stands at or above it (R386). -/
  trapIssue : Nat := 0
  /-- Number of the device bytes written as header and fibre control of the save image (R384). -/
  hdr : Nat := 0
  /-- Entries of the record in the save image. -/
  entries : Nat := 0
  /-- Parked markers restored or kept (R400): fibre, CORE, FSLOT, SEQLO, SEQHI. -/
  markers : List (Nat × Nat × Nat × Nat × Nat) := []
  /-- Mesh output buffer (R296 to R298): word 36 v + j of vertex v; slot p of the primitives, bit 31 set unless culled. -/
  mesh : Table Word := []
  prims : Table Word := []
  /-- Each executed `mend`: fibre, nv, np (R298). -/
  mends : List (Nat × Nat × Nat) := []
  /-- Raster engine of a pixel or mesh work-group's core choice (R320). -/
  eng : Option Nat := none
  blockedAt : Option Nat := none
  /-- Since when every fibre that has not exited is blocked on a page fault (R47). -/
  faultAt : Option Nat := none
  suspendedAt : Nat := 0
  placedAt : Nat := 0
  /-- Words of text fetched since the placement: the first value read, plus 1, by virtual address (R156). -/
  fetched : Table Nat := []
  image : Option (Nat × Nat) := none
  /-- Of each saved operation: issue count, instruction, and whether its fibre had exited (R384, R389; model). -/
  kept : List (Nat × Nat × Bool) := []
  /-- Resumed before other work (R446). -/
  urgent : Bool := false
  /-- Ended under R380 and waiting for a lane H entry (R381). -/
  ending : Option (Cause × Nat) := none
  deriving DecidableEq, Repr

/-! ## Launches, queues and packets (R430 to R440) -/

/-- The launch record (R438). -/
structure Record where
  text : Nat := 0
  tsize : Nat := 0
  w : Nat := 8
  fcap : Nat := 1
  fstart : Nat := 1
  binage : Nat := 0
  coh : Nat := 0
  priv : Bool := false
  fpen : BitVec 6 := 0#6
  a : Nat := 0
  v : Nat := 0
  wid : List Nat := [0, 0, 0, 0, 0, 0]
  em1 : List Nat := [0, 0, 0, 0, 0, 0]
  feat : Word := 0#32
  fmt : List Word := [0#32, 0#32, 0#32, 0#32, 0#32, 0#32, 0#32, 0#32]
  argn : Nat := 0
  argp : Nat := 0
  pbase : Nat := 0
  psize : Nat := 0
  csize : Nat := 0
  cbase : Nat := 0
  pool : Nat := 0
  deadline : Nat := 0
  pred : Nat := 0
  nmod : Nat := 1
  deriving DecidableEq, Repr

/-- A bin of the pool front end (R29): the PCOFF it holds, its records with their arrival, oldest first. -/
structure Bin where
  pcoff : Word := 0#32
  recs : List (List Word) := []
  since : Nat := 0
  deriving DecidableEq, Repr

/-- A launch or the kernel of a pass: everything its work-groups share. -/
structure Launch where
  id : Nat
  r : Record
  kind : WKind
  q : Nat := 0
  pkt : Nat := 0
  part : Nat := 0
  prio : Nat := 0
  ctx : Ctx := {}
  gen : Nat := 0
  dev : Nat := 0
  pass : Nat := 0
  seq : Nat := 0
  /-- Next linear index to offer, and the number of work-groups in all (R27). -/
  next : Nat := 0
  total : Nat := 0
  formed : Nat := 0
  bins : List Bin := []
  /-- The continuation pool (R439): ring, records taken and appended; the initial records and how many were taken. -/
  poolBase : Nat := 0
  poolLog : Nat := 10
  initBase : Nat := 0
  initN : Nat := 0
  initGet : Nat := 0
  poolGet : Nat := 0
  poolPut : Nat := 0
  held : Bool := false
  ntrap : Nat := 0
  detail : Nat := 0
  fatal : Nat := 0
  retired : Nat := 0
  meshV : Nat := 0
  meshP : Nat := 0
  meshA : Nat := 0
  aborted : Bool := false
  posted : List Nat := []
  deriving DecidableEq, Repr

/-- A packet read and not yet completed (R434, R436). -/
structure Pkt where
  id : Nat
  q : Nat
  ridx : Nat
  ty : Nat
  flg : Nat
  cstat : Nat
  csig : Nat
  cval : Nat
  body : List Byte
  ctx : Ctx
  part : Nat := 0
  started : Bool := false
  finished : Bool := false
  code : Nat := 0
  detail : Nat := 0
  ntrap : Nat := 0
  launch : Option Nat := none
  pass : Option Nat := none
  /-- PARTITION_SET: the clock of its start. -/
  pos : Nat := 0
  /-- COPY: the runs of bytes not yet written, as offsets from the first to behind the last. -/
  left : List (Nat × Nat) := []
  /-- Steps of the completion made (R436): CSTAT written, CSIG added. -/
  stage : Nat := 0
  deriving DecidableEq, Repr

/-- What the queue engine keeps of a queue beside the descriptor in memory (R430 to R433). -/
structure Queue where
  q : Nat
  slot : Option Nat := none
  order : Nat := 0
  /-- ADDR, VALUE, CMP and packet of the WAIT it is parked on (R441). -/
  parked : Option (Nat × Nat × Nat × Nat) := none
  /-- The watched line, by its store key. -/
  watched : Option Nat := none
  parkedAt : Nat := 0
  openPass : Option Nat := none
  heldSeg : Option Nat := none
  deriving DecidableEq, Repr

/-- A partition (R442). -/
structure Partition where
  cmask : List Bool := []
  cores : Nat := 0
  bwq : Nat := 0
  pwr : Nat := 0
  on : Bool := false
  fsvc : Bool := false
  bw : Nat := 0
  est : Nat := 0
  deriving DecidableEq, Repr

/-! ## Render passes (R317 to R331) -/

/-- A set-up primitive: key, part number, facing, snapped positions in 1/256 pixel, depth and w of its vertices, and
their attribute words (R321). -/
structure Prim where
  draw : Nat
  g : Nat
  p : Nat
  part : Nat
  front : Bool
  topo : Nat
  xs : List Int
  ys : List Int
  zs : List Word
  ws : List Word
  attrs : List (List Word)
  flat : List Word
  deriving DecidableEq, Repr

/-- A quad that waits for a pixel work-group (R323): region, primitive, top-left pixel, coverage of its four pixels and
the part that gives each its weights. -/
structure Quad where
  rx : Nat
  ry : Nat
  draw : Nat
  g : Nat
  p : Nat
  x : Nat
  y : Nat
  cov : List Nat
  parts : List Nat
  since : Nat
  /-- In a binned pass: its bin is being rendered (R326). -/
  open_ : Bool := true
  deriving DecidableEq, Repr

/-- An open or closing pass. -/
structure Pass where
  id : Nat
  blk : List Byte
  launch : Nat
  pkt : Nat
  closePkt : Option Nat := none
  part : Nat := 0
  ctx : Ctx := {}
  rng : List Range := []
  /-- Draws not yet set up, in order; the next mesh index of the first (R295, R440). -/
  draws : List Nat := []
  nextMesh : Nat := 0
  prims : List Prim := []
  quads : List Quad := []
  numbers : List Nat := []
  code : Nat := 0
  detail : Nat := 0
  ended : Bool := false
  /-- Writes of the pass start made (R319, R330); pixels resolved at its end (R331). -/
  initAt : Nat := 0
  endAt : Nat := 0
  spilled : List Nat := []
  arenaUse : Nat := 0
  /-- Tiles that have state in a binned pass (R327); runs of their target bytes written at its end, and whether that is done. -/
  touched : List Nat := []
  storeAt : Nat := 0
  stored : Bool := false
  /-- Writes of the engines' own that wait to go on: address and bytes (R319, R326, R328). -/
  owed : List (Nat × List Byte) := []
  /-- The tile stores of a binned pass (R327): a byte plus 1 by its target address, 0 where they hold none. -/
  tileStore : Table Nat := []
  deriving DecidableEq, Repr

/-! ## Cores -/

/-- An L1 or constant-cache line (R113, R114, R236). -/
structure L1Line where
  line : Nat
  data : List Byte
  stamp : Nat
  deriving DecidableEq, Repr

/-- A fibre in a `callx` collection (R37): work-group, fibre, target, key, L, link. -/
structure Caller where
  wg : Nat
  fib : Nat
  target : Nat
  key : Nat
  live : Nat
  d : Nat
  link : Word
  deriving DecidableEq, Repr

/-- A collection of a quadrant. -/
structure Coll where
  id : Nat
  quad : Nat
  ctx : Nat
  text : Nat
  w : Nat
  opened : Nat
  closed : Option Nat := none
  members : List Caller := []
  deriving DecidableEq, Repr

/-- A physical core. -/
structure Core where
  feature : Word := 0xFF#32
  l1 : List L1Line := []
  cc : List L1Line := []
  wtabs : List (Nat × Nat) := []
  colls : List Coll := []
  seqs : Table Nat := []
  outst : List Nat := []
  gathered : List Nat := []
  gatheredAt : Nat := 0
  /-- Contexts stopped by a quota, with the slice that sent the stop (R395). -/
  stops : List (Nat × Nat) := []
  laneH : Nat := 0
  idleAt : Nat := 0
  gated : Bool := false
  arrayBusy : Option Nat := none
  accBusy : Option Nat := none
  deriving DecidableEq, Repr

/-! ## Homes, translation and the Cairn engine -/

/-- What an L2 slice keeps of a line: its place in a store, the write grant (R413). -/
structure L2Line where
  line : Nat
  phys : Nat
  grant : Bool
  /-- The store key of the entry of a cached second-tier page, else 0 (R411). -/
  pte : Nat := 0
  /-- Written since its page's translation was taken (R424). -/
  dirty : Bool := false
  deriving DecidableEq, Repr

/-- An entry of a home's tag table (R393). -/
structure TagEnt where
  tag : Nat
  line : Nat
  units : Nat := 0
  /-- Units of a tile copy performed, by their number in the copy plus 1 (R398). -/
  pieces : List Nat := []
  res : List Word := []
  deriving DecidableEq, Repr

/-- A parked operation of the Scree log (R418): the bytes written or the read-modify-write performed at an address. -/
structure Parked where
  id : Nat
  tag : Nat
  wg : Nat
  fib : Nat
  launch : Nat
  pass : Option Nat
  ctx : Nat
  va : Nat
  ia : Nat
  act : Act
  /-- The unit of a tile copy plus 1, else 0. -/
  piece : Nat := 0
  deriving DecidableEq, Repr

/-- A fault episode (R417): its first 64 KiB page, its pages (1 or 512), the log of the page in order. -/
structure Episode where
  page : Nat
  n : Nat
  log : List Parked := []
  cleaned : Bool := false
  deriving DecidableEq, Repr

/-- A fill in progress (R414): the page, its pages, the entry's address, the frame. -/
structure Fill where
  page : Nat
  n : Nat
  pte : Nat
  frame : Nat
  home : Nat
  deriving DecidableEq, Repr

/-- A record on a lane of the trap collector (R381). -/
structure LaneRec where
  seq : Nat
  core : Nat
  part : Nat
  ctx : Nat
  data : List Byte
  deriving DecidableEq, Repr

/-- A page of a Cairn batch (R421). -/
structure BPage where
  seq : Nat
  page : Nat
  ctx : Nat
  reason : Nat
  pred : Bool
  large : Bool
  deriving DecidableEq, Repr

/-! ## Hub registers (R395, R426, R428, R467, R468, R482) -/

structure Hub where
  tagq : Table Nat := []
  ptroot : DWord := 0#64
  fmbase : DWord := 0#64
  fqbase : DWord := 4#64
  cairnctl : DWord := 0x08C040#64
  qdbase : DWord := 0#64
  evbase : DWord := 0#64
  evput : Nat := 0
  spinw : Nat := 65536
  eqtmo : Nat := 600000
  domcfg : DWord := 0#64
  gencnt : Nat := 0
  dbgreq : DWord := 0#64
  peercfg : DWord := 0#64
  linkst : DWord := 0#64
  peerrt : List DWord := List.replicate 16 0#64
  dspbase : DWord := 0#64
  bootState : Nat := 0
  bootReason : Nat := 0
  mr : List (BitVec 512) := List.replicate 8 0#512
  mrctlBusy : Bool := false
  mrdata : BitVec 512 := 0#512
  pin : Nat := 0
  pest : Nat := 0
  tmax : Nat := 0
  pwrlim : Nat := 1600
  ecce : Nat := 0
  eccu : Nat := 0
  cxlcap : List Nat := [0, 0, 0, 0]
  cxlup : List Bool := [false, false, false, false]
  fswap : Nat := 0x4000
  deriving DecidableEq, Repr

/-! ## Firmware harts (R452, R453) -/

/-- DESIGN CHOICE, log 1; PRESUMED, log 43. -/
structure Hart where
  x : List DWord := List.replicate 32 0#64
  pc : DWord := 0#64
  /-- 3 M-mode, 1 S-mode, 0 U-mode. -/
  mode : Nat := 3
  running : Bool := false
  mcause : DWord := 0#64
  mepc : DWord := 0#64
  mtval : DWord := 0#64
  mtvec : DWord := 0#64
  mstatus : DWord := 0#64
  mscratch : DWord := 0#64
  /-- The reservation of a load-reserved. -/
  resv : Option Nat := none
  buf : Table Byte := []
  bufPoison : List Nat := []
  evq : List DWord := []
  evEn : Bool := false
  /-- Blocked in `swait` until a clock, with rd. -/
  waiting : Option (Nat × Nat) := none
  /-- Waiting for the hub since a clock (R453). -/
  asking : Option (Nat × Nat) := none
  deriving DecidableEq, Repr

/-! ## Coherence, peer links, displays -/

/-- A directory entry (R457). -/
structure DirEnt where
  st : Nat := 0
  own : Nat := 0
  hs : Nat := 0
  ds : Bool := false
  pv : Nat := 0
  deriving DecidableEq, Repr

/-- A request of an agent (R458): kind 0 RdS, 1 RdX, 2 Upg. -/
structure Req where
  agent : Nat
  line : Nat
  kind : Nat
  deriving DecidableEq, Repr

/-- The transaction a home serves on a line (R459): the request, the agents still to answer a snoop, whether the grant is
sent, and what it grants (1 S, 2 E). -/
structure Txn where
  req : Req
  snoops : List (Nat × Bool)
  granted : Nat := 0
  withData : Bool := true
  sent : Bool := false
  recovery : Bool := false
  dirty : Nat := 0
  deriving DecidableEq, Repr

/-- An agent's copy of a line: 0 I, 1 S, 2 E, 3 M. -/
structure Copy where
  agent : Nat
  line : Nat
  mesi : Nat
  deriving DecidableEq, Repr

/-- A message an agent has put on the fabric and the other end has not taken (R458). DESIGN CHOICE, log 33. -/
structure Msg where
  dst : Nat
  kind : Nat
  line : Nat
  arg : Nat
  bytes : List Byte := []
  deriving DecidableEq, Repr

/-- A peer link (R465, R466). -/
structure Link where
  up : Bool := false
  txSeq : Nat := 0
  rxSeq : Nat := 0
  unacked : List (List Byte) := []
  vcs : List (List (List Byte)) := [[], [], [], []]
  xoff : List Bool := [false, false, false, false]
  sentXoff : List Bool := [false, false, false, false]
  nakRun : Nat := 0
  out : List (List Byte) := []
  deriving DecidableEq, Repr

/-- A display head (R468 to R471). -/
structure Head where
  on : Bool := false
  /-- HFLG[0] as last read. -/
  seen : Bool := false
  /-- The head block as read when the head was enabled. -/
  timing : List Byte := []
  startAt : Nat := 0
  frames : Nat := 0
  lastFrame : Option (List Byte) := none
  pose : Option (List Word) := none
  /-- What is scanned out: 0 black, 1 the last complete frame, 2 the warp buffer. -/
  out : Nat := 0
  deriving DecidableEq, Repr

/-- A domain launch that waits for reports or go (R450, R451). -/
structure Domain where
  gen : Nat
  launch : Nat
  pkt : Nat
  nmod : Nat
  sentAt : Nat
  reports : List (Nat × Nat) := []
  origin : Bool := false
  ended : Bool := false
  deriving DecidableEq, Repr

/-! ## The device -/

/-- Power states (R481). -/
inductive Power where
  | on | d3hot | d3cold
  deriving DecidableEq, Repr

/-- What happens to the module next, besides issuing (model): a step of a unit with its operands, the turn of a firmware
hart, or a write of the host to memory. -/
inductive Todo where
  | ev (i : Instr) (a b c : Nat) (bytes : List Byte)
  | hart (h : Nat)
  | hartEvents (h : Nat) (on : Bool)
  | hostWrite (ia : Nat) (bytes : List Byte)
  deriving DecidableEq, Repr

/-- The operands of the running unit step (model). -/
structure Arg where
  a : Nat := 0
  b : Nat := 0
  c : Nat := 0
  bytes : List Byte := []
  deriving DecidableEq, Repr

/-- A rope that has been selected and not yet executed (R34): its fibres by work-group and index, in ascending rank. -/
structure Rope where
  core : Nat
  quad : Nat
  fibs : List (Nat × Nat)
  deriving DecidableEq, Repr

/-- Everything but the clock and the memory bytes. `wb` holds the byte writes of the running step, the latest first,
by store key; it is empty between steps. `choices` lists answers to the freedoms of order and delay that the spec leaves
open (model); past its end the answers are free values (log 13). DESIGN CHOICE, log 2. -/
structure Dev where
  arg : Arg := {}
  ropes : List Rope := []
  agenda : List Todo := []
  /-- What the host, the links and the other modules will do, each with its clock, oldest first. -/
  inputs : List (Nat × Todo) := []
  choices : List Nat := []
  curHart : Nat := 0
  nextId : Nat := 1
  fresh : Nat := 0
  evSeq : Nat := 0
  wb : List (Nat × Byte) := []
  poison : List Nat := []
  /-- Bytes of host memory whose request the host answers with an error (R409). -/
  hostErr : List Nat := []
  wgs : List WG := []
  launches : List Launch := []
  passes : List Pass := []
  ops : List Op := []
  cores : Table Core := []
  l2 : List L2Line := []
  tags : List TagEnt := []
  /-- Contexts and slices for which a stop is out (R395). -/
  quotaStops : List (Nat × Nat) := []
  /-- Retirements on their way to the homes, with the core that sent them, and forwarded ones (R394). -/
  retq : List (Nat × Nat) := []
  fwd : List (Nat × Nat) := []
  eps : List Episode := []
  fills : List Fill := []
  fifoS : List Nat := []
  fifoL : List Nat := []
  sweepS : Nat := 0
  sweepL : Nat := 0
  mops : Nat := 0
  laneH : List LaneRec := []
  laneR : List LaneRec := []
  laneRHeld : List (Nat × List Byte) := []
  handed : List LaneRec := []
  cairnOpen : List BPage := []
  cairnSince : Nat := 0
  cairnClosed : List (List BPage) := []
  hub : Hub := {}
  queues : List Queue := []
  pkts : List Pkt := []
  parts : List Partition := []
  msix : List Nat := []
  saveRuns : List (Nat × Nat × Nat) := []
  domains : List Domain := []
  harts : List Hart := []
  dir : Table DirEnt := []
  txns : List Txn := []
  reqs : List Req := []
  copies : List Copy := []
  msgs : List Msg := []
  links : List Link := []
  heads : List Head := []
  headPollAt : Nat := 0
  out : List (List Byte) := []
  imageBytes : Table Byte := []
  rcnt : Nat := 0
  resets : Nat := 0
  power : Power := .on
  auxKept : Bool := true
  pinHigh : Nat := 0
  /-- Payloads of peer flits that reached this module (R465). -/
  inbox : List (List Byte) := []
  deriving DecidableEq, Repr

/-- The machine: core clocks since reset (R3, R64), memory, and the rest. -/
structure State where
  clock : Nat
  mem : Memory
  d : Dev
  deriving DecidableEq, Repr

/-- Partition 0 at reset: enabled with every core (R442). -/
def Partition.all : Partition :=
  { cmask := List.replicate 512 true, cores := 512, bwq := 1024, pwr := 1600, on := true }

/-- The device right after reset `n`: step 1 of R472 comes next. DESIGN CHOICE, log 1. -/
def Dev.afterReset (n : Nat) : Dev :=
  { parts := Partition.all :: List.replicate 15 {}, harts := List.replicate 8 {}, links := List.replicate 8 {},
    heads := List.replicate 4 {}, resets := n }

/-- The machine right after reset (R472): every register at the value the spec states, or the value a log entry names;
memory with nothing listed. DESIGN CHOICE, log 1. -/
def State.reset : State := { clock := 0, mem := [], d := Dev.afterReset 0 }

end Sys2Proof.Machine
end

