-- ==== Sys2Proof/Machine/Ops.lean ====
section
/-! DEFINITION. The named operations over the machine's state: access to its parts, memory bytes, waking, taking a trap
and returning from one, ending a work-group. -/
namespace Sys2Proof.Machine

open Sys2Proof

/-! ## Lists -/

/-- Element `i`, if any, replaced by its image. -/
def modAt {α : Type} (f : α → α) : List α → Nat → List α
  | [], _ => []
  | x :: r, 0 => f x :: r
  | x :: r, i + 1 => x :: modAt f r i

/-- `v` put at place `i`. -/
def putAt {α : Type} (v : α) (l : List α) (i : Nat) : List α := modAt (fun _ => v) l i

/-- `n` consecutive numbers from `a`. -/
def upFrom (a n : Nat) : List Nat := (List.range n).map (a + ·)

/-- The least element by a measure. -/
def minBy {α : Type} (f : α → Nat) : List α → Option α
  | [] => none
  | x :: r =>
    match minBy f r with
    | none => some x
    | some y => if f y < f x then some y else some x

/-- A number inserted in rising order, once. -/
def insNat (k : Nat) : List Nat → List Nat
  | [] => [k]
  | j :: r => if k < j then k :: j :: r else if k = j then j :: r else j :: insNat k r

/-- Sorted insertion by a key. -/
def insBy {α : Type} (f : α → Nat) (x : α) : List α → List α
  | [] => [x]
  | y :: r => if f x < f y then x :: y :: r else y :: insBy f x r

def sortBy {α : Type} (f : α → Nat) (l : List α) : List α := l.foldr (insBy f) []

/-! ## The running step -/

/-- What a step reads besides the device: the clock and the memory before the step. -/
structure Env where
  now : Nat
  mem : Memory

/-- The byte the latest write of this step left, else the memory's. -/
def Dev.byte (e : Env) (d : Dev) (k : Nat) : Byte :=
  match d.wb.find? (fun p => p.1 = k) with
  | some p => p.2
  | none => e.mem.byte k

/-- What a step of a state reads. -/
def State.env (s : State) : Env := { now := s.clock, mem := s.mem }

/-- The device after a step: the bytes it wrote go to memory. -/
def State.put (s : State) (d : Dev) : State :=
  { clock := s.clock, mem := Memory.writes d.wb.reverse s.mem, d := { d with wb := [] } }

/-- A step of the device. -/
def onDev (f : Env → Dev → Dev) (s : State) : State := s.put (f s.env s.d)

/-- One answer to a freedom of the spec is used up: the first listed, or the next free value. DESIGN CHOICE, log 13. -/
def Dev.afterChoice (d : Dev) : Dev :=
  { d with choices := d.choices.tail, fresh := if d.choices.isEmpty then d.fresh + 1 else d.fresh }

/-- The next answer to a freedom of the spec, below `n`: the first listed, or a free value where none is listed (R8).
DESIGN CHOICE, log 13. -/
def Dev.choose (d : Dev) (n : Nat) : Nat × Dev :=
  let c := d.choices.headD (Config.freeChoice d.fresh)
  (if n = 0 then 0 else c % n, d.afterChoice)

/-! ## Parts of the device -/

def Dev.wg? (d : Dev) (w : Nat) : Option WG := d.wgs.find? (fun g => g.id = w)

def Dev.putWg (d : Dev) (g : WG) : Dev := { d with wgs := d.wgs.map fun h => if h.id = g.id then g else h }

def Dev.modWg (d : Dev) (w : Nat) (f : WG → WG) : Dev :=
  { d with wgs := d.wgs.map fun h => if h.id = w then f h else h }

def WG.fib? (g : WG) (i : Nat) : Option Fib := g.fibs[i]?

def WG.modFib (g : WG) (i : Nat) (f : Fib → Fib) : WG := { g with fibs := modAt f g.fibs i }

def Dev.fib? (d : Dev) (w i : Nat) : Option Fib := (d.wg? w).bind (·.fib? i)

def Dev.modFib (d : Dev) (w i : Nat) (f : Fib → Fib) : Dev := d.modWg w (·.modFib i f)

def Dev.launch? (d : Dev) (l : Nat) : Option Launch := d.launches.find? (fun a => a.id = l)

def Dev.modLaunch (d : Dev) (l : Nat) (f : Launch → Launch) : Dev :=
  { d with launches := d.launches.map fun a => if a.id = l then f a else a }

def Dev.pass? (d : Dev) (p : Nat) : Option Pass := d.passes.find? (fun a => a.id = p)

def Dev.modPass (d : Dev) (p : Nat) (f : Pass → Pass) : Dev :=
  { d with passes := d.passes.map fun a => if a.id = p then f a else a }

def Dev.core (d : Dev) (c : Nat) : Core := Table.get {} d.cores c

def Dev.modCore (d : Dev) (c : Nat) (f : Core → Core) : Dev :=
  { d with cores := Table.set {} d.cores c (f (d.core c)) }

def Dev.op? (d : Dev) (o : Nat) : Option Op := d.ops.find? (fun p => p.id = o)

def Dev.modOp (d : Dev) (o : Nat) (f : Op → Op) : Dev :=
  { d with ops := d.ops.map fun p => if p.id = o then f p else p }

def Dev.dropOp (d : Dev) (o : Nat) : Dev := { d with ops := d.ops.filter fun p => p.id ≠ o }

def Dev.modHub (d : Dev) (f : Hub → Hub) : Dev := { d with hub := f d.hub }

/-- A new number for an operation, work-group, launch, packet or collection. -/
def Dev.takeId (d : Dev) : Nat × Dev := (d.nextId, { d with nextId := d.nextId + 1 })

/-- The event arbiter's stamp (R448). -/
def Dev.stamp (d : Dev) : Nat × Dev := (d.evSeq, { d with evSeq := d.evSeq + 1 })

/-! ## Bytes of the stores -/

def Dev.bytes (e : Env) (d : Dev) (k n : Nat) : List Byte := (List.range n).map fun i => d.byte e (k + i)

/-- DEDUCED, log 22. -/
def Dev.poisoned (d : Dev) (k n : Nat) : Bool :=
  d.poison.any fun p => decide (k ≤ p) && decide (p < k + n)

/-- What a write to a line brings on: a recheck of the fibres in `wait` on it (R199), and the signal unit for a queue parked on
it (R441). -/
def Dev.touch (d : Dev) (line : Nat) : Dev :=
  let hits (f : Fib) : Bool :=
    match f.wait with
    | .memw k _ _ _ _ => k = line
    | _ => false
  let mark (f : Fib) : Fib :=
    match f.wait with
    | .memw k l v _ i => if k = line then { f with wait := .memw k l v true i } else f
    | _ => f
  let d := if d.wgs.any (fun g => g.fibs.any hits) then
    { d with wgs := d.wgs.map fun g => { g with fibs := g.fibs.map mark } }
  else d
  let qs := d.queues.filter fun q => q.watched = some line
  if qs.isEmpty then d
  else { d with agenda := d.agenda ++ qs.map fun q => .ev .waitWatchRecheck q.q 0 0 [] }

/-- Bytes written at a store key: they replace poison (R478) and wake waiters. -/
def Dev.write (d : Dev) (k : Nat) (bs : List Byte) : Dev :=
  let n := bs.length
  let d := { d with
    wb := ((List.range n).zip bs).foldl (fun l p => (k + p.1, p.2) :: l) d.wb
    poison := d.poison.filter fun p => !(decide (k ≤ p) && decide (p < k + n)) }
  if n = 0 then d
  else
    let d := d.touch (k / 128)
    if (k + n - 1) / 128 = k / 128 then d else d.touch ((k + n - 1) / 128)

/-- A window of bytes becomes poison (R478). -/
def Dev.poisonAt (d : Dev) (k n : Nat) : Dev :=
  { d with poison := (upFrom k n).foldl (fun l a => insNat a l) d.poison }

def Dev.nat (e : Env) (d : Dev) (k n : Nat) : Nat := leNat (d.bytes e k n)

/-! ## Fibre registers -/

/-- A window word; zero beyond the window (every use is checked by R53 first). -/
def Fib.word (f : Fib) (n : Nat) : Word := f.win.getD n 0#32

/-- `n` words from `r` upward, the lowest least significant (R53). -/
def Fib.words (f : Fib) (r n : Nat) : List Word := (List.range n).map fun i => f.word (r + i)

def Fib.nat (f : Fib) (r n : Nat) : Nat := wordsNat (f.words r n)

/-- Words written from `r` upward and marked full; in handler mode the full/empty bits stand (R379). -/
def Fib.setWords (f : Fib) (r : Nat) (ws : List Word) : Fib :=
  let n := ws.length
  { f with
    win := ((List.range n).zip ws).foldl (fun l p => putAt p.2 l (r + p.1)) f.win
    emp := if f.hnd then f.emp else f.emp.filter fun k => !(decide (r ≤ k) && decide (k < r + n)) }

/-- Words marked empty (R65). In handler mode the bits stand. -/
def Fib.empty (f : Fib) (r n : Nat) : Fib :=
  if f.hnd then f else { f with emp := (upFrom r n).foldl (fun l k => insNat k l) f.emp }

/-- Words marked full. -/
def Fib.fill (f : Fib) (r n : Nat) : Fib :=
  { f with emp := f.emp.filter fun k => !(decide (r ≤ k) && decide (k < r + n)) }

/-- A predicate: p0 reads 1 (R56). -/
def Fib.pred (f : Fib) (p : Nat) : Bool := decide (p = 0) || f.preds.getLsbD p

/-- A predicate written: p0 discards it (R56). -/
def Fib.setPred (f : Fib) (p : Nat) (b : Bool) : Fib :=
  if p = 0 then f
  else
    let bit : Word := 1#32 <<< p
    { f with preds := if b then f.preds ||| bit else f.preds &&& ~~~bit }

def Fib.setPreds (f : Fib) (l : List (Nat × Bool)) : Fib := l.foldl (fun f p => f.setPred p.1 p.2) f

/-- A predicate is pending until its late write (R56); p0 never is. In handler mode the marks stand (R379). -/
def Fib.pendPred (f : Fib) (p : Nat) : Fib :=
  if f.hnd || p = 0 then f else { f with pend := insNat p f.pend }

/-- `%status` (R366). -/
def Fib.status (f : Fib) : Word :=
  BitVec.ofNat 32 (f.critn * 2 ^ 12 + (if f.hnd then 2 else 0) + if f.priv then 1 else 0)

/-! ## Uniform registers (R57, R58) -/

/-- The committed value an instruction of cc `now` reads. -/
def WG.kRead (g : WG) (now n : Nat) : Word := (if g.kcAt = now then g.kOld else g.k).getD n 0#32

/-- A write joins those of its cc: a register keeps the value of the highest-indexed writer (R36). -/
def addWrite (l : List KWrite) (w : KWrite) : List KWrite :=
  if l.any fun v => v.reg = w.reg && v.fib > w.fib then l else l ++ [w]

/-- The registers after the writes of a cc. -/
def foldWrites (rs : List Word) (l : List KWrite) : List Word := l.foldl (fun rs w => putAt w.val rs w.reg) rs

/-- The pending values with the writes of earlier cc folded in. -/
def WG.kFold (g : WG) (now : Nat) : WG :=
  if g.knAt = now then g
  else { g with kp := foldWrites g.kp g.kn, kn := [], knAt := now }

/-- `wk` of fibre `i` in cc `now`. -/
def WG.kWrite (g : WG) (now i n : Nat) (v : Word) : WG :=
  let g := g.kFold now
  { g with kn := addWrite g.kn { reg := n, fib := i, val := v } }

/-- The commit of a phase completed in cc `now`: a write of the same cc stays pending. -/
def WG.kCommit (g : WG) (now : Nat) : WG :=
  let g := g.kFold now
  { g with kOld := if g.kcAt = now then g.kOld else g.k, kcAt := now, k := g.kp }

/-! ## Vault and accumulator -/

/-- The members of a cohort: the work-group of a rank (R22, R106). -/
def Dev.member (d : Dev) (g : WG) (rank : Nat) : Option WG :=
  if rank = g.rank then some g
  else d.wgs.find? fun h => h.launch = g.launch && h.cohort = g.cohort && h.rank = rank && h.place ≠ .retired

def WG.vaultBytes (g : WG) (off n : Nat) : List Byte := (List.range n).map fun i => Table.get 0#8 g.vault (off + i)

def WG.vaultWrite (g : WG) (off : Nat) (bs : List Byte) : WG :=
  { g with vault := ((List.range bs.length).zip bs).foldl (fun t p => Table.set 0#8 t (off + p.1) p.2) g.vault,
           vbad := g.vbad.filter fun k => !(decide (off ≤ k) && decide (k < off + bs.length)) }

/-- Poisoned bytes of the vault. DEDUCED, log 22. -/
def WG.vaultBad (g : WG) (off n : Nat) : Bool := g.vbad.any fun k => decide (off ≤ k) && decide (k < off + n)

/-- The granule is full (R109). -/
def WG.granFull (g : WG) (n : Nat) : Bool := !g.empt.contains n

def WG.setFull (g : WG) (n : Nat) : WG := { g with empt := g.empt.filter (· ≠ n) }

def WG.setEmpty (g : WG) (n : Nat) : WG := { g with empt := insNat n g.empt }

/-- The key by which `wait` names a vault row (R199): apart from every store key. -/
def vaultRowKey (g : WG) (off : Nat) : Nat := 2 ^ 70 + g.id * 2 ^ 20 + off / 128

/-- A vault write performed at the bank: `wait`ers on its rows wake (R199). -/
def Dev.vaultWrite (d : Dev) (g : Nat) (off : Nat) (bs : List Byte) : Dev :=
  match d.wg? g with
  | none => d
  | some h =>
    let d := d.modWg g (·.vaultWrite off bs)
    if bs.length = 0 then d
    else (d.touch (vaultRowKey h off)).touch (vaultRowKey h (off + bs.length - 1))

/-- Element (m, n) of tile z, as bits (R110). -/
def WG.tileWord (g : WG) (z i : Nat) : Word := Table.get 0#32 g.tiles (1024 * z + i)

def WG.setTileWord (g : WG) (z i : Nat) (v : Word) : WG := { g with tiles := Table.set 0#32 g.tiles (1024 * z + i) v }

/-- Bytes of the byte view (R110). -/
def WG.tileBytes (g : WG) (off n : Nat) : List Byte :=
  (List.range n).map fun i =>
    let o := off + i
    BitVec.ofNat 8 ((Table.get 0#32 g.tiles (o / 4)).toNat / 256 ^ (o % 4))

def WG.tileWrite (g : WG) (off : Nat) (bs : List Byte) : WG :=
  { g with tiles := ((List.range bs.length).zip bs).foldl (fun t p =>
      let o := off + p.1
      let w := (Table.get 0#32 t (o / 4)).toNat
      let s := 256 ^ (o % 4)
      Table.set 0#32 t (o / 4) (BitVec.ofNat 32 (w - w / s % 256 * s + p.2.toNat * s))) g.tiles }

/-! ## Trap causes (R375) -/

def cIllegalEncoding : Nat := 0x01
def cIllegalOperand : Nat := 0x02
def cFeatureAbsent : Nat := 0x03
def cFeEmpty : Nat := 0x04
def cConvergent : Nat := 0x05
def cGangInvalid : Nat := 0x06
def cBarrier : Nat := 0x07
def cSpaceInvalid : Nat := 0x08
def cVaultRange : Nat := 0x09
def cMisaligned : Nat := 0x0A
def cAccessDenied : Nat := 0x0B
def cUnmapped : Nat := 0x0C
def cPageFatal : Nat := 0x0D
def cArith : Nat := 0x0E
def cBreak : Nat := 0x10
def cSoftware : Nat := 0x11
def cWatch : Nat := 0x12
def cUncorrectable : Nat := 0x20
def cTimeout : Nat := 0x21

/-- A pre-emption or a debugger halt of a work-group that is not yet stopping gives way to a trap halt (R215, R386). -/
def WG.trapHalt (g : WG) (now skid : Nat) (c : Cause) : WG :=
  { g with halt := .trap, haltAt := now, skidMax := skid, trap := some c, stopped := false,
           wantPreempt := g.wantPreempt || g.halt = .preempt }

/-- What a fibre issues now counts as skid: the work-group is stopping for a trap or the debugger (R377, R404). -/
def WG.skids (g : WG) : Bool := (g.halt = .trap && !g.handling) || g.halt = .debug

/-- The work-group is stopping: no fibre but those that skid may issue (R34, R377, R383). -/
def WG.stopping (g : WG) : Bool :=
  !g.stopped &&
  match g.halt with
  | .none => false
  | .trap => !g.handling
  | .debug => true
  | .preempt => g.fibs.all fun f => !f.live || f.critn = 0

/-- The fibre stops before its instruction: it holds the cause, and `%tcause`.PEND will be set (R376). -/
def WG.pendCause (g : WG) (i cause : Nat) : WG :=
  { g.modFib i (fun f => { f with pcause := cause }) with trapPend := true }

/-! ## Ending a work-group (R380 to R382) -/

/-- The 64 bytes of a trap record (R382). -/
def trapRecord (seq : Nat) (g : WG) (c : Cause) (tpc : Nat) (flags : Nat) : List Byte :=
  leBytes 8 seq ++ leBytes 2 (g.ctx.ctxid % 4096) ++ leBytes 2 g.core ++ leBytes 1 g.slot ++ leBytes 1 c.cause ++
  leBytes 1 flags ++ leBytes 1 0 ++ leBytes 8 (g.wid + c.fib) ++ leBytes 4 tpc ++ leBytes 4 c.fib ++
  leBytes 8 c.tval ++ leBytes 24 0

/-- Every fibre of the work-group is exited and holds nothing. -/
def WG.exitAll (g : WG) : WG :=
  { g with fibs := g.fibs.map fun f =>
      { f with live := false, unborn := false, wait := .none, cand := false, hnd := false, trav := none } }

/-- Posts the lane H record of a work-group that ends without resuming, and ends it: frozen entries are discarded, every
fibre is exited, and the launch counts it (R380, R437). A core whose 64 entries are taken holds it halted (R381). -/
def Dev.endWg (d : Dev) (w : Nat) (c : Cause) (flags : Nat) : Dev :=
  match d.wg? w with
  | none => d
  | some g =>
    if (d.core g.core).laneH ≥ 64 then
      d.modWg w fun g => { g with halt := .trap, stopped := true, frozen := true, ending := some (c, flags) }
    else
      -- `tret.kill` reports `%tpc`; every other end the PC of its fibre (R382)
      let tpc := if flags.testBit 2 then g.tpc.toNat
        else match g.fib? c.fib with
          | some f => f.pc.toNat % 2 ^ 32
          | none => 0
      let (n, d) := d.stamp
      let part := match d.launch? g.launch with
        | some l => l.part
        | none => 0
      let rec_ : LaneRec := { seq := n, core := g.core, part := part, ctx := g.ctx.ctxid, data := trapRecord n g c tpc flags }
      let d := { d with laneH := d.laneH ++ [rec_] }
      let d := d.modCore g.core fun k => { k with laneH := k.laneH + 1 }
      let mids := g.mops.map (·.id)
      let free (b : Option Nat) : Option Nat := b.filter fun i => !mids.contains i
      let tags := ((d.ops.filter fun o => o.wg = w && o.tag ≠ 0).map (·.tag)) ++ ((g.mops.filter fun o => o.tag ≠ 0).map (·.tag))
      let d := d.modCore g.core fun k =>
        { k with arrayBusy := free k.arrayBusy, accBusy := free k.accBusy, gathered := k.gathered ++ tags }
      let d := { d with ops := d.ops.filter fun o => o.wg ≠ w }
      let d := d.modWg w fun g =>
        { g.exitAll with halt := .none, stopped := false, frozen := false, handling := false, trap := none, mops := [],
                         asyncs := [], asyncsLater := [], ending := none, wantPreempt := false }
      d.modLaunch g.launch fun l =>
        { l with ntrap := l.ntrap + 1, detail := if l.ntrap = 0 then c.cause else l.detail }

/-! ## Raising a trap (R154, R169, R376) -/

/-- The trap that counts was raised in this cc by a fibre of a higher index (R376). -/
def WG.outranked (g : WG) (now i : Nat) : Bool :=
  match g.trap with
  | some t => g.haltAt = now && !t.async && i < t.fib
  | none => false

/-- The flags of an ARITH that no longer counts are taken back: its fibre stops with no effect (R376). -/
def WG.unflag (g : WG) (t : Cause) : WG :=
  if t.cause = cArith then g.modFib t.fib fun f => { f with fpflags := g.trapFl } else g

/-- A precise trap of a fibre at its instruction. In handler mode it is a double trap and ends the work-group (R379,
R380). Otherwise the work-group begins its trap halt, with this fibre as the trapping fibre; of traps raised in one cc the
lowest-indexed fibre's counts; a later one leaves its cause pending (R376). DEDUCED, log 17. -/
def Dev.raise (e : Env) (d : Dev) (w i cause tval : Nat) : Dev :=
  match d.wg? w with
  | none => d
  | some g =>
    match g.fib? i with
    | none => d
    | some f =>
      let c : Cause := { cause := cause, async := false, tval := tval, fib := i }
      if g.halt = .debug then d.modWg w fun g => g.pendCause i cause
      else if f.hnd then d.endWg w c 1
      else
        match g.trap with
        | none =>
          let (n, d) := d.choose 5
          d.modWg w fun g => g.trapHalt e.now n c
        | some t =>
          if g.outranked e.now i then
            d.modWg w fun g => { (g.pendCause t.fib t.cause).unflag t with trap := some c }
          else d.modWg w fun g => g.pendCause i cause

/-- A precise ARITH: the flags are ORed in and the trap is raised (R71). A fibre that only takes a pending cause stops before its
instruction with no effect (R376). -/
def Dev.arith (e : Env) (d : Dev) (w i : Nat) (fl : Fl) : Dev :=
  match d.wg? w with
  | none => d
  | some g =>
    let first := g.halt ≠ .debug && (g.trap.isNone || g.outranked e.now i)
    let d := d.raise e w i cArith fl.toNat
    if first then
      (d.modWg w fun h => { h with trapFl := ((g.fib? i).map (·.fpflags)).getD 0#6 }).modFib w i fun f =>
        { f with fpflags := f.fpflags ||| fl }
    else d

/-- An ASYNC cause is recorded; it is taken at the next instruction boundary of its fibre (R375). DEDUCED, log 18. -/
def Dev.async (d : Dev) (w i cause tval : Nat) : Dev :=
  d.modWg w fun g => { g with asyncs := g.asyncs ++ [{ cause := cause, async := true, tval := tval, fib := i }] }

/-- A fibre consumes poison: HW_UNCORRECTABLE, counted in ECCCNT.UE (R375, R478). -/
def Dev.consume (d : Dev) (w i tval : Nat) : Dev :=
  (d.async w i cUncorrectable tval).modHub fun h => { h with eccu := h.eccu + 1 }

/-! ## Handler entry and return (R370, R379) -/

/-- `%tcause` of a cause (R366). -/
def tcauseWord (c : Cause) (pend : Bool) : Word :=
  BitVec.ofNat 32 ((if c.async then 2 ^ 31 else 0) + (if pend then 2 ^ 30 else 0) + c.fib % 1024 * 2 ^ 8 + c.cause % 256)

/-- Handler entry: the trapping fibre takes PRIV = 1, HND = 1 and PC = TBASE (text offsets count from TBASE, so 0);
`%tcause`, `%tpc` and `%tval` are written; its window and predicates are unchanged (R379). ASYNC causes still pending wait for the
return. DEDUCED, log 19. -/
def takeTrap (g : WG) (c : Cause) : WG :=
  let pc := match g.fib? c.fib with
    | some f => f.pc
    | none => 0#64
  let g := g.modFib c.fib fun f =>
    { f with privBefore := f.priv, priv := true, hnd := true, pc := 0#64, wait := .none, stuck := false, cand := false }
  { g with tcause := tcauseWord c g.trapPend, tpc := pc.setWidth 32, tval := BitVec.ofNat 64 c.tval, handling := true,
           trapPend := false, asyncs := [], asyncsLater := g.asyncsLater ++ g.asyncs }

/-- The fibre that runs the handler. -/
def WG.trapper (g : WG) : Nat := g.tcause.toNat / 2 ^ 8 % 1024

/-- `tret` in modes 0 to 2: the trapping fibre continues at text offset `pc` with the privilege it had; HND and CRITN are
0; every other fibre resumes with SKID and PCAUSE cleared (R370). DEDUCED, log 19. -/
def returnTrap (g : WG) (pc : DWord) : WG :=
  let i := g.trapper
  let g : WG := { g with fibs := g.fibs.map fun f => { f with skid := 0, stuck := false, pcause := 0 } }
  let g := g.modFib i fun f =>
    { f with pc := pc, priv := f.privBefore, privBefore := false, hnd := false, critn := 0, wait := .none }
  { g with handling := false, trap := none, halt := .none, stopped := false, frozen := false, skidMax := 0,
           asyncs := g.asyncsLater ++ g.asyncs, asyncsLater := [] }

end Sys2Proof.Machine
end

