-- ==== Sys2Proof/Machine/Flags.lean ====
section
/-! DEFINITION. Floating-point flags and their commit (R69 to R71), and the result of an instruction that only computes. -/
namespace Sys2Proof.Machine

open Sys2Proof

/-- What a computing instruction writes: the destination words, predicates, and the flag set FL it raised. -/
structure FOut where
  d : List Word := []
  ps : List (Nat × Bool) := []
  fl : Fl := 0#6
  deriving DecidableEq, Repr

/-- One word. -/
def FOut.word (v : Nat) (fl : Fl := 0#6) : FOut := { d := [BitVec.ofNat 32 v], fl := fl }

/-- `n` words of a number. -/
def FOut.words (n v : Nat) (fl : Fl := 0#6) : FOut := { d := natWords n v, fl := fl }

/-- A flag of FL is enabled in `%fpen` (R71). DEDUCED, log 17. -/
def arithTraps (fpen fl : Fl) : Bool := fl &&& fpen ≠ 0#6

/-- FL joined to `%fpflags` (R70). -/
def Fib.orFlags (f : Fib) (fl : Fl) : Fib := { f with fpflags := f.fpflags ||| fl }

/-- Destinations and predicates written, flags joined. DEDUCED, log 17. -/
def Fib.commit (f : Fib) (d : Nat) (o : FOut) : Fib := ((f.setWords d o.d).setPreds o.ps).orFlags o.fl

end Sys2Proof.Machine
end

