-- ==== Sys2Proof/Machine/Operands.lean ====
section
/-! DEFINITION. Operand forms (R53, R146, R147), the checks of R154 at steps 3 to 8, and the issue of one rope. -/
namespace Sys2Proof.Machine

open Sys2Proof

/-! ## What the checks depend on (R154) -/

/-- The launch, mode and core facts that steps 3 to 6 read; alike for every fibre of a rope (R34). -/
structure Lv where
  w : Nat
  a : Nat
  v : Nat
  fcap : Nat
  fmt : List Word
  fpen : Fl
  kind : WKind
  priv : Bool
  hnd : Bool
  fsvc : Bool
  feature : Word
  members : Nat
  tsize : Nat

/-- Members of a cohort (R21). -/
def Record.members (r : Record) : Nat :=
  if r.coh = 0 then 1 else ((r.em1.drop 1).take r.coh).foldl (fun p e => p * (e + 1)) 1

/-- Size of the text that the fibre runs: the kernel's, or the handler's (R379). -/
def textSize (g : WG) (f : Fib) (l : Launch) : Nat := if f.hnd then g.ctx.tsize else l.r.tsize

def lvOf (d : Dev) (g : WG) (f : Fib) (l : Launch) : Lv where
  w := l.r.w
  a := l.r.a
  v := l.r.v
  fcap := l.r.fcap
  fmt := l.r.fmt
  fpen := l.r.fpen
  kind := g.kind
  priv := f.priv
  hnd := f.hnd
  fsvc := g.ctx.fsvc
  feature := (d.core g.core).feature
  members := l.r.members
  tsize := textSize g f l

def Lv.slot (l : Lv) (n : Nat) : Word := l.fmt.getD n 0#32

/-! ## Operand records -/

/-- Window words an operand covers, and the alignment of its first (R53). -/
structure Opd where
  n : Nat := 0
  al : Nat := 1
  deriving DecidableEq, Repr

/-- A word, pair or quad. -/
def opd (n : Nat) : Opd := { n := n, al := if n = 2 then 2 else if n = 4 then 4 else 1 }

/-- What an instruction's entry says of its operands and checks; the operation comes apart. -/
structure Ins where
  a : X → Opd := fun _ => {}
  b : X → Opd := fun _ => {}
  c : X → Opd := fun _ => {}
  d : X → Opd := fun _ => {}
  /-- A, B, C and D where a format slot fixes their extent (R220, R278). -/
  aL : Lv → X → Opd := fun _ x => a x
  bL : Lv → X → Opd := fun _ x => b x
  cL : Lv → X → Opd := fun _ x => c x
  dL : Lv → X → Opd := fun _ x => d x
  rp : X → List Nat := fun _ => []
  wp : X → List Nat := fun _ => []
  /-- The entry's own step-4 rule that depends on the launch (R278, R220). -/
  ok4 : Lv → X → Bool := fun _ _ => true
  feat : Lv → X → Word := fun _ _ => 0#32
  ok6 : Lv → X → Bool := fun _ _ => true
  priv : Bool := false
  /-- Allowed in handler mode (R379). -/
  inHandler : Bool := true
  /-- Reaches its operation whatever its guard (R40, R43). -/
  always : Bool := false
  /-- C is read whatever the guard: the member mask (R225). -/
  cAlways : Bool := false

/-- DEDUCED, log 16. -/
def Opd.ok (o : Opd) (r w : Nat) : Bool := o.n = 0 || (r % o.al = 0 && r + o.n ≤ w)

/-- The window bounds and alignment of step 6 (R53). -/
def Ins.opdsOk (n : Ins) (l : Lv) (x : X) : Bool :=
  (x.ak || (n.aL l x).ok x.a.toNat l.w) && (x.bi || x.bk || (n.bL l x).ok x.b.toNat l.w) && (n.cL l x).ok x.c.toNat l.w &&
  (n.dL l x).ok x.d.toNat l.w

/-- The outcome of steps 3 to 6 (R154): a cause with its `%tval`, or none. DEDUCED, log 15; DEDUCED, log 16. -/
def Ins.check (n : Ins) (l : Lv) (x : X) (w0 : Word) : Option (Nat × Nat) :=
  if n.priv && !l.priv then some (cAccessDenied, 0)
  else if !n.ok4 l x then some (cIllegalEncoding, w0.toNat)
  else
    let miss := n.feat l x &&& ~~~l.feature
    if miss ≠ 0#32 then some (cFeatureAbsent, miss.toNat)
    else if (l.hnd && !n.inHandler) || !n.opdsOk l x || !n.ok6 l x then some (cIllegalOperand, w0.toNat)
    else none

/-! ## Empties (R66, R67) -/

/-- What step 8 finds: the number of an empty word read under FE_EMPTY, or what the fibre waits for, or nothing. -/
inductive Gate where
  | pass
  | feEmpty (n : Nat)
  | wait (ws ps : List Nat)
  deriving DecidableEq, Repr

def emptyOf (f : Fib) (o : Opd) (r : Nat) : List Nat := (upFrom r o.n).filter fun k => f.emp.contains k

/-- Step 8. In handler mode nothing blocks (R379). A fibre whose guard is false reads no more than the member mask in C
(R148, R225). -/
def Ins.gate (n : Ins) (l : Lv) (guard : Bool) (f : Fib) (x : X) : Gate :=
  if f.hnd then .pass
  else
    let ea := if x.ak || !guard then [] else emptyOf f (n.aL l x) x.a.toNat
    let eb := if x.bi || x.bk || !guard then [] else emptyOf f (n.bL l x) x.b.toNat
    let ec := if guard || n.cAlways then emptyOf f (n.cL l x) x.c.toNat else []
    let ed := if guard then emptyOf f (n.dL l x) x.d.toNat else []
    let fe := (if x.fa then ea else []) ++ (if x.fb then eb else []) ++ if x.fc then ec else []
    match fe with
    | k :: _ => .feEmpty k
    | [] =>
      let ps := (if guard then n.rp x ++ n.wp x else []).filter fun p => f.pend.contains p
      let ws := ea ++ eb ++ ec ++ ed
      if ws.isEmpty && ps.isEmpty then .pass else .wait ws ps

/-! ## Operand values (R146) -/

/-- A k register as an operand of `n` words. DESIGN CHOICE, log 8. -/
def kVal (g : WG) (now k n : Nat) : Nat :=
  let v := g.kRead now k
  if n ≤ 1 then v.toNat else v.toNat + 2 ^ 32 * ((Config.kUpper k v).toNat % 2 ^ (32 * (n - 1)))

/-- Src(A), of `n` words. DESIGN CHOICE, log 8. -/
def srcA (now : Nat) (g : WG) (f : Fib) (x : X) (n : Nat) : Nat :=
  if x.ak then kVal g now (x.a.toNat % 64) n else f.nat x.a.toNat n

/-- The immediate of field B as an operand of `n` words: zero-extended in a compact form (R147), else sign-extended. -/
def immB (x : X) (n : Nat) : Nat :=
  if x.form = .cmp then x.b.toNat else bitsOf x.b.toInt (32 * n)

/-- Src(B), of `n` words; `mask` says that the literal is a member mask (R225). DESIGN CHOICE, log 8. -/
def srcB (now : Nat) (g : WG) (f : Fib) (x : X) (n : Nat) (mask : Bool := false) : Nat :=
  if x.bk then kVal g now (x.b.toNat % 64) n
  else if x.bi then
    if x.hasLit && !mask then x.lit.toNat % 2 ^ (32 * n) else immB x n
  else f.nat x.b.toNat n

/-- Src(C), of `n` words. -/
def srcC (f : Fib) (x : X) (n : Nat) : Nat := f.nat x.c.toNat n

/-! ## One fibre of a rope -/

/-- The instruction as one fibre executes it. -/
structure Cx where
  now : Nat
  x : X
  w0 : Word
  wg : Nat
  fi : Nat
  grp : Nat
  guard : Bool
  /-- The fibre before its issue counted. -/
  f0 : Fib

/-- The operation of an instruction for one fibre: step 9 of R154. -/
abbrev Body := Env → Cx → WG → Fib → Launch → Dev → Dev

/-- The fibre goes on at the next PC. -/
def Fib.advance (f : Fib) (now len : Nat) : Fib :=
  { f with pc := f.pc + BitVec.ofNat 64 len, readyAt := now + 1, wait := .none, tagGrp := 0 }

/-- The fibre goes on at a text offset. -/
def Fib.jump (f : Fib) (now : Nat) (pc : DWord) : Fib := { f with pc := pc, readyAt := now + 1, wait := .none }

/-- DESIGN CHOICE, log 14. -/
def Dev.advance (d : Dev) (cx : Cx) : Dev := d.modFib cx.wg cx.fi (·.advance cx.now cx.x.len)

/-- The counts of an issue taken back: a blocked or trapping instruction has not issued. -/
def Fib.unissue (f f0 : Fib) : Fib := { f with critn := f0.critn, skid := f0.skid }

/-- The fibre is blocked at its instruction. -/
def Dev.block (d : Dev) (cx : Cx) (w : Wait) : Dev :=
  d.modFib cx.wg cx.fi fun f => { f.unissue cx.f0 with wait := w, cand := false }

/-- The fibre is past its instruction and blocked. -/
def Dev.hold (d : Dev) (cx : Cx) (w : Wait) : Dev :=
  d.modFib cx.wg cx.fi fun f => { f.advance cx.now cx.x.len with wait := w, cand := false }

def Dev.trap (e : Env) (d : Dev) (cx : Cx) (cause tval : Nat) : Dev :=
  (d.modFib cx.wg cx.fi fun f => { f.unissue cx.f0 with tagGrp := 0 }).raise e cx.wg cx.fi cause tval

/-- ILLEGAL_OPERAND at step 9: `%tval` is word 0 (R375). -/
def Dev.illegal (e : Env) (d : Dev) (cx : Cx) : Dev := d.trap e cx cIllegalOperand cx.w0.toNat

/-- An issue counts against a critical region and the skid (R371, R377). -/
def Fib.issued (f : Fib) (halting : Bool) : Fib :=
  { f with started := true, critn := f.critn - 1, skid := if halting then f.skid + 1 else f.skid, cand := false }

/-- Steps 7 to 9 for one fibre. -/
def fibStep (n : Ins) (body : Body) (e : Env) (x : X) (w0 : Word) (grp : Nat) (d : Dev) (r : Nat × Nat) : Dev :=
  match d.wg? r.1 with
  | none => d
  | some g =>
    match g.fib? r.2, d.launch? g.launch with
    | some f, some l =>
      if !f.live then d
      else
        let pg := x.pg.toNat
        let cx (b : Bool) : Cx := { now := e.now, x := x, w0 := w0, wg := r.1, fi := r.2, grp := grp, guard := b, f0 := f }
        if f.pend.contains pg && !f.hnd then d.block (cx false) (.words [] [pg])
        else
          let b := f.pred pg != x.pn
          if !b && !n.always then
            (d.modFib r.1 r.2 (·.issued g.skids)).advance (cx false)
          else
            match n.gate (lvOf d g f l) b f x with
            | .feEmpty k => d.trap e (cx b) cFeEmpty k
            | .wait ws ps => d.block (cx b) (.words ws ps)
            | .pass =>
              let f := f.issued g.skids
              body e (cx b) (g.modFib r.2 fun _ => f) f l (d.modFib r.1 r.2 fun _ => f)
    | _, _ => d

/-- The lowest-indexed fibre of each work-group of the rope (R154). -/
def firsts : List (Nat × Nat) → List (Nat × Nat)
  | [] => []
  | (w, i) :: r => (w, i) :: (firsts r).filter (fun p => p.1 ≠ w)

/-- One rope executes an instruction: the checks alike for all its fibres, then each fibre in ascending rank (R36, R115,
R116, R154). DEDUCED, log 17. -/
def ropeStep (n : Ins) (body : Body) (i : Instr) (x : X) (e : Env) (d : Dev) : Dev :=
  match d.ropes with
  | [] => d
  | r :: rest =>
    let d := { d with ropes := rest }
    let (grp, d) := d.takeId
    let w0 := (encode i).headD 0#32
    match r.fibs with
    | [] => d
    | (w, k) :: _ =>
      match d.wg? w with
      | none => d
      | some g =>
        match g.fib? k, d.launch? g.launch with
        | some f, some l =>
          match n.check (lvOf d g f l) x w0 with
          | some (cause, tval) => (firsts r.fibs).foldl (fun d p => d.raise e p.1 p.2 cause tval) d
          | none => r.fibs.foldl (fibStep n body e x w0 grp) d
        | _, _ => d

/-- The meaning of a fibre instruction: the rope that stands first executes it. -/
def issue (n : Ins) (body : Body) (i : Instr) (x : X) (s : State) : Host.Outcome State Fault Refusal :=
  .next (onDev (ropeStep n body i x) s)

/-- The meaning of a step of a unit. -/
def event (f : Env → Dev → Dev) (s : State) : Host.Outcome State Fault Refusal := .next (onDev f s)

/-! ## Twins of the compact forms (R147) -/

/-- A twin with every field zero but the guard. -/
def twin (g : BitVec 2) (n : Bool) : X where
  form := .cmp
  pn := n
  pg := g.setWidth 5
  dx := 0#7
  d := 0#8
  bi := false
  bk := false
  ak := false
  fc := false
  fb := false
  fa := false
  c := 0#8
  b := 0#8
  a := 0#8
  m := 0#32
  lit := 0#64

def twinDA (g : BitVec 2) (n : Bool) (d a : BitVec 7) : X := { twin g n with d := d.setWidth 8, a := a.setWidth 8 }

def twinDAB (g : BitVec 2) (n : Bool) (d a : BitVec 7) (b : BitVec 6) : X :=
  { twin g n with d := d.setWidth 8, a := a.setWidth 8, b := b.setWidth 8 }

/-- With C = D (R151). -/
def twinDABC (g : BitVec 2) (n : Bool) (d a : BitVec 7) (b : BitVec 6) : X :=
  { twinDAB g n d a b with c := d.setWidth 8 }

def twinDAI (g : BitVec 2) (n : Bool) (d a : BitVec 7) (i : BitVec 6) : X :=
  { twin g n with d := d.setWidth 8, a := a.setWidth 8, b := i.setWidth 8, bi := true }

/-- With C = D (R151): `st`. -/
def twinDAIC (g : BitVec 2) (n : Bool) (d a : BitVec 7) (i : BitVec 6) : X :=
  { twinDAI g n d a i with c := d.setWidth 8 }

/-! ## Instructions that only compute -/

/-- The values such an instruction reads. -/
structure Vals where
  now : Nat
  lv : Lv
  g : WG
  f : Fib
  a : Nat
  b : Nat
  c : Nat

/-- An instruction that computes in one fibre (R165, R202): operand records and the result. -/
structure Alu extends Ins where
  ev : X → Vals → FOut

def aluBody (p : Alu) : Body := fun e cx g f l d =>
  let x := cx.x
  let v : Vals :=
    { now := e.now, lv := lvOf d g f l, g := g, f := f, a := srcA e.now g f x (p.aL (lvOf d g f l) x).n, b := srcB e.now g f x (p.bL (lvOf d g f l) x).n,
      c := srcC f x (p.c x).n }
  let o := p.ev x v
  if arithTraps l.r.fpen o.fl then
    (d.modFib cx.wg cx.fi (·.unissue cx.f0)).arith e cx.wg cx.fi o.fl
  else d.modFib cx.wg cx.fi fun f => (f.commit x.d.toNat o).advance cx.now x.len

/-- The meaning of a computing instruction. -/
def compute (p : Alu) (i : Instr) (x : X) (s : State) : Host.Outcome State Fault Refusal :=
  issue p.toIns (aluBody p) i x s

/-! ## Types (R150) -/

/-- TY is the default or one of the listed codes. -/
def tyIn (l : List Nat) (x : X) : Bool := x.ty = 0 || l.contains x.ty

/-- Width in bits of an integer or bit type code (R150). -/
def tyBits (t : Nat) : Nat :=
  match t with
  | 0x01 => 8 | 0x02 => 8 | 0x03 => 8
  | 0x04 => 16 | 0x05 => 16 | 0x06 => 16
  | 0x0A => 64 | 0x0B => 64 | 0x0C => 64
  | 0x0D => 128 | 0x0E => 128 | 0x0F => 128
  | 0x12 => 16 | 0x13 => 16
  | 0x14 => 8 | 0x15 => 8 | 0x16 => 4
  | _ => 32

/-- A signed integer code. -/
def tyS (t : Nat) : Bool := t = 0x01 || t = 0x04 || t = 0x07 || t = 0x0A || t = 0x0E

/-- An unsigned integer code `.z`. -/
def tyZ (t : Nat) : Bool := t = 0x02 || t = 0x05 || t = 0x08 || t = 0x0B || t = 0x0F

/-- Window words of an operand of a type: at least one. -/
def tyWords (t : Nat) : Nat := if tyBits t ≤ 32 then 1 else tyBits t / 32

end Sys2Proof.Machine
end

