-- ==== Sys2Proof/Machine/Integer.lean ====
section
/-! DEFINITION. Integer arithmetic, logic, shifts, bit fields, compares and selects (spec/07, R165 to R179). -/
namespace Sys2Proof.Machine

open Sys2Proof

/-! ## Typed values -/

/-- SInt for `.s` types, UInt for the others (R170). -/
def tyVal (t v : Nat) : Int := if tyS t then sNat (tyBits t) v else v

/-- `.s` and `.z` types accept `.sat` (R170). -/
def satSZ (t : Nat) : Bool := tyS t || tyZ t
def satS (t : Nat) : Bool := tyS t
def satNone (_ : Nat) : Bool := false

/-- The accepted types, and `.sat` only where the entry has it (R167). DEDUCED, log 15. -/
def okTy (tys : List Nat) (satOk : Nat → Bool) (dflt : Nat) (x : X) : Bool :=
  tyIn tys x && (!x.sat || satOk (x.tyOr dflt))

def tys32 : List Nat := [0x07, 0x08, 0x09]
def tys64 : List Nat := [0x07, 0x08, 0x09, 0x0A, 0x0B, 0x0C]
def tysSZ : List Nat := [0x07, 0x08, 0x0A, 0x0B]
def tysB : List Nat := [0x09, 0x0C]

/-- An operand of the width of TY. -/
def tOpd (dflt : Nat) (x : X) : Opd := opd (tyWords (x.tyOr dflt))

/-- The exact result narrowed: wrapped, or clamped with the SAT flag (R170). -/
def intOut (t : Nat) (sat : Bool) (r : Int) : FOut :=
  let y := narrowI (tyBits t) (tyS t) sat r
  FOut.words (tyWords t) y.1 y.2

/-- One source. -/
def int1 (tys : List Nat) (satOk : Nat → Bool) (fn : Int → Int) : Alu where
  a := tOpd 0x07
  d := tOpd 0x07
  ok6 := fun _ x => okTy tys satOk 0x07 x
  ev := fun x v => let t := x.tyOr 0x07; intOut t x.sat (fn (tyVal t v.a))

/-- Two sources. -/
def int2 (tys : List Nat) (satOk : Nat → Bool) (fn : Int → Int → Int) : Alu where
  a := tOpd 0x07
  b := tOpd 0x07
  d := tOpd 0x07
  ok6 := fun _ x => okTy tys satOk 0x07 x
  ev := fun x v => let t := x.tyOr 0x07; intOut t x.sat (fn (tyVal t v.a) (tyVal t v.b))

/-- Three sources. -/
def int3 (tys : List Nat) (satOk : Nat → Bool) (fn : Int → Int → Int → Int) : Alu where
  a := tOpd 0x07
  b := tOpd 0x07
  c := tOpd 0x07
  d := tOpd 0x07
  ok6 := fun _ x => okTy tys satOk 0x07 x
  ev := fun x v => let t := x.tyOr 0x07; intOut t x.sat (fn (tyVal t v.a) (tyVal t v.b) (tyVal t v.c))

/-! ## R170 -/

def aluIadd : Alu := int2 tys64 satSZ (· + ·)
def aluIsub : Alu := int2 tys64 satSZ (· - ·)
def aluImul : Alu := int2 tys32 satSZ (· * ·)
def aluImulh : Alu := int2 [0x07, 0x08] satNone (fun a b => a * b / (2 ^ 32 : Nat))
def aluImad : Alu := int3 tys32 satSZ (fun a b c => a * b + c)
def aluIsad : Alu := int3 [0x07, 0x08] satSZ (fun a b c => (a - b).natAbs + c)
def aluImin : Alu := int2 tysSZ satNone (fun a b => if b < a then b else a)
def aluImax : Alu := int2 tysSZ satNone (fun a b => if a < b then b else a)
def aluIabs : Alu := int1 [0x07, 0x0A] satS (fun a => a.natAbs)
def aluIneg : Alu := int1 [0x07, 0x0A, 0x09, 0x0C] satS (fun a => -a)

/-! ## R171, R172 -/

/-- The carry-in of `iaddc` and `isubb`. -/
def carryIn (x : X) (f : Fib) : Int := if f.pred x.c.toNat != x.mb 23 then 1 else 0

def carryAlu (fn : Int → Int → Int → Int) : Alu where
  a := tOpd 0x08
  b := tOpd 0x08
  d := tOpd 0x08
  rp := fun x => [x.c.toNat]
  wp := fun x => [x.dx.toNat]
  ok6 := fun _ x => okTy [0x08, 0x0B] satNone 0x08 x
  ev := fun x v =>
    let w := tyBits (x.tyOr 0x08)
    let s := fn v.a v.b (carryIn x v.f)
    { d := natWords (w / 32) (bitsOf s w), ps := [(x.dx.toNat, decide (s < 0 ∨ s ≥ (2 ^ w : Nat)))] }

def aluIaddc : Alu := carryAlu (fun a b c => a + b + c)
def aluIsubb : Alu := carryAlu (fun a b c => a - b - c)

def aluImadw : Alu where
  a := fun _ => opd 1
  b := fun _ => opd 1
  c := fun _ => opd 2
  d := fun _ => opd 2
  ok6 := fun _ x => okTy [0x07, 0x08] satSZ 0x07 x
  ev := fun x v =>
    let t := x.tyOr 0x07
    let c : Int := if tyS t then sNat 64 v.c else v.c
    let y := narrowI 64 (tyS t) x.sat (tyVal t v.a * tyVal t v.b + c)
    FOut.words 2 y.1 y.2

/-! ## R173 -/

/-- Bit i of the result is LUT[a_i + 2·b_i + 4·c_i]. -/
def lut3 (lut : Nat) (a b c : BitVec 64) : BitVec 64 :=
  (List.range 8).foldl (fun r j =>
    if lut.testBit j then
      r ||| ((if j.testBit 0 then a else ~~~a) &&& (if j.testBit 1 then b else ~~~b) &&& (if j.testBit 2 then c else ~~~c))
    else r) 0#64

def bitOut (t : Nat) (v : BitVec 64) : FOut := FOut.words (tyWords t) (v.toNat % 2 ^ tyBits t)

def logic2 (fn : BitVec 64 → BitVec 64 → BitVec 64) : Alu where
  a := tOpd 0x09
  b := tOpd 0x09
  d := tOpd 0x09
  ok6 := fun _ x => okTy tysB satNone 0x09 x
  ev := fun x v => bitOut (x.tyOr 0x09) (fn (BitVec.ofNat 64 v.a) (BitVec.ofNat 64 v.b))

def aluAnd : Alu := logic2 (· &&& ·)
def aluOr : Alu := logic2 (· ||| ·)
def aluXor : Alu := logic2 (· ^^^ ·)

def aluLop3 : Alu where
  a := tOpd 0x09
  b := tOpd 0x09
  c := tOpd 0x09
  d := tOpd 0x09
  ok6 := fun _ x => okTy tysB satNone 0x09 x
  ev := fun x v =>
    bitOut (x.tyOr 0x09) (lut3 (x.mf 30 23) (BitVec.ofNat 64 v.a) (BitVec.ofNat 64 v.b) (BitVec.ofNat 64 v.c))

/-! ## R174 -/

def shiftAlu (fn : Nat → Nat → Nat → Nat) : Alu where
  a := tOpd 0x09
  b := fun _ => opd 1
  d := tOpd 0x09
  ok6 := fun _ x => okTy tysB satNone 0x09 x
  ev := fun x v => let t := x.tyOr 0x09; FOut.words (tyWords t) (fn (tyBits t) v.a v.b)

def shlN (w a c : Nat) : Nat := if c ≥ w then 0 else a * 2 ^ c % 2 ^ w
def shrN (w a c : Nat) : Nat := if c ≥ w then 0 else a / 2 ^ c
def sarN (w a c : Nat) : Nat := bitsOf (sNat w a / (2 ^ (if c ≥ w then w else c) : Nat)) w
def rotN (w a c : Nat) : Nat := (a * 2 ^ (c % w) + a / 2 ^ (w - c % w)) % 2 ^ w

def aluShl : Alu := shiftAlu shlN
def aluShr : Alu := shiftAlu shrN
def aluSar : Alu := shiftAlu sarN
def aluRot : Alu := shiftAlu rotN

def aluFsh : Alu where
  a := fun _ => opd 1
  b := fun _ => opd 1
  c := fun _ => opd 1
  d := fun _ => opd 1
  ok6 := fun _ x => okTy [0x09] satNone 0x09 x
  ev := fun _ v => FOut.word ((v.c * 2 ^ 32 + v.a) / 2 ^ (v.b % 32) % 2 ^ 32)

/-! ## R175 to R177 -/

/-- pos and the clamped end of the field that B names. -/
def fieldPos (b : Nat) : Nat := b % 256
def fieldEnd (b : Nat) : Nat := min (b % 256 + b / 256 % 256) 32

def aluBfx : Alu where
  a := fun _ => opd 1
  b := fun _ => opd 1
  d := fun _ => opd 1
  ok6 := fun _ x => okTy [0x07, 0x08] satNone 0x07 x
  ev := fun x v =>
    let pos := fieldPos v.b
    let e := fieldEnd v.b
    let r : Int :=
      if pos ≥ 32 || e = pos then 0
      else
        let u := v.a / 2 ^ pos % 2 ^ (e - pos)
        if tyS (x.tyOr 0x07) then sNat (e - pos) u else u
    FOut.word (bitsOf r 32)

def aluBfi : Alu where
  a := fun _ => opd 1
  b := fun _ => opd 1
  c := fun _ => opd 1
  d := fun _ => opd 1
  ok6 := fun _ x => okTy [0x09] satNone 0x09 x
  ev := fun _ v =>
    let pos := fieldPos v.b
    let e := fieldEnd v.b
    if e ≤ pos then FOut.word v.c
    else
      let ones := 2 ^ (e - pos) - 1
      FOut.word (v.c - v.c / 2 ^ pos % 2 ^ (e - pos) * 2 ^ pos + v.a % (ones + 1) * 2 ^ pos)

/-- The number of set bits below `n`. -/
def popN (v n : Nat) : Nat := ((List.range n).filter fun i => v.testBit i).length

/-- `n` bits in the opposite order. -/
def revN (v n : Nat) : Nat := ((List.range n).filter fun i => v.testBit i).foldl (fun r i => r + 2 ^ (n - 1 - i)) 0

/-- Zero bits above the highest set bit of `w`. -/
def clzN (v w : Nat) : Nat := if v = 0 then w else w - 1 - Nat.log2 v

def bits1 (wide : Bool) (fn : Nat → Nat → Nat) : Alu where
  a := tOpd 0x09
  d := fun x => if wide then tOpd 0x09 x else opd 1
  ok6 := fun _ x => okTy tysB satNone 0x09 x
  ev := fun x v =>
    let t := x.tyOr 0x09
    FOut.words (if wide then tyWords t else 1) (fn v.a (tyBits t))

def aluPopc : Alu := bits1 false popN
def aluClz : Alu := bits1 false clzN
def aluBrev : Alu := bits1 true revN

/-- One byte program on the eight source bytes (R177). -/
def byteProgram (s g : Nat) : Nat :=
  let y := s / 256 ^ (g % 8) % 256
  let r := match g / 8 % 4 with
    | 0 => y
    | 1 => 0
    | 2 => if y.testBit 7 then 255 else 0
    | _ => if y.testBit 0 then 255 else 0
  if g.testBit 5 then revN r 8 else r

def aluPrmt : Alu where
  a := fun _ => opd 1
  b := fun _ => opd 1
  c := fun _ => opd 1
  d := fun _ => opd 1
  ok6 := fun _ x => okTy [0x09] satNone 0x09 x
  ev := fun _ v =>
    let s := v.c * 2 ^ 32 + v.a
    FOut.word ((List.range 4).foldl (fun r i => r + byteProgram s (v.b / 64 ^ i % 64) * 256 ^ i) 0)

/-! ## R178, R179 -/

/-- The relation that CMP names. -/
def cmpInt (c : Nat) (a b : Int) : Bool :=
  match c with
  | 0 => a = b
  | 1 => a ≠ b
  | 2 => a < b
  | 3 => a ≤ b
  | 4 => a > b
  | _ => a ≥ b

/-- BOP: the result combined with a predicate. -/
def bop (o : Nat) (t p : Bool) : Bool :=
  match o with
  | 0 => t
  | 1 => t && p
  | 2 => t || p
  | _ => t != p

/-- Predicate DX, and with WD the mask word D. -/
def cmpOut (x : X) (wd t : Bool) (fl : Fl) : FOut :=
  { d := if wd then [if t then 0xFFFFFFFF#32 else 0#32] else [], ps := [(x.dx.toNat, t)], fl := fl }

def aluIcmp : Alu where
  a := tOpd 0x07
  b := tOpd 0x07
  d := fun x => if x.mb 28 then opd 1 else {}
  rp := fun x => if x.mf 27 26 = 0 then [] else [x.c.toNat]
  wp := fun x => [x.dx.toNat]
  ok6 := fun _ x =>
    x.mf 25 23 ≤ 5 && !x.sat && (tyIn tysSZ x || (tysB.contains x.ty && x.mf 25 23 ≤ 1))
  ev := fun x v =>
    let t := x.tyOr 0x07
    cmpOut x (x.mb 28) (bop (x.mf 27 26) (cmpInt (x.mf 25 23) (tyVal t v.a) (tyVal t v.b)) (v.f.pred x.c.toNat)) 0#6

def aluIsel : Alu where
  a := tOpd 0x09
  b := tOpd 0x09
  d := tOpd 0x09
  rp := fun x => [x.c.toNat]
  ok6 := fun _ x => okTy tysB satNone 0x09 x
  ev := fun x v => FOut.words (tyWords (x.tyOr 0x09)) (if v.f.pred x.c.toNat then v.a else v.b)

/-! ## Meanings -/

/-- Compact `iadd` (R147). -/
def execIadd (g : BitVec 2) (n : Bool) (d a : BitVec 7) (b : BitVec 6) : State → Host.Outcome State Fault Refusal :=
  compute aluIadd (.iadd g n d a b) (twinDAB g n d a b)

def execIaddExtended (x : X) : State → Host.Outcome State Fault Refusal := compute aluIadd (.iaddExtended x) x

/-- Compact `isub` (R147). -/
def execIsub (g : BitVec 2) (n : Bool) (d a : BitVec 7) (b : BitVec 6) : State → Host.Outcome State Fault Refusal :=
  compute aluIsub (.isub g n d a b) (twinDAB g n d a b)

def execIsubExtended (x : X) : State → Host.Outcome State Fault Refusal := compute aluIsub (.isubExtended x) x

/-- Compact `imul` (R147). -/
def execImul (g : BitVec 2) (n : Bool) (d a : BitVec 7) (b : BitVec 6) : State → Host.Outcome State Fault Refusal :=
  compute aluImul (.imul g n d a b) (twinDAB g n d a b)

def execImulExtended (x : X) : State → Host.Outcome State Fault Refusal := compute aluImul (.imulExtended x) x

/-- Compact `imulh` (R147). -/
def execImulh (g : BitVec 2) (n : Bool) (d a : BitVec 7) (b : BitVec 6) : State → Host.Outcome State Fault Refusal :=
  compute aluImulh (.imulh g n d a b) (twinDAB g n d a b)

def execImulhExtended (x : X) : State → Host.Outcome State Fault Refusal := compute aluImulh (.imulhExtended x) x

/-- Compact `imad` (R147). -/
def execImad (g : BitVec 2) (n : Bool) (d a : BitVec 7) (b : BitVec 6) : State → Host.Outcome State Fault Refusal :=
  compute aluImad (.imad g n d a b) (twinDABC g n d a b)

def execImadExtended (x : X) : State → Host.Outcome State Fault Refusal := compute aluImad (.imadExtended x) x

/-- Compact `isad` (R147). -/
def execIsad (g : BitVec 2) (n : Bool) (d a : BitVec 7) (b : BitVec 6) : State → Host.Outcome State Fault Refusal :=
  compute aluIsad (.isad g n d a b) (twinDABC g n d a b)

def execIsadExtended (x : X) : State → Host.Outcome State Fault Refusal := compute aluIsad (.isadExtended x) x

/-- Compact `imin` (R147). -/
def execImin (g : BitVec 2) (n : Bool) (d a : BitVec 7) (b : BitVec 6) : State → Host.Outcome State Fault Refusal :=
  compute aluImin (.imin g n d a b) (twinDAB g n d a b)

def execIminExtended (x : X) : State → Host.Outcome State Fault Refusal := compute aluImin (.iminExtended x) x

/-- Compact `imax` (R147). -/
def execImax (g : BitVec 2) (n : Bool) (d a : BitVec 7) (b : BitVec 6) : State → Host.Outcome State Fault Refusal :=
  compute aluImax (.imax g n d a b) (twinDAB g n d a b)

def execImaxExtended (x : X) : State → Host.Outcome State Fault Refusal := compute aluImax (.imaxExtended x) x

/-- Compact `iabs` (R147). -/
def execIabs (g : BitVec 2) (n : Bool) (d a : BitVec 7) : State → Host.Outcome State Fault Refusal :=
  compute aluIabs (.iabs g n d a) (twinDA g n d a)

def execIabsExtended (x : X) : State → Host.Outcome State Fault Refusal := compute aluIabs (.iabsExtended x) x

/-- Compact `ineg` (R147). -/
def execIneg (g : BitVec 2) (n : Bool) (d a : BitVec 7) : State → Host.Outcome State Fault Refusal :=
  compute aluIneg (.ineg g n d a) (twinDA g n d a)

def execInegExtended (x : X) : State → Host.Outcome State Fault Refusal := compute aluIneg (.inegExtended x) x

/-- Compact `and` (R147). -/
def execAnd (g : BitVec 2) (n : Bool) (d a : BitVec 7) (b : BitVec 6) : State → Host.Outcome State Fault Refusal :=
  compute aluAnd (.and g n d a b) (twinDAB g n d a b)

def execAndExtended (x : X) : State → Host.Outcome State Fault Refusal := compute aluAnd (.andExtended x) x

/-- Compact `or` (R147). -/
def execOr (g : BitVec 2) (n : Bool) (d a : BitVec 7) (b : BitVec 6) : State → Host.Outcome State Fault Refusal :=
  compute aluOr (.or g n d a b) (twinDAB g n d a b)

def execOrExtended (x : X) : State → Host.Outcome State Fault Refusal := compute aluOr (.orExtended x) x

/-- Compact `xor` (R147). -/
def execXor (g : BitVec 2) (n : Bool) (d a : BitVec 7) (b : BitVec 6) : State → Host.Outcome State Fault Refusal :=
  compute aluXor (.xor g n d a b) (twinDAB g n d a b)

def execXorExtended (x : X) : State → Host.Outcome State Fault Refusal := compute aluXor (.xorExtended x) x

/-- Compact `shl` (R147). -/
def execShl (g : BitVec 2) (n : Bool) (d a : BitVec 7) (i : BitVec 6) : State → Host.Outcome State Fault Refusal :=
  compute aluShl (.shl g n d a i) (twinDAI g n d a i)

def execShlExtended (x : X) : State → Host.Outcome State Fault Refusal := compute aluShl (.shlExtended x) x

/-- Compact `shr` (R147). -/
def execShr (g : BitVec 2) (n : Bool) (d a : BitVec 7) (i : BitVec 6) : State → Host.Outcome State Fault Refusal :=
  compute aluShr (.shr g n d a i) (twinDAI g n d a i)

def execShrExtended (x : X) : State → Host.Outcome State Fault Refusal := compute aluShr (.shrExtended x) x

/-- Compact `sar` (R147). -/
def execSar (g : BitVec 2) (n : Bool) (d a : BitVec 7) (i : BitVec 6) : State → Host.Outcome State Fault Refusal :=
  compute aluSar (.sar g n d a i) (twinDAI g n d a i)

def execSarExtended (x : X) : State → Host.Outcome State Fault Refusal := compute aluSar (.sarExtended x) x

/-- Compact `rot` (R147). -/
def execRot (g : BitVec 2) (n : Bool) (d a : BitVec 7) (i : BitVec 6) : State → Host.Outcome State Fault Refusal :=
  compute aluRot (.rot g n d a i) (twinDAI g n d a i)

def execRotExtended (x : X) : State → Host.Outcome State Fault Refusal := compute aluRot (.rotExtended x) x

/-- Compact `bfx` (R147). -/
def execBfx (g : BitVec 2) (n : Bool) (d a : BitVec 7) (b : BitVec 6) : State → Host.Outcome State Fault Refusal :=
  compute aluBfx (.bfx g n d a b) (twinDAB g n d a b)

def execBfxExtended (x : X) : State → Host.Outcome State Fault Refusal := compute aluBfx (.bfxExtended x) x

/-- Compact `bfi` (R147). -/
def execBfi (g : BitVec 2) (n : Bool) (d a : BitVec 7) (b : BitVec 6) : State → Host.Outcome State Fault Refusal :=
  compute aluBfi (.bfi g n d a b) (twinDABC g n d a b)

def execBfiExtended (x : X) : State → Host.Outcome State Fault Refusal := compute aluBfi (.bfiExtended x) x

/-- Compact `popc` (R147). -/
def execPopc (g : BitVec 2) (n : Bool) (d a : BitVec 7) : State → Host.Outcome State Fault Refusal :=
  compute aluPopc (.popc g n d a) (twinDA g n d a)

def execPopcExtended (x : X) : State → Host.Outcome State Fault Refusal := compute aluPopc (.popcExtended x) x

/-- Compact `clz` (R147). -/
def execClz (g : BitVec 2) (n : Bool) (d a : BitVec 7) : State → Host.Outcome State Fault Refusal :=
  compute aluClz (.clz g n d a) (twinDA g n d a)

def execClzExtended (x : X) : State → Host.Outcome State Fault Refusal := compute aluClz (.clzExtended x) x

/-- Compact `brev` (R147). -/
def execBrev (g : BitVec 2) (n : Bool) (d a : BitVec 7) : State → Host.Outcome State Fault Refusal :=
  compute aluBrev (.brev g n d a) (twinDA g n d a)

def execBrevExtended (x : X) : State → Host.Outcome State Fault Refusal := compute aluBrev (.brevExtended x) x

/-- Compact `prmt` (R147). -/
def execPrmt (g : BitVec 2) (n : Bool) (d a : BitVec 7) (b : BitVec 6) : State → Host.Outcome State Fault Refusal :=
  compute aluPrmt (.prmt g n d a b) (twinDABC g n d a b)

def execPrmtExtended (x : X) : State → Host.Outcome State Fault Refusal := compute aluPrmt (.prmtExtended x) x

def execIaddc (x : X) : State → Host.Outcome State Fault Refusal := compute aluIaddc (.iaddc x) x

def execIsubb (x : X) : State → Host.Outcome State Fault Refusal := compute aluIsubb (.isubb x) x

def execImadw (x : X) : State → Host.Outcome State Fault Refusal := compute aluImadw (.imadw x) x

def execLop3 (x : X) : State → Host.Outcome State Fault Refusal := compute aluLop3 (.lop3 x) x

def execFsh (x : X) : State → Host.Outcome State Fault Refusal := compute aluFsh (.fsh x) x

def execIcmp (x : X) : State → Host.Outcome State Fault Refusal := compute aluIcmp (.icmp x) x

def execIsel (x : X) : State → Host.Outcome State Fault Refusal := compute aluIsel (.isel x) x

end Sys2Proof.Machine
end

