-- ==== Sys2Proof/Machine/Float.lean ====
section
/-! DEFINITION. Floating-point arithmetic, conversions, packed halves and dot products (spec/08, R203 to R224; spec/03, R90
to R92, R99, R100). -/
namespace Sys2Proof.Machine

open Sys2Proof

/-! ## Modifiers (R204) -/

/-- RND codes 0 to 4, and the listed types. DEDUCED, log 15. -/
def okF (tys : List Nat) (x : X) : Bool := tyIn tys x && x.rnd ≤ 4

/-- The rounding of the MOD word. -/
def rmOf (x : X) : Rm := { code := x.rnd }

/-- FVal(·, f32) (R164). -/
def f32V (v : Nat) : FV := fF32.val v

/-- The format of a floating-point type code (R150). -/
def tyF (t : Nat) : FFmt :=
  match t with
  | 0x11 => fF19
  | 0x12 => fF16
  | 0x13 => fBF16
  | 0x14 => fE4M3
  | 0x15 => fE5M2
  | 0x16 => fE2M1
  | _ => fF32

def fOut (r : Nat × Fl) : FOut := FOut.word r.1 r.2

/-- One FP32 source. -/
def fp1 (fn : X → Nat → Nat × Fl) : Alu where
  a := fun _ => opd 1
  d := fun _ => opd 1
  ok6 := fun _ x => okF [0x10] x
  ev := fun x v => fOut (fn x v.a)

/-- Two FP32 sources. -/
def fp2 (fn : X → Nat → Nat → Nat × Fl) : Alu where
  a := fun _ => opd 1
  b := fun _ => opd 1
  d := fun _ => opd 1
  ok6 := fun _ x => okF [0x10] x
  ev := fun x v => fOut (fn x v.a v.b)

/-! ## FP32 arithmetic (R205 to R208) -/

def aluFadd : Alu := fp2 fun x a b => fpAdd fF32 (rmOf x) x.sat (f32V a) (f32V b)
def aluFsub : Alu := fp2 fun x a b => fpSub fF32 (rmOf x) x.sat (f32V a) (f32V b)
def aluFmul : Alu := fp2 fun x a b => fpMul fF32 (rmOf x) x.sat (f32V a) (f32V b)

def aluFfma : Alu where
  a := fun _ => opd 1
  b := fun _ => opd 1
  c := fun _ => opd 1
  d := fun _ => opd 1
  ok6 := fun _ x => okF [0x10] x
  ev := fun x v => fOut (fpFma fF32 (rmOf x) x.sat (f32V v.a) (f32V v.b) (f32V v.c))

/-- a · 2^n. Beyond ±1,000 the exponent changes nothing: every result there overflows, or lies below half the least
subnormal. DEDUCED, log 45. -/
def fpScale (m : Rm) (sat : Bool) (a : FV) (n : Int) : Nat × Fl :=
  match a with
  | .nan s => (fF32.cnan, flIf s flNV)
  | .inf neg => infTo fF32 sat neg
  | .fin neg k e => roundQ fF32 m sat neg (Q.scale (if neg then -(k : Int) else k) (e + clampInt n (-1000) 1000))

/-- DEDUCED, log 45. -/
def aluFscale : Alu := fp2 fun x a b => fpScale (rmOf x) x.sat (f32V a) (sNat 32 b)

def aluFmin : Alu := fp2 fun _ a b => fpMinMax fF32 false a b
def aluFmax : Alu := fp2 fun _ a b => fpMinMax fF32 true a b

/-- Rounded to an integral value of the same sign; the only flag is NV of a signalling NaN (R208). -/
def fpRound (m : Rm) (a : Nat) : Nat × Fl :=
  match f32V a with
  | .nan s => (fF32.cnan, flIf s flNV)
  | .inf _ => (a, 0#6)
  | .fin neg k e =>
    if e ≥ 0 then (a, 0#6)
    else
      let i := (roundInt m (Q.scale (if neg then -(k : Int) else k) e)).1
      ((roundQ fF32 rne false neg (Q.ofInt i)).1, 0#6)

def aluFrnd : Alu := fp1 fun x a => fpRound (rmOf x) a

/-! ## Compares and classes (R209 to R211) -/

/-- The relation of a CMP code on two ordered values; -0 equals +0. -/
def fpRel (c : Nat) (a b : FV) : Bool :=
  let lt (u v : FV) : Bool := if u.isZero && v.isZero then false else fpLt u v
  let eq : Bool := !lt a b && !lt b a
  match c with
  | 0 => eq
  | 1 => !eq
  | 2 => lt a b
  | 3 => lt a b || eq
  | 4 => lt b a
  | _ => lt b a || eq

def fpCmp (c : Nat) (a b : FV) : Bool × Fl :=
  let un := a.isNaN || b.isNaN
  let sig := a.isSNaN || b.isSNaN
  if c ≤ 5 then (!un && fpRel c a b, flIf (sig || (un && decide (2 ≤ c))) flNV)
  else if c = 6 then (!un, flIf sig flNV)
  else if c = 7 then (un, flIf sig flNV)
  else (un || fpRel (c - 8) a b, flIf sig flNV)

def aluFcmp : Alu where
  a := fun _ => opd 1
  b := fun _ => opd 1
  d := fun x => if x.mb 28 then opd 1 else {}
  rp := fun x => if x.mf 30 29 = 0 then [] else [x.c.toNat]
  wp := fun x => [x.dx.toNat]
  ok6 := fun _ x => tyIn [0x10] x && x.mf 26 23 ≤ 13
  ev := fun x v =>
    let r := fpCmp (x.mf 26 23) (f32V v.a) (f32V v.b)
    cmpOut x (x.mb 28) (bop (x.mf 30 29) r.1 (v.f.pred x.c.toNat)) r.2

/-- The number of the class bit of R210. -/
def fpClass (a : Nat) : Nat :=
  match f32V a with
  | .nan s => if s then 0 else 1
  | .inf neg => if neg then 2 else 9
  | .fin neg m _ =>
    if m = 0 then (if neg then 5 else 6)
    else if m < 2 ^ 23 then (if neg then 4 else 7)
    else if neg then 3 else 8

def aluFclass : Alu where
  a := fun _ => opd 1
  b := fun x => if x.mb 23 then opd 1 else {}
  d := fun x => if x.mb 23 then {} else opd 1
  wp := fun x => if x.mb 23 then [x.dx.toNat] else []
  ev := fun x v =>
    let k := fpClass v.a
    if x.mb 23 then { ps := [(x.dx.toNat, v.b.testBit k)] } else FOut.word (2 ^ k)

/-- ⌊log₂|a|⌋ of a finite value that is not zero. -/
def fpExp (m : Nat) (e : Int) : Int := (Nat.log2 m : Int) + e

def aluFexp : Alu := fp1 fun _ a =>
  match f32V a with
  | .nan _ => (0x80000000, flNV)
  | .inf _ => (0x7FFFFFFF, flNV)
  | .fin _ m e => if m = 0 then (0x80000000, flNV) else (bitsOf (fpExp m e) 32, 0#6)

def aluFmant : Alu := fp1 fun _ a =>
  match f32V a with
  | .nan s => (fF32.cnan, flIf s flNV)
  | .inf _ => (a, 0#6)
  | .fin neg m e =>
    if m = 0 then (a, 0#6)
    else ((roundQ fF32 rne false neg (Q.scale (if neg then -(m : Int) else m) (e - fpExp m e))).1, 0#6)

/-! ## Packed halves (R216) -/

def half (v j : Nat) : Nat := v / 2 ^ (16 * j) % 2 ^ 16

/-- The two halves' results joined. -/
def halves (fn : Nat → Nat × Fl) : FOut :=
  let lo := fn 0
  let hi := fn 1
  FOut.word (lo.1 + 2 ^ 16 * hi.1) (lo.2 ||| hi.2)

def packed2 (fn : FFmt → X → Nat → Nat → Nat × Fl) : Alu where
  a := fun _ => opd 1
  b := fun _ => opd 1
  d := fun _ => opd 1
  ok6 := fun _ x => okF [0x12, 0x13] x
  ev := fun x v => halves fun j => fn (tyF (x.tyOr 0x12)) x (half v.a j) (half v.b j)

def aluHadd2 : Alu := packed2 fun f x a b => fpAdd f (rmOf x) x.sat (f.val a) (f.val b)
def aluHmul2 : Alu := packed2 fun f x a b => fpMul f (rmOf x) x.sat (f.val a) (f.val b)
def aluHmnx2 : Alu := packed2 fun f x a b => fpMinMax f (x.mb 23) a b

def packed3 (t : Nat) : Alu where
  a := fun _ => opd 1
  b := fun _ => opd 1
  c := fun _ => opd 1
  d := fun _ => opd 1
  ok6 := fun _ x => okF [t] x
  ev := fun x v => halves fun j =>
    fpFma (tyF t) (rmOf x) x.sat ((tyF t).val (half v.a j)) ((tyF t).val (half v.b j)) ((tyF t).val (half v.c j))

def aluHfma2 : Alu := packed3 0x12
def aluBfma2 : Alu := packed3 0x13

/-! ## Conversions (R217 to R219) -/

/-- Formats of DF and SF3. -/
def dfF (c : Nat) : FFmt := tyF (0x10 + c)

def aluIcvtf : Alu where
  a := tOpd 0x07
  d := fun _ => opd 1
  ok6 := fun _ x => okF tysSZ x && x.mf 25 23 ≤ 3
  ev := fun x v => fOut (roundQ (dfF (x.mf 25 23)) (rmOf x) x.sat false (Q.ofInt (tyVal (x.tyOr 0x07) v.a)))

def aluFcvti : Alu where
  a := fun _ => opd 1
  d := tOpd 0x07
  ok6 := fun _ x => okF [0x07, 0x08, 0x04, 0x05, 0x01, 0x02, 0x0A, 0x0B] x && x.mf 25 23 ≤ 3
  ev := fun x v =>
    let t := x.tyOr 0x07
    let f := dfF (x.mf 25 23)
    let r := cvtI (tyBits t) (tyS t) (rmOf x) false (f.val (v.a % 2 ^ (f.low + f.width)))
    FOut.words (tyWords t) (bitsOf r.1 (32 * tyWords t)) r.2

/-- SF, where 0 means FP32. -/
def X.sf (x : X) : Nat := if x.mf 27 23 = 0 then 0x10 else x.mf 27 23

def aluFcvt : Alu where
  a := fun _ => opd 1
  d := fun _ => opd 1
  ok6 := fun _ x => okF [0x10, 0x11, 0x12, 0x13, 0x14, 0x15, 0x16] x && 0x10 ≤ X.sf x && X.sf x ≤ 0x16
  ev := fun x v =>
    let s := tyF (X.sf x)
    fOut (cvtF (tyF (x.tyOr 0x10)) (rmOf x) x.sat (s.val (v.a % 2 ^ (s.low + s.width))))

/-! ## Format slots (R90, R91) -/

/-- The fields of a descriptor. -/
def slFmt (v : Word) : Nat := bitsN v.toNat 4 0
def slSgn (v : Word) : Bool := v.getLsbD 5
def slW (v : Word) : Nat := bitsN v.toNat 9 6 + 1
def slScale (v : Word) : Nat := bitsN v.toNat 11 10
def slRnd (v : Word) : Nat := bitsN v.toNat 14 12
def slSat (v : Word) : Bool := v.getLsbD 15
def slSparse (v : Word) : Nat := bitsN v.toNat 19 16
def slDprec (v : Word) : Nat := bitsN v.toNat 23 20

/-- The floating-point format of an FMT code. -/
def fmtF (c : Nat) : FFmt :=
  match c with
  | 1 => fF32
  | 2 => fF19
  | 3 => fF16
  | 4 => fBF16
  | 5 => fE4M3
  | 6 => fE5M2
  | 7 => fE2M1
  | 8 => fE2M3
  | _ => fE3M2

/-- An element format: floating point or an integer of a width. -/
inductive EFmt where
  | fp (f : FFmt)
  | int (w : Nat) (sgn : Bool)
  deriving DecidableEq, Repr

/-- The element format that a descriptor names. -/
def slE (v : Word) : EFmt := if slFmt v = 0x10 then .int (slW v) (slSgn v) else .fp (fmtF (slFmt v))

/-- Bits of an encoded element; an F19 element occupies its whole word. -/
def EFmt.bits : EFmt → Nat
  | .fp f => f.low + f.width
  | .int w _ => w

/-- The significand or integer width (R93). -/
def EFmt.sig : EFmt → Nat
  | .fp f => f.sig
  | .int w _ => w

/-- The conditions of R91 that hold for every use. DEDUCED, log 15. -/
def slotOk (v : Word) : Bool :=
  let f := slFmt v
  let int := f = 0x10
  ((1 ≤ f && f ≤ 9) || int) && slSparse v ≤ 3 && slScale v ≤ 2 && slRnd v ≤ 5 && bitsN v.toNat 31 24 = 0 &&
  (int || (!slSgn v && slW v = 1)) && slDprec v ≤ (slE v).sig

/-- And those of a conversion. -/
def slotConvOk (v : Word) : Bool := slotOk v && slSparse v = 0

/-- RoundTo of a value into an element format (R86, R87). -/
def EFmt.round (t : EFmt) (m : Rm) (sat : Bool) (v : FV) : Nat × Fl :=
  match t with
  | .fp f => cvtF f m sat v
  | .int w sgn => let r := cvtI w sgn m sat v; (bitsOf r.1 w, r.2)

/-! ## pack and unpk (R220 to R222) -/

/-- The narrow format. -/
def narrow (l : Lv) (x : X) : EFmt := if x.mb 31 then slE (l.slot x.slot) else .fp (fmtF (x.mf 27 23))

/-- Elements in a word. -/
def EFmt.count : EFmt → Nat
  | .fp f => if f.width = 4 then 8 else 4
  | .int w _ => 32 / w

/-- Random bits for each element. -/
def EFmt.random : EFmt → Nat
  | .fp f => if f.width = 4 then 4 else 8
  | .int w _ => min (32 / (32 / w)) 16

/-- Rounding and saturation of a `pack`. -/
def packRnd (l : Lv) (x : X) : Nat := if x.mb 31 then slRnd (l.slot x.slot) else x.rnd
def packSat (l : Lv) (x : X) : Bool := if x.mb 31 then slSat (l.slot x.slot) else x.sat

/-- The narrow formats allowed. -/
def narrowOk (l : Lv) (x : X) (codes : List Nat) (int : Bool) : Bool :=
  if x.mb 31 then
    let v := l.slot x.slot
    slotConvOk v && (codes.contains (slFmt v) || (int && slFmt v = 0x10))
  else codes.contains (x.mf 27 23)

/-- Consecutive words without an alignment. -/
def run (n : Nat) : Opd := { n := n, al := 1 }

/-- DEDUCED, log 16. -/
def aluPack : Alu where
  a := fun _ => run 4
  aL := fun l x => run (narrow l x).count
  b := fun _ => opd 1
  bL := fun l x => if packRnd l x = 5 then opd 1 else {}
  d := fun _ => opd 1
  ok4 := fun l x => !x.mb 31 || packRnd l x = 5 || (x.b = 0#8 && !x.bi && !x.bk && !x.fb)
  ok6 := fun l x => narrowOk l x [5, 6, 7, 8, 9] true && packRnd l x ≤ 5
  ev := fun x v =>
    let t := narrow v.lv x
    let n := t.random
    let el (j : Nat) : Nat × Fl :=
      t.round { code := packRnd v.lv x, bits := v.b / 2 ^ (n * j) % 2 ^ n, n := n } (packSat v.lv x)
        (f32V (v.a / 2 ^ (32 * j) % 2 ^ 32))
    let es := (List.range t.count).map el
    FOut.word (((List.range t.count).zip es).foldl (fun s p => s + p.2.1 * 2 ^ (t.bits * p.1)) 0)
      (es.foldl (fun s r => s ||| r.2) 0#6)

/-- Elements that `unpk` expands, and the words it writes. -/
def aluUnpk : Alu where
  a := fun _ => opd 1
  d := fun _ => opd 1
  dL := fun l x => opd ((narrow l x).count / 4)
  -- a slot whose RND is 5 supplies no random bits here (R85)
  ok6 := fun l x => narrowOk l x [7, 8, 9] false && (!x.mb 31 || slRnd (l.slot x.slot) ≠ 5)
  ev := fun x v =>
    match narrow v.lv x with
    | .int _ _ => {}
    | .fp f =>
      let n := (EFmt.fp f).count
      let el (j : Nat) : Nat := (cvtF fE4M3 rne false (f.val (v.a / 2 ^ (f.width * j) % 2 ^ f.width))).1
      FOut.words (n / 4) ((List.range n).foldl (fun s j => s + el j * 256 ^ j) 0)

/-! ## Dot products (R99, R100, R223, R224) -/

def aluFdot2 : Alu where
  a := fun _ => opd 1
  b := fun _ => opd 1
  c := fun _ => opd 1
  d := fun _ => opd 1
  ok6 := fun _ x => okF [0x12, 0x13] x
  ev := fun x v =>
    let f := tyF (x.tyOr 0x12)
    let h (u j : Nat) : FV := f.val (half u j)
    let p0 := mulTerm (h v.a 0) (h v.b 0)
    let p1 := mulTerm (h v.a 1) (h v.b 1)
    let c := f32V v.c
    let r := sumTo fF32 (rmOf x) x.sat [p0.1, p1.1, c.term]
    let sig := [h v.a 0, h v.a 1, h v.b 0, h v.b 1, c].any FV.isSNaN
    fOut (r.1, r.2 ||| flIf (p0.2 || p1.2 || sig) flNV)

def aluIdot4 : Alu where
  a := fun _ => opd 1
  b := fun _ => opd 1
  c := fun _ => opd 1
  d := fun _ => opd 1
  ev := fun x v =>
    let ua := x.mb 23
    let ub := x.mb 24
    let byt (u j : Nat) (uns : Bool) : Int := let k := u / 256 ^ j % 256; if uns then k else sNat 8 k
    let c : Int := if ua && ub then v.c else sNat 32 v.c
    let s := (List.range 4).foldl (fun s j => s + byt v.a j ua * byt v.b j ub) c
    fOut (narrowI 32 (!(ua && ub)) x.sat s)

/-! ## Meanings -/

/-- Compact `fadd` (R147). -/
def execFadd (g : BitVec 2) (n : Bool) (d a : BitVec 7) (b : BitVec 6) : State → Host.Outcome State Fault Refusal :=
  compute aluFadd (.fadd g n d a b) (twinDAB g n d a b)

def execFaddExtended (x : X) : State → Host.Outcome State Fault Refusal := compute aluFadd (.faddExtended x) x

/-- Compact `fsub` (R147). -/
def execFsub (g : BitVec 2) (n : Bool) (d a : BitVec 7) (b : BitVec 6) : State → Host.Outcome State Fault Refusal :=
  compute aluFsub (.fsub g n d a b) (twinDAB g n d a b)

def execFsubExtended (x : X) : State → Host.Outcome State Fault Refusal := compute aluFsub (.fsubExtended x) x

/-- Compact `fmul` (R147). -/
def execFmul (g : BitVec 2) (n : Bool) (d a : BitVec 7) (b : BitVec 6) : State → Host.Outcome State Fault Refusal :=
  compute aluFmul (.fmul g n d a b) (twinDAB g n d a b)

def execFmulExtended (x : X) : State → Host.Outcome State Fault Refusal := compute aluFmul (.fmulExtended x) x

/-- Compact `ffma` (R147). -/
def execFfma (g : BitVec 2) (n : Bool) (d a : BitVec 7) (b : BitVec 6) : State → Host.Outcome State Fault Refusal :=
  compute aluFfma (.ffma g n d a b) (twinDABC g n d a b)

def execFfmaExtended (x : X) : State → Host.Outcome State Fault Refusal := compute aluFfma (.ffmaExtended x) x

/-- Compact `fmin` (R147). -/
def execFmin (g : BitVec 2) (n : Bool) (d a : BitVec 7) (b : BitVec 6) : State → Host.Outcome State Fault Refusal :=
  compute aluFmin (.fmin g n d a b) (twinDAB g n d a b)

def execFminExtended (x : X) : State → Host.Outcome State Fault Refusal := compute aluFmin (.fminExtended x) x

/-- Compact `fmax` (R147). -/
def execFmax (g : BitVec 2) (n : Bool) (d a : BitVec 7) (b : BitVec 6) : State → Host.Outcome State Fault Refusal :=
  compute aluFmax (.fmax g n d a b) (twinDAB g n d a b)

def execFmaxExtended (x : X) : State → Host.Outcome State Fault Refusal := compute aluFmax (.fmaxExtended x) x

/-- Compact `fscale` (R147). -/
def execFscale (g : BitVec 2) (n : Bool) (d a : BitVec 7) (b : BitVec 6) : State → Host.Outcome State Fault Refusal :=
  compute aluFscale (.fscale g n d a b) (twinDAB g n d a b)

def execFscaleExtended (x : X) : State → Host.Outcome State Fault Refusal := compute aluFscale (.fscaleExtended x) x

/-- Compact `frnd` (R147). -/
def execFrnd (g : BitVec 2) (n : Bool) (d a : BitVec 7) : State → Host.Outcome State Fault Refusal :=
  compute aluFrnd (.frnd g n d a) (twinDA g n d a)

def execFrndExtended (x : X) : State → Host.Outcome State Fault Refusal := compute aluFrnd (.frndExtended x) x

/-- Compact `hadd2` (R147). -/
def execHadd2 (g : BitVec 2) (n : Bool) (d a : BitVec 7) (b : BitVec 6) : State → Host.Outcome State Fault Refusal :=
  compute aluHadd2 (.hadd2 g n d a b) (twinDAB g n d a b)

def execHadd2Extended (x : X) : State → Host.Outcome State Fault Refusal := compute aluHadd2 (.hadd2Extended x) x

/-- Compact `hmul2` (R147). -/
def execHmul2 (g : BitVec 2) (n : Bool) (d a : BitVec 7) (b : BitVec 6) : State → Host.Outcome State Fault Refusal :=
  compute aluHmul2 (.hmul2 g n d a b) (twinDAB g n d a b)

def execHmul2Extended (x : X) : State → Host.Outcome State Fault Refusal := compute aluHmul2 (.hmul2Extended x) x

/-- Compact `hfma2` (R147). -/
def execHfma2 (g : BitVec 2) (n : Bool) (d a : BitVec 7) (b : BitVec 6) : State → Host.Outcome State Fault Refusal :=
  compute aluHfma2 (.hfma2 g n d a b) (twinDABC g n d a b)

def execHfma2Extended (x : X) : State → Host.Outcome State Fault Refusal := compute aluHfma2 (.hfma2Extended x) x

/-- Compact `bfma2` (R147). -/
def execBfma2 (g : BitVec 2) (n : Bool) (d a : BitVec 7) (b : BitVec 6) : State → Host.Outcome State Fault Refusal :=
  compute aluBfma2 (.bfma2 g n d a b) (twinDABC g n d a b)

def execBfma2Extended (x : X) : State → Host.Outcome State Fault Refusal := compute aluBfma2 (.bfma2Extended x) x

/-- Compact `icvtf` (R147). -/
def execIcvtf (g : BitVec 2) (n : Bool) (d a : BitVec 7) : State → Host.Outcome State Fault Refusal :=
  compute aluIcvtf (.icvtf g n d a) (twinDA g n d a)

def execIcvtfExtended (x : X) : State → Host.Outcome State Fault Refusal := compute aluIcvtf (.icvtfExtended x) x

/-- Compact `fcvti` (R147). -/
def execFcvti (g : BitVec 2) (n : Bool) (d a : BitVec 7) : State → Host.Outcome State Fault Refusal :=
  compute aluFcvti (.fcvti g n d a) (twinDA g n d a)

def execFcvtiExtended (x : X) : State → Host.Outcome State Fault Refusal := compute aluFcvti (.fcvtiExtended x) x

/-- Compact `idot4` (R147). -/
def execIdot4 (g : BitVec 2) (n : Bool) (d a : BitVec 7) (b : BitVec 6) : State → Host.Outcome State Fault Refusal :=
  compute aluIdot4 (.idot4 g n d a b) (twinDABC g n d a b)

def execIdot4Extended (x : X) : State → Host.Outcome State Fault Refusal := compute aluIdot4 (.idot4Extended x) x

/-- Compact `fdot2` (R147). -/
def execFdot2 (g : BitVec 2) (n : Bool) (d a : BitVec 7) (b : BitVec 6) : State → Host.Outcome State Fault Refusal :=
  compute aluFdot2 (.fdot2 g n d a b) (twinDABC g n d a b)

def execFdot2Extended (x : X) : State → Host.Outcome State Fault Refusal := compute aluFdot2 (.fdot2Extended x) x

def execFcmp (x : X) : State → Host.Outcome State Fault Refusal := compute aluFcmp (.fcmp x) x

def execFclass (x : X) : State → Host.Outcome State Fault Refusal := compute aluFclass (.fclass x) x

def execFexp (x : X) : State → Host.Outcome State Fault Refusal := compute aluFexp (.fexp x) x

def execFmant (x : X) : State → Host.Outcome State Fault Refusal := compute aluFmant (.fmant x) x

def execHmnx2 (x : X) : State → Host.Outcome State Fault Refusal := compute aluHmnx2 (.hmnx2 x) x

def execFcvt (x : X) : State → Host.Outcome State Fault Refusal := compute aluFcvt (.fcvt x) x

def execUnpk (x : X) : State → Host.Outcome State Fault Refusal := compute aluUnpk (.unpk x) x

def execPack (x : X) : State → Host.Outcome State Fault Refusal := compute aluPack (.pack x) x

end Sys2Proof.Machine
end

