-- ==== Sys2Proof/Machine/Codec.lean ====
section
/-! DEFINITION. Compressed colour tiles (spec/12, R332, R333; spec/09, R261). -/
namespace Sys2Proof.Machine

open Sys2Proof

/-- Pixel 0, then each pixel from the one before it by its four fields of `k` bits. -/
def tilePixels (k stream : Nat) : Nat → Nat → List Nat → List Nat
  | 0, _, _ => []
  | n + 1, at_, q =>
    let delta (c : Nat) : Int := sNat k (stream / 2 ^ (at_ + k * c) % 2 ^ k)
    let p := (List.range 4).map fun c => bitsOf ((q.getD c 0 : Nat) + delta c) 8
    p ++ tilePixels k stream n (at_ + 4 * k) p

/-- A mode byte that names an encoded tile. -/
def tileCoded (mode : Nat) : Bool := decide (0x11 ≤ mode) && decide (mode ≤ 0x16)

/-- The 256 bytes that a tile's mode byte stands for: the clear colour, the decoded pixels, or the bytes as they are. -/
def decodeTile (mode : Nat) (bs : List Byte) (clear : List Byte) : List Byte :=
  if mode = 0 then (List.replicate 64 clear).flatten
  else if tileCoded mode then
    let p0 := (bs.take 4).map (·.toNat)
    (p0 ++ tilePixels (mode % 16) (leNat (bs.drop 4)) 63 0 p0).map fun v => BitVec.ofNat 8 v
  else bs

/-- The differences of a tile, pixel by pixel and channel by channel, from -128 to 127. -/
def tileDeltas (bs : List Byte) : List Int :=
  (List.range 252).map fun i => sNat 8 (256 + (bs.getD (i + 4) 0#8).toNat - (bs.getD i 0#8).toNat)

/-- The encoding with the least k, else raw: the mode byte and the bytes (R333). -/
def encodeTile (bs : List Byte) : Nat × List Byte :=
  let ds := tileDeltas bs
  let fits (k : Nat) : Bool := ds.all fun v => decide (-(2 ^ (k - 1) : Nat) ≤ v) && decide (v < (2 ^ (k - 1) : Nat))
  match (upFrom 1 6).find? fits with
  | some k =>
    let stream := ((List.range 252).zip ds).foldl (fun s p => s + bitsOf p.2 k * 2 ^ (k * p.1)) 0
    (16 + k, bs.take 4 ++ leBytes 252 stream)
  | none => (0xF8, bs)

end Sys2Proof.Machine
end

