-- ==== Sys2Proof/Machine/Moves.lean ====
section
/-! DEFINITION. Moves, uniform and special registers, pointers and predicates (spec/07, R180 to R188; spec/02, R63, R72). -/
namespace Sys2Proof.Machine

open Sys2Proof

/-! ## Moves (R180 to R182, R184) -/

def aluMov : Alu where
  a := tOpd 0x09
  d := tOpd 0x09
  ok6 := fun _ x => okTy [0x09, 0x0C, 0x0D] satNone 0x09 x
  ev := fun x v => FOut.words (tyWords (x.tyOr 0x09)) v.a

def aluMovi : Alu where
  d := tOpd 0x09
  b := tOpd 0x09
  ok6 := fun _ x => okTy tysB satNone 0x09 x
  ev := fun x v => FOut.words (tyWords (x.tyOr 0x09)) v.b

def aluMovk : Alu where
  b := fun _ => opd 1
  d := fun _ => opd 1
  ev := fun _ v => FOut.word v.b

def insWk : Ins where
  a := fun _ => opd 1

def bodyWk : Body := fun e cx g f _ d =>
  (d.modWg cx.wg (·.kWrite e.now cx.fi (cx.x.d.toNat % 64) (BitVec.ofNat 32 (srcA e.now g f cx.x 1)))).advance cx

/-! ## Special registers (R63) -/

/-- The listed selectors, with their width in words. -/
def selWords (s : Nat) : Nat :=
  if s = 0x01 || s = 0x10 then 2
  else if s = 0x00 || (0x02 ≤ s && s ≤ 0x0D) || s = 0x11 || (0x20 ≤ s && s ≤ 0x27) || s = 0x30 || s = 0x31 then 1
  else 0

/-- Squad, quadrant of a fibre index (R13, R15). -/
def squadOf (i : Nat) : Nat := i / 32
def quadOf (i : Nat) : Nat := squadOf i % 4

/-- The value of a special register. -/
def special (e : Env) (g : WG) (f : Fib) (l : Launch) (k : Core) (i s : Nat) : Nat :=
  match s with
  | 0x00 => i
  | 0x01 => g.wid + i
  | 0x02 => squadOf i
  | 0x03 => f.lane
  | 0x04 => quadOf i
  | 0x05 => g.slot
  | 0x06 => g.core
  | 0x07 => g.core / 256
  | 0x08 => g.rank
  | 0x09 => l.dev
  | 0x0A => l.gen
  | 0x0B => l.r.fcap
  | 0x0C => l.r.w
  | 0x0D => if f.priv then 1 else 0
  | 0x10 => e.now
  | 0x11 => k.feature.toNat
  | 0x30 => f.fpflags.toNat
  | 0x31 => l.r.fpen.toNat
  | n => (l.r.fmt.getD (n - 0x20) 0#32).toNat

/-- The selector of a `movs` (R183). -/
def X.sel (x : X) : Nat := x.mf 30 23

def insMovs : Ins where
  a := fun x => if x.mb 31 then opd 1 else {}
  d := fun x => if x.mb 31 then {} else opd (selWords (X.sel x))
  ok6 := fun _ x => if x.mb 31 then X.sel x = 0x30 else selWords (X.sel x) ≠ 0

/-- A special-function result of the fibre is pending (R72). -/
def Dev.sfuPending (d : Dev) (w i : Nat) : Bool := d.ops.any fun o => o.wg = w && o.fib = i && o.kind = .sfu && !o.discard

def bodyMovs : Body := fun e cx g f l d =>
  let s := X.sel cx.x
  if s = 0x30 && d.sfuPending cx.wg cx.fi then d.block cx .sfu
  else if cx.x.mb 31 then
    (d.modFib cx.wg cx.fi fun h => { h with fpflags := BitVec.ofNat 6 (srcA e.now g f cx.x 1) }).advance cx
  else
    let v := special e g f l (d.core g.core) cx.fi s
    (d.modFib cx.wg cx.fi (·.setWords cx.x.d.toNat (natWords (selWords s) v))).advance cx

/-! ## Pointers (R101, R185 to R187) -/

/-- SPACE and ADDR of a tagged pointer (R101). -/
def ptrSpace (p : Nat) : Nat := p / 2 ^ 60 % 16
def ptrAddr (p : Nat) : Nat := p % 2 ^ 60

/-- `lea`'s sum: SPACE never changes (R185). -/
def ptrAdd (p : Nat) (off : Int) : Nat := ptrSpace p * 2 ^ 60 + bitsOf ((ptrAddr p : Int) + off) 60

def aluLea : Alu where
  a := fun _ => opd 2
  b := fun _ => opd 1
  d := fun _ => opd 2
  ok6 := fun _ x => x.mf 25 23 ≤ 4
  ev := fun x v =>
    let off : Int := if x.mb 26 then v.b else sNat 32 v.b
    FOut.words 2 (ptrAdd v.a (off * (2 ^ x.mf 25 23 : Nat)))

def aluPtag : Alu where
  a := fun _ => opd 2
  b := fun _ => opd 1
  d := fun _ => opd 2
  ok6 := fun _ x => x.mf 24 23 ≤ 1
  ev := fun x v =>
    FOut.words 2 (if x.mf 24 23 = 0 then v.b % 16 * 2 ^ 60 + v.a % 2 ^ 60
      else v.a / 2 ^ 60 * 2 ^ 60 + v.b % 256 * 2 ^ 52 + v.a % 2 ^ 52)

/-- The zero and sign conditions of R102 on a pointer's bits. -/
def ptrShape (p : Nat) : Bool :=
  match ptrSpace p with
  | 0 => p / 2 ^ 56 % 16 = 0 || p / 2 ^ 56 % 16 = 15
  | 1 => p / 2 ^ 22 % 2 ^ 30 = 0
  | 2 => p / 2 ^ 21 % 2 ^ 39 = 0
  | 3 => p / 2 ^ 32 % 2 ^ 28 = 0
  | 4 => p / 2 ^ 32 % 2 ^ 28 = 0
  | _ => false

def aluPspace : Alu where
  a := fun _ => opd 2
  d := fun _ => opd 1
  wp := fun x => [x.dx.toNat]
  ok6 := fun _ x => x.mf 24 23 ≤ 1
  ev := fun x v =>
    { d := [BitVec.ofNat 32 (if x.mf 24 23 = 0 then ptrSpace v.a else v.a / 2 ^ 52 % 256)]
      ps := [(x.dx.toNat, ptrShape v.a)] }

/-! ## Predicates (R188) -/

def aluPlop3 : Alu where
  rp := fun x => [x.a.toNat, x.b.toNat, x.c.toNat]
  wp := fun x => [x.dx.toNat]
  ev := fun x v =>
    let n (p : BitVec 8) : Nat := if v.f.pred p.toNat then 1 else 0
    { ps := [(x.dx.toNat, (x.mf 30 23).testBit (n x.a + 2 * n x.b + 4 * n x.c))] }

def aluPmov : Alu where
  rp := fun x => [x.a.toNat]
  wp := fun x => [x.dx.toNat]
  ev := fun x v => { ps := [(x.dx.toNat, v.f.pred x.a.toNat != x.mb 23)] }

def aluPgetb : Alu where
  d := fun _ => opd 1
  rp := fun _ => upFrom 1 31
  ev := fun _ v => FOut.word ((v.f.preds ||| 1#32).toNat)

def insPsetb : Ins where
  a := fun _ => opd 1
  b := fun _ => opd 1

/-- Each predicate of the mask is written; a pending one is waited for (R56). -/
def bodyPsetb : Body := fun e cx g f _ d =>
  let a := srcA e.now g f cx.x 1
  let b := srcB e.now g f cx.x 1
  let ps := (upFrom 1 31).filter fun i => b.testBit i
  let wait := ps.filter fun p => f.pend.contains p
  if !wait.isEmpty && !f.hnd then d.block cx (.words [] wait)
  else (d.modFib cx.wg cx.fi (·.setPreds (ps.map fun i => (i, a.testBit i)))).advance cx

/-! ## Meanings -/

/-- Compact `mov` (R147). -/
def execMov (g : BitVec 2) (n : Bool) (d a : BitVec 7) : State → Host.Outcome State Fault Refusal :=
  compute aluMov (.mov g n d a) (twinDA g n d a)

def execMovExtended (x : X) : State → Host.Outcome State Fault Refusal := compute aluMov (.movExtended x) x

/-- Compact `movi`: an unsigned immediate (R181). -/
def execMovi (g : BitVec 2) (n : Bool) (d : BitVec 7) (i : BitVec 6) : State → Host.Outcome State Fault Refusal :=
  compute aluMovi (.movi g n d i) (twinDAI g n d 0#7 i)

def execMoviExtended (x : X) : State → Host.Outcome State Fault Refusal := compute aluMovi (.moviExtended x) x

/-- Compact `movk`: n is B6 (R182). -/
def execMovk (g : BitVec 2) (n : Bool) (d : BitVec 7) (k : BitVec 6) : State → Host.Outcome State Fault Refusal :=
  compute aluMovk (.movk g n d k) { twinDA g n d 0#7 with b := k.setWidth 8, bk := true }

def execMovkExtended (x : X) : State → Host.Outcome State Fault Refusal := compute aluMovk (.movkExtended x) x

/-- Compact `movs`: SEL is B6 (R183). -/
def execMovs (g : BitVec 2) (n : Bool) (d : BitVec 7) (s : BitVec 6) : State → Host.Outcome State Fault Refusal :=
  issue insMovs bodyMovs (.movs g n d s) { twinDA g n d 0#7 with m := s.setWidth 32 <<< 23 }

def execMovsExtended (x : X) : State → Host.Outcome State Fault Refusal := issue insMovs bodyMovs (.movsExtended x) x

/-- Compact `wk`: n is D[5:0] (R184). -/
def execWk (g : BitVec 2) (n : Bool) (k : BitVec 6) (a : BitVec 7) : State → Host.Outcome State Fault Refusal :=
  issue insWk bodyWk (.wk g n k a) { twin g n with d := k.setWidth 8, a := a.setWidth 8 }

def execWkExtended (x : X) : State → Host.Outcome State Fault Refusal := issue insWk bodyWk (.wkExtended x) x

/-- Compact `lea` (R147). -/
def execLea (g : BitVec 2) (n : Bool) (d a : BitVec 7) (b : BitVec 6) : State → Host.Outcome State Fault Refusal :=
  compute aluLea (.lea g n d a b) (twinDAB g n d a b)

def execLeaExtended (x : X) : State → Host.Outcome State Fault Refusal := compute aluLea (.leaExtended x) x

def execPtag (x : X) : State → Host.Outcome State Fault Refusal := compute aluPtag (.ptag x) x

def execPspace (x : X) : State → Host.Outcome State Fault Refusal := compute aluPspace (.pspace x) x

def execPlop3 (x : X) : State → Host.Outcome State Fault Refusal := compute aluPlop3 (.plop3 x) x

def execPmov (x : X) : State → Host.Outcome State Fault Refusal := compute aluPmov (.pmov x) x

def execPgetb (x : X) : State → Host.Outcome State Fault Refusal := compute aluPgetb (.pgetb x) x

def execPsetb (x : X) : State → Host.Outcome State Fault Refusal := issue insPsetb bodyPsetb (.psetb x) x

end Sys2Proof.Machine
end

