-- ==== Sys2Proof/Machine/Translate.lean ====
section
/-! DEFINITION. Range registers, the page-table walk, the L2's lines, the page cache, fault episodes and the Scree log
(spec/18, R407 to R420; spec/20, R455, R456, R463). -/
namespace Sys2Proof.Machine

open Sys2Proof

/-! ## Virtual and intermediate addresses (R102, R407, R408) -/

/-- The 57 significant bits of a virtual address. -/
def va57 (v : Nat) : Nat := v % 2 ^ 57

/-- The 64-bit form of a virtual address, sign-extended from bit 56. -/
def vaWide (v : Nat) : Nat := bitsOf (sNat 57 v) 64

/-- The lowest-indexed enabled range that holds `v`. -/
def rangeLookup (rs : List Range) (v : Nat) : Option Nat :=
  match rs.find? fun r => r.on && decide (r.vbase ≤ va57 v) && decide (va57 v < r.vbase + r.vsize) with
  | some r => some (r.iabase + (va57 v - r.vbase))
  | none => none

/-- The direct window (R409). -/
def isDirect (ia : Nat) : Bool := ia / 2 ^ 44 = 0xFF

/-- The installed capacity of second-tier port `p` in bytes: none while its link is down (R463, R482).
DEDUCED, log 44. -/
def Dev.portCap (d : Dev) (p : Nat) : Nat :=
  if d.hub.cxlup.getD p false then d.hub.cxlcap.getD p 0 else 0

/-- `n` bytes at address `a` of store `kind` exist. DEDUCED, log 44. -/
def Dev.installed (d : Dev) (kind a n : Nat) : Bool :=
  match kind with
  | 0 => a + n ≤ gddrSize
  | 1 => a / 2 ^ 42 = 0 && a % 2 ^ 40 + n ≤ d.portCap (a / 2 ^ 40)
  | 2 => a + n ≤ 2 ^ 52
  | _ => false

/-- The store key of a direct-window address, if any. DEDUCED, log 44. -/
def Dev.directKey (d : Dev) (ia n : Nat) : Option Nat :=
  let kind := ia / 2 ^ 42 % 4
  let a := ia % 2 ^ 42
  if d.installed kind a n then some (storeKey kind a) else none

/-- Route, rank and size of the launch domain (R456, R466). -/
def Hub.rank (h : Hub) : Nat := bitsN h.domcfg.toNat 6 0
def Hub.maxRank (h : Hub) : Nat := bitsN h.domcfg.toNat 14 8
def Hub.peerOn (h : Hub) : Bool := h.peercfg.getLsbD 8
def Hub.routeMask (h : Hub) (r : Nat) : Nat := (h.peerrt.getD (r / 8) 0#64).toNat / 256 ^ (r % 8) % 256

/-- The lowest-numbered link that is up and set in the route entry for a rank (R466). -/
def Dev.routeLink (d : Dev) (r : Nat) : Option Nat :=
  (List.range 8).find? fun i => (d.hub.routeMask r).testBit i && (d.links.getD i {}).up

/-- The store key of a LOC 2 page's byte: the host's address, or peer memory (R456). -/
def Dev.loc2Key (d : Dev) (a : Nat) : Option Nat :=
  if d.hub.peerOn && a / 2 ^ 51 % 2 = 1 then
    let rank := a / 2 ^ 44 % 128
    let kind := a / 2 ^ 42 % 4
    if kind ≥ 2 then none
    else if rank = d.hub.rank then (if d.installed kind (a % 2 ^ 42) 1 then some (storeKey kind (a % 2 ^ 42)) else none)
    else if rank > d.hub.maxRank || (d.routeLink rank).isNone then none
    else some (storeKey 3 (a % 2 ^ 51))
  else some (storeKey 2 a)

/-! ## Lines that agents outside the module hold (R457, R458) -/

def Dev.dirEnt (d : Dev) (line : Nat) : DirEnt := Table.get {} d.dir line

/-- The home must recall the line from an agent before the module's own access: it is owned outside, or shared outside and
written; a line in recovery holds every request (R460). -/
def DirEnt.recalls (en : DirEnt) (wr : Bool) : Bool :=
  en.st = 3 || (en.st = 2 && en.own ≠ 0) || (wr && en.st = 1 && (en.hs ≠ 0 || en.pv ≠ 0))

/-- `len` bytes that the spec gives no value. DESIGN CHOICE, log 9. -/
def hdrBytes (n len : Nat) : List Byte := (List.range len).map fun i => Config.deviceByte (n + i)

/-- Bytes of one line at its home, as a recall finds them: those of an owner outside are its own. DESIGN CHOICE, log 34. -/
def Dev.homeBytes (e : Env) (d : Dev) (k n : Nat) : List Byte :=
  if (d.dirEnt (k / 128)).recalls false then hdrBytes (d.fresh + k % 128) n else d.bytes e k n

def Dev.homeNat (e : Env) (d : Dev) (k n : Nat) : Nat := leNat (d.homeBytes e k n)

/-- The direct-window address of a store line (R409). -/
def lineIa (line : Nat) : Nat :=
  let k := 128 * line
  0xFF * 2 ^ 44 + k / 2 ^ 60 % 4 * 2 ^ 42 + k % 2 ^ 42

/-- A fatal direct-window write posts a lane H record with CAUSE 0x20 (R413); it takes none of a core's 64 entries. -/
def Dev.postBadWrite (d : Dev) (core ctx ia : Nat) : Dev :=
  let (n, d) := d.stamp
  let data := leBytes 8 n ++ leBytes 2 (ctx % 4096) ++ leBytes 2 core ++ leBytes 1 0 ++ leBytes 1 cUncorrectable ++
    leBytes 1 16 ++ leBytes 17 0 ++
    leBytes 8 ia ++ leBytes 24 0
  { d with laneH := d.laneH ++ [{ seq := n, core := 512, part := 0, ctx := ctx, data := data }] }

/-- The home takes a line back from outside before the module's own engine writes it, in one step: an owner's data come with it where it has
changed any, and no copy remains. A line with a transaction open is left to it. DESIGN CHOICE, log 34. -/
def Dev.recallNow (d : Dev) (line : Nat) : Dev :=
  let en := d.dirEnt line
  if !en.recalls true || d.txns.any (fun t => t.req.line = line) then d
  else
    let (n, d) := if en.st = 1 then (0, d) else d.choose 2
    let d := if n = 0 then d else { d.write (128 * line) (hdrBytes d.fresh 128) with fresh := d.fresh + 128 }
    let d := if en.st = 3 then d.postBadWrite 0 0 (lineIa line) else d
    { d with dir := Table.set {} d.dir line {}, copies := d.copies.filter fun c => c.line ≠ line }

/-! ## The walk (R410 to R412) -/

inductive Acc where
  | rd | wr | fetch
  deriving DecidableEq, Repr

/-- How a walk ends. `ok` gives the byte's store key (none: poison), the write grant, the entry's key where the page is a
cached second-tier page, and whether the page is uncached. -/
inductive Walk where
  | ok (key : Option Nat) (grant : Bool) (pte : Nat) (uc : Bool)
  | fill (f : Fill)
  | fault (reason : Nat) (large : Bool)
  | fatal (unm : Bool)
  deriving DecidableEq, Repr

/-- Bits [51:16] of word 0, in place. -/
def pteAddr (w : Nat) : Nat := bitsN w 51 16 * 2 ^ 16

/-- A reserved bit of an entry is set. DEDUCED, log 22. -/
def pteRsv (w0 w1 : Nat) : Bool :=
  bitsN w0 63 52 ≠ 0 || bitsN w0 15 10 ≠ 0 || bitsN w1 63 38 ≠ 0 || bitsN w1 15 3 ≠ 0

/-- The end of a walk at a PAGE entry of level `lvl`; `at_` is the entry's address. DEDUCED, log 22. -/
def Dev.walkPage (d : Dev) (lvl at_ w0 w1 ia : Nat) (acc : Acc) : Walk :=
  let large := w0.testBit 4
  let loc := bitsN w0 3 2
  let uc := w0.testBit 7
  let size := if large then 2 ^ 25 else 2 ^ 16
  let addr := pteAddr w0
  let placed :=
    match loc with
    | 0 => d.installed 0 addr size
    | 1 => d.installed 1 addr size
    | 2 => true
    | _ => w0.testBit 9 || w0.testBit 8 || d.installed 1 addr size
  let off := ia % size
  let w := w0.testBit 5
  if pteRsv w0 w1 || large != decide (lvl = 1) || (large && addr % 2 ^ 25 ≠ 0) || (uc && loc ≠ 2) || !placed then .fatal false
  else if loc = 3 then .fault 2 large
  else if acc = .wr && !w then .fault 3 large
  else if acc = .fetch && w0.testBit 6 then .fatal false
  else
    match loc with
    | 0 => .ok (some (storeKey 0 (addr + off))) w 0 false
    | 2 => .ok (d.loc2Key (addr + off)) w 0 uc
    | _ =>
      let frame := bitsN w1 37 16 * 2 ^ 16
      if w1.testBit 0 then
        .ok (if d.installed 0 frame size then some (storeKey 0 (frame + off)) else none) w (storeKey 0 at_) false
      else .fill { page := ia / size * (size / 2 ^ 16), n := size / 2 ^ 16, pte := at_, frame := 0, home := storeKey 1 addr }

/-- One level of the walk in the table at `base`; an entry beyond the memory is poison and ends the walk as a reserved one
does (R426). DEDUCED, log 42. -/
def Dev.walkAt (e : Env) (d : Dev) (ia : Nat) (acc : Acc) : Nat → Nat → Walk
  | lvl, base =>
    let idx := match lvl with
      | 2 => ia / 2 ^ 38 % 2 ^ 14
      | 1 => ia / 2 ^ 25 % 2 ^ 13
      | _ => ia / 2 ^ 16 % 2 ^ 9
    let at_ := base + 16 * idx
    let k := storeKey 0 at_
    if !d.installed 0 at_ 16 || d.poisoned k 16 then .fatal false
    else
      let w0 := d.homeNat e k 8
      let w1 := d.homeNat e (k + 8) 8
      match w0 % 4 with
      | 0 => .fault 1 (decide (lvl = 1))
      | 3 => .fatal (w0.testBit 8)
      | 2 => if lvl = 2 then .fatal false else d.walkPage lvl at_ w0 w1 ia acc
      | _ =>
        match lvl with
        | 0 => .fatal false
        | l + 1 =>
          let a := pteAddr w0
          let size := if l = 1 then 2 ^ 17 else 2 ^ 13
          if pteRsv w0 w1 || a % size ≠ 0 || !d.installed 0 a size then .fatal false
          else Dev.walkAt e d ia acc l a

/-- The walk of a mapped address. -/
def Dev.walk (e : Env) (d : Dev) (ia : Nat) (acc : Acc) : Walk :=
  if !d.hub.ptroot.getLsbD 0 then .fault 1 false
  else d.walkAt e ia acc 2 (bitsN d.hub.ptroot.toNat 37 18 * 2 ^ 18)

/-! ## Page-table entries of cached pages (R411, R414) -/

/-- Bits of word 1 set or cleared. -/
def Dev.pteWord1 (e : Env) (d : Dev) (pte : Nat) (f : Nat → Nat) : Dev :=
  let d := d.recallNow (pte / 128)
  d.write (pte + 8) (leBytes 8 (f (d.nat e (pte + 8) 8)))

def setBit (v b : Nat) : Nat := if v.testBit b then v else v + 2 ^ b
def clearBit (v b : Nat) : Nat := if v.testBit b then v - 2 ^ b else v

/-! ## L2 lines (R113, R413) -/

def Dev.l2? (d : Dev) (line : Nat) : Option L2Line := d.l2.find? fun l => l.line = line

/-- The home slice of an intermediate address (R484). -/
def homeSlice (ia : Nat) : Nat :=
  (List.range 7).foldl (fun h j => h ^^^ (ia / 2 ^ (7 + 6 * j) % 64)) (ia / 2 ^ 49 % 8)

/-- Lines of an L2 slice: 2 MiB (R1). -/
def l2Lines : Nat := 16384

/-- A line enters its home slice. In a full slice another line gives way, and which one is a choice; memory holds the home's bytes already,
so nothing is written back. DESIGN CHOICE, log 22. -/
def Dev.putL2 (d : Dev) (l : L2Line) : Dev :=
  let old := d.l2.filter fun m => m.line ≠ l.line
  let mates := old.filter fun m => homeSlice (128 * m.line) = homeSlice (128 * l.line)
  if mates.length < l2Lines then { d with l2 := l :: old }
  else
    let (n, d) := d.choose mates.length
    let out := ((mates[n]?).map (·.line)).getD l.line
    { d with l2 := l :: old.filter fun m => m.line ≠ out }

/-- The 64 KiB pages [p, p + n). -/
def inPages (p n page : Nat) : Bool := decide (p ≤ page) && decide (page < p + n)

def Dev.dropL2 (d : Dev) (p n : Nat) : Dev := { d with l2 := d.l2.filter fun l => !inPages p n (l.line / 512) }

/-- The lines of pages leave every L1 and constant cache (R419). -/
def Dev.dropL1 (d : Dev) (p n : Nat) : Dev :=
  { d with cores := d.cores.map fun q =>
      (q.1, { q.2 with l1 := q.2.l1.filter fun l => !inPages p n (l.line / 512),
                       cc := q.2.cc.filter fun l => !inPages p n (l.line / 512) }) }

/-! ## Whole pages moved (R414, R415, R475) -/

/-- Keys in [k, k + n) that a step or the memory lists. -/
def Dev.listed (e : Env) (d : Dev) (k n : Nat) : List Nat :=
  let hit (a : Nat) : Bool := decide (k ≤ a) && decide (a < k + n)
  ((e.mem.filter fun p => hit p.1).map (·.1)) ++ ((d.wb.filter fun p => hit p.1).map (·.1))

/-- `n` bytes copied between keys, poison with them. -/
def Dev.copyBytes (e : Env) (d : Dev) (src dst n : Nat) : Dev :=
  let ks := (d.listed e src n).map (· - src) ++ (d.listed e dst n).map (· - dst)
  let bad := (d.poison.filter fun p => decide (src ≤ p) && decide (p < src + n)).map fun p => p - src + dst
  let d' := ks.foldl (fun t k => t.write (dst + k) [d.byte e (src + k)]) d
  let kept := d'.poison.filter fun p => !(decide (dst ≤ p) && decide (p < dst + n))
  { d' with poison := bad.foldl (fun l p => insNat p l) kept }

/-! ## The clock sweep (R415) -/

/-- The key of the frame map's entry for a frame. -/
def Dev.fmapKey (d : Dev) (frame : Nat) : Nat := storeKey 0 (bitsN d.hub.fmbase.toNat 37 12 * 2 ^ 12 + 8 * (frame / 2 ^ 16))

/-- Valid entries of one frame size: the frames, ascending. -/
def Dev.mapped (e : Env) (d : Dev) (large : Bool) : List Nat :=
  let k := d.fmapKey 0
  let idx := (d.listed e k (8 * (gddrSize / 2 ^ 16))).foldl (fun l a => insNat ((a - k) / 8) l) []
  idx.filterMap fun i =>
    let v := d.nat e (k + 8 * i) 8
    if v.testBit 0 && v.testBit 1 = large then some (i * 2 ^ 16) else none

/-- The address of the entry that owns a frame. -/
def Dev.owner (e : Env) (d : Dev) (frame : Nat) : Nat := bitsN (d.nat e (d.fmapKey frame) 8) 37 4 * 16

/-- The entry of a page, where a walk for reading ends at a cached page. -/
def Dev.pteOf (e : Env) (d : Dev) (page : Nat) : Nat :=
  match d.walk e (page * 2 ^ 16) .rd with
  | .ok _ _ pte _ => pte
  | _ => 0

/-- A page with parked operations or a fill in progress is skipped. -/
def Dev.sweepSkips (e : Env) (d : Dev) (pte : Nat) : Bool :=
  (d.eps.any fun p => !p.log.isEmpty && d.pteOf e p.page = pte) || d.fills.any fun f => storeKey 0 f.pte = pte

/-- The page of a frame is evicted: its dirty lines recalled, the frame written home if dirty, the map entry invalidated. Its clean lines stay
valid: they hold the home's bytes. -/
def Dev.evict (e : Env) (d : Dev) (frame : Nat) (large : Bool) : Dev :=
  let pte := storeKey 0 (d.owner e frame)
  let size := if large then 2 ^ 25 else 2 ^ 16
  let home := storeKey 1 (pteAddr (d.homeNat e pte 8))
  let d := if (d.homeNat e (pte + 8) 8).testBit 2 then d.copyBytes e (storeKey 0 frame) home size else d
  let d := d.pteWord1 e pte fun w => clearBit w 0
  let d := d.write (d.fmapKey frame) (leBytes 8 0)
  { d with l2 := (d.l2.filter fun l => l.pte ≠ pte || !l.dirty).map fun l =>
      if l.pte = pte then { l with phys := l.phys - storeKey 0 frame + home, pte := 0 } else l }

/-- The sweep from the last stop over `fs`: REF cleared on the way, until a victim is found. -/
def Dev.sweep (e : Env) (large : Bool) : List Nat → Dev → Option Nat × Dev
  | [], d => (none, d)
  | f :: r, d =>
    let pte := storeKey 0 (d.owner e f)
    if d.sweepSkips e pte then Dev.sweep e large r d
    else if (d.homeNat e (pte + 8) 8).testBit 1 then Dev.sweep e large r (d.pteWord1 e pte fun w => clearBit w 1)
    else
      let d := d.evict e f large
      (some f, if large then { d with sweepL := f + 1 } else { d with sweepS := f + 1 })

/-- A frame: the FIFO's head, else a victim's. -/
def Dev.takeFrame (e : Env) (d : Dev) (large : Bool) : Option Nat × Dev :=
  match (if large then d.fifoL else d.fifoS) with
  | f :: r => (some f, if large then { d with fifoL := r } else { d with fifoS := r })
  | [] =>
    let fs := d.mapped e large
    let s := if large then d.sweepL else d.sweepS
    let round := fs.filter (fun f => decide (s ≤ f)) ++ fs.filter (fun f => decide (f < s))
    d.sweep e large (round ++ round)

/-! ## What a request to a line finds (R412 to R417) -/

inductive Reach where
  /-- Performed at a store key. -/
  | at_ (key : Nat)
  /-- Poison on a read, discarded on a write. -/
  | bad
  /-- The page is in a fill, or no frame is free. -/
  | filling (page : Nat)
  /-- The page is pending. -/
  | pend (page : Nat)
  | fault (reason : Nat) (large : Bool)
  | fatal (cause : Nat)
  deriving DecidableEq, Repr

def Dev.episode? (d : Dev) (page : Nat) : Option Episode := d.eps.find? fun p => inPages p.page p.n page

/-- Nothing is open or being filled on a page. -/
def Dev.pageFree (d : Dev) (p : Nat) : Bool := (d.episode? p).isNone && !d.fills.any fun f => inPages f.page f.n p

/-- A request for one access within a line, whatever agents outside hold. -/
def Dev.reachRaw (e : Env) (d : Dev) (ia : Nat) (acc : Acc) : Reach × Dev :=
  if isDirect ia then
    match d.directKey ia 1 with
    | some k => (.at_ k, d)
    | none => (.bad, d)
  else
    let line := ia / 128
    let page := ia / 2 ^ 16
    let miss : Reach × Dev :=
      if (d.episode? page).isSome then (.pend page, d)
      else if d.fills.any fun f => inPages f.page f.n page then (.filling page, d)
      else
        match d.walk e ia acc with
        | .fault r l => (.fault r l, d)
        | .fatal u => (.fatal (if u then cUnmapped else cPageFatal), d)
        | .fill f =>
          let (fr, d) := d.takeFrame e (f.n > 1)
          match fr with
          | some a => (.filling page, { d with fills := d.fills ++ [{ f with frame := a }] })
          | none => (.filling page, d)
        | .ok none _ _ _ => (.bad, d)
        | .ok (some k) grant pte uc =>
          let d := if pte = 0 then d
            else d.pteWord1 e pte fun w => if acc = .wr then setBit (setBit w 1) 2 else setBit w 1
          (.at_ k, if uc then d else d.putL2 { line := line, phys := k - ia % 128, grant := grant, pte := pte, dirty := acc = .wr })
    match d.l2? line with
    | some l =>
      if acc ≠ .wr || l.grant then
        let d := if acc = .wr && l.pte ≠ 0 then d.pteWord1 e l.pte fun w => setBit w 2 else d
        let d := if acc = .wr && !l.dirty then d.putL2 { l with dirty := true } else d
        (.at_ (l.phys + ia % 128), d)
      else miss
    | none => miss

/-! ### Lines that agents outside the module hold (R457, R458) -/

/-- The requester code of the home's own die. -/
def agentOwn : Nat := 0xFFFF

/-- The home's own access joins the requests of its line, once. -/
def Dev.askOwn (d : Dev) (line : Nat) (wr : Bool) : Dev :=
  let r : Req := { agent := agentOwn, line := line, kind := if wr then 1 else 0 }
  if d.reqs.contains r || d.txns.any (fun t => t.req = r) then d else { d with reqs := d.reqs ++ [r] }

/-- A request for one access within a line: it waits while the home recalls the line. -/
def Dev.reach (e : Env) (d : Dev) (ia : Nat) (acc : Acc) : Reach × Dev :=
  match d.reachRaw e ia acc with
  | (.at_ k, d') =>
    if (d.dirEnt (k / 128)).recalls (decide (acc = .wr)) then (.filling (ia / 2 ^ 16), d.askOwn (k / 128) (decide (acc = .wr)))
    else (.at_ k, d')
  | r => r

/-- The page is uncached (R234). -/
def Dev.uncachedAt (e : Env) (d : Dev) (ia : Nat) : Bool :=
  !isDirect ia &&
  match d.walk e ia .rd with
  | .ok _ _ _ uc => uc
  | _ => false

/-! ## Fault episodes (R417) -/

/-- What a fault record says of the first request. -/
structure FaultBy where
  ctx : Nat
  core : Nat
  part : Nat := 0
  kind : Nat
  unit : Nat
  va : Nat
  ia : Nat
  h0 : Nat := 0
  h1 : Nat := 0

/-- The 64 bytes of a fault record. -/
def faultRecord (seq : Nat) (f : FaultBy) (reason : Nat) (large : Bool) : List Byte :=
  leBytes 8 seq ++ leBytes 2 (f.ctx % 4096) ++ leBytes 2 (f.core % 512) ++ leBytes 1 (f.kind + 4 * f.unit) ++ leBytes 1 reason ++
  leBytes 1 (if large then 1 else 0) ++ leBytes 1 0 ++ leBytes 8 (vaWide f.va) ++ leBytes 8 f.ia ++ leBytes 8 f.h0 ++
  leBytes 8 (f.h1 % 2 ^ 16) ++ leBytes 16 0

/-- A record goes to lane R, or waits while the lane is full (R381, R417). -/
def Dev.postLaneR (d : Dev) (core part ctx : Nat) (data : List Byte) : Dev :=
  if d.laneR.length ≥ 16384 then { d with laneRHeld := d.laneRHeld ++ [(core, data)] }
  else
    let (n, d) := d.stamp
    { d with laneR := d.laneR ++ [{ seq := n, core := core, part := part, ctx := ctx, data := leBytes 8 n ++ data.drop 8 }] }

/-- A true fault opens an episode on its page. DEDUCED, log 42. -/
def Dev.openEpisode (d : Dev) (f : FaultBy) (reason : Nat) (large : Bool) : Dev :=
  let ep : Episode :=
    if large then { page := f.ia / 2 ^ 25 * 512, n := 512 } else { page := f.ia / 2 ^ 16, n := 1 }
  ({ d with eps := d.eps ++ [ep] }).postLaneR f.core f.part f.ctx (faultRecord 0 f reason large)

/-- Operations in the Scree log. -/
def Dev.parkedCount (d : Dev) : Nat := d.eps.foldl (fun n p => n + p.log.length) 0

/-- An operation parks: the page's cached copies are removed before the first one (R418, R419). -/
def Dev.park (d : Dev) (p : Parked) : Dev :=
  let page := p.ia / 2 ^ 16
  match d.episode? page with
  | none => d
  | some ep =>
    let d := if ep.cleaned then d else (d.dropL2 ep.page ep.n).dropL1 ep.page ep.n
    { d with eps := d.eps.map fun q =>
        if q.page = ep.page && q.n = ep.n then { q with log := q.log ++ [p], cleaned := true } else q }

/-- The fibre has parked operations, or markers of such (R140, R400). -/
def Dev.hasParked (d : Dev) (w i : Nat) : Bool :=
  d.eps.any (fun p => p.log.any fun q => q.wg = w && q.fib = i)

end Sys2Proof.Machine
end

