-- ==== Sys2Proof/Machine/Access.lean ====
section
/-! DEFINITION. Accesses to the memory spaces: issue checks, tags, home requests, the MTU's outcomes, landings and episode
release (spec/04; spec/05; spec/17, R391 to R395; spec/18, R412 to R420). -/
namespace Sys2Proof.Machine

open Sys2Proof

/-! ## Where an access goes (R102 to R104) -/

inductive Tgt where
  | glob (va : Nat)
  | vault (rank off : Nat)
  | acc (off : Nat)
  deriving DecidableEq, Repr

/-- A watch fires on an access (R367): `rd` and `wr` say what the access does. -/
def watchHit (g : WG) (q n : Nat) (rd wr : Bool) : Bool :=
  let one (i : Nat) : Bool :=
    let c := g.wctl.toNat / 256 ^ i % 256
    let m := c / 64
    let size := 2 ^ (c % 64)
    let w := (g.waddr.getD i 0#64).toNat
    let lo := ptrAddr w / size * size
    ((m.testBit 0 && wr) || (m.testBit 1 && rd)) && ptrSpace q = ptrSpace w && ptrAddr q < lo + size && lo < ptrAddr q + n
  one 0 || one 1

/-- The derived address of a private offset (R104). -/
def privateVa (g : WG) (l : Launch) (i o : Nat) : Nat := va57 (l.r.pbase + (g.gidx * l.r.fcap + i) * l.r.psize + o)

/-- The checks of R102, then alignment (R119) and watches (R367): a cause with `%tval`, or the target.
DEDUCED, log 42. -/
def resolve (g : WG) (f : Fib) (l : Launch) (i q n : Nat) (spaces : List Nat) (align : Nat) (rd wr : Bool) :
    Except (Nat × Nat) Tgt :=
  let a := ptrAddr q
  let bad (c : Nat) : Except (Nat × Nat) Tgt := .error (c, q)
  let fine (t : Tgt) : Except (Nat × Nat) Tgt :=
    if a % align ≠ 0 then bad cMisaligned
    else if !f.hnd && watchHit g q n rd wr then .error (cWatch, q)
    else .ok t
  if !spaces.contains (ptrSpace q) then bad cSpaceInvalid
  else
    match ptrSpace q with
    | 0 => if ptrShape q then fine (.glob (va57 a)) else bad cSpaceInvalid
    | 1 =>
      let off := a % 2 ^ 22
      let rank := a / 2 ^ 52
      if !ptrShape q || rank ≥ l.r.members || off + n > l.r.v then bad cVaultRange else fine (.vault rank off)
    | 2 =>
      let off := a % 2 ^ 21
      if !ptrShape q || off + n > 4096 * l.r.a then bad cVaultRange else fine (.acc off)
    | 3 =>
      let o := a % 2 ^ 32
      if !ptrShape q then bad cSpaceInvalid
      else if o + n > l.r.psize then bad cAccessDenied
      else fine (.glob (privateVa g l i o))
    | 4 =>
      let o := a % 2 ^ 32
      if !ptrShape q then bad cSpaceInvalid
      else if wr || o + n > l.r.csize then bad cAccessDenied
      else fine (.glob (va57 (l.r.cbase + o)))
    | _ => bad cSpaceInvalid

/-- The address of an operand `[dA + off]` (R232), or `[dA]` alone. -/
def memAddr (now : Nat) (g : WG) (f : Fib) (x : X) (off : Bool) : Nat :=
  let p := f.nat x.a.toNat 2
  if off then ptrAdd p (sNat 32 (srcB now g f x 1)) else p

/-! ## Home slices and tags (R484, R391, R392, R395) -/

def mkTag (ctx core fslot seq : Nat) : Nat := ctx % 4096 * 2 ^ 36 + core % 512 * 2 ^ 27 + fslot % 2048 * 2 ^ 16 + seq % 2 ^ 16
def tagCtx (t : Nat) : Nat := t / 2 ^ 36
def tagCore (t : Nat) : Nat := t / 2 ^ 27 % 512
def tagFslot (t : Nat) : Nat := t / 2 ^ 16 % 2048
def tagSeq (t : Nat) : Nat := t % 2 ^ 16

/-- The sequence number after `n`, which passes over 0. -/
def seqAfter (n : Nat) : Nat := if n + 1 ≥ 2 ^ 16 then 1 else n + 1

/-- The next tag of a fibre. -/
def Dev.nextTag (d : Dev) (g : WG) (f : Fib) : Nat :=
  mkTag g.ctx.ctxid g.core f.fslot (seqAfter (Table.get 0 (d.core g.core).seqs f.fslot))

def Dev.takeTag (d : Dev) (g : WG) (f : Fib) : Nat × Dev :=
  let t := d.nextTag g f
  (t, d.modCore g.core fun k => { k with seqs := Table.set 0 k.seqs f.fslot (tagSeq t), outst := k.outst ++ [t] })

/-- The intermediate address of a part. -/
def Dev.partIa (d : Dev) (o : Op) (p : Part) : Option Nat := (d.wg? o.wg).bind fun g => rangeLookup g.rng p.va

/-- Where a part begins, as a location: the space or the member, and the address in it; global parts count by their intermediate
address (R123). -/
def Dev.spot (d : Dev) (o : Op) (p : Part) : Nat × Nat :=
  match ptrSpace o.addr with
  | 1 => (2 ^ 60 + ptrAddr o.addr / 2 ^ 52, p.va)
  | 2 => (1, p.va)
  | _ =>
    match d.partIa o p with
    | some ia => (0, ia)
    | none => (2, p.va)

def OpKind.isAtomic : OpKind → Bool
  | .atom => true
  | .red => true
  | .atomf => true
  | .atomfx => true
  | _ => false

/-- The operations that travel as one request with `o`: the atomics of its instruction on its location, in ascending rank (R116). -/
def Dev.oneRequest (d : Dev) (o : Op) : List Op :=
  match o.parts[0]? with
  | none => [o]
  | some p =>
    if !o.kind.isAtomic then [o]
    else d.ops.filter fun q => q.kind.isAtomic && q.grp = o.grp && !q.frozen && q.parts.any fun r => r.st = p.st && d.spot q r = d.spot o p

/-- Requests of a core toward a slice that are not acknowledged; those of the merger are not the core's. -/
def Dev.toward (d : Dev) (core slice : Nat) : Nat :=
  (d.ops.filter fun o => o.core = core && o.tag ≠ 0 && !o.frozen && o.kind ≠ .omst && o.kind ≠ .kbins &&
    (o.parts.any fun p => (p.st = .sent || p.st = .walk) && ((d.partIa o p).map homeSlice) = some slice) &&
    ((d.oneRequest o).head?.map (·.id)).getD o.id = o.id).length

/-- The instruction's atomics on this address make one request already (R116). -/
def Dev.joins (d : Dev) (grp ia : Nat) : Bool :=
  d.ops.any fun q => q.kind.isAtomic && q.grp = grp && q.parts.any fun r => d.spot q r = (0, ia)

/-- A tagged operation may not issue now: a quota's stop, eight requests of the slice, a sequence number still outstanding, or a
lower rank of its instruction that is held so (R115, R392, R395). -/
def Dev.tagBlocked (d : Dev) (g : WG) (i : Nat) (f : Fib) (ia : Option Nat) (grp : Nat) : Bool :=
  let k := d.core g.core
  k.stops.any (fun p => p.1 = g.ctx.ctxid) ||
  (match ia with
   | some a => !d.joins grp a && decide (d.toward g.core (homeSlice a) ≥ 8)
   | none => false) ||
  (k.outst.any fun t => tagFslot t = f.fslot && tagCore t = g.core && tagSeq t = tagSeq (d.nextTag g f)) ||
  (grp ≠ 0 && d.wgs.any fun h => h.core = g.core && h.place = .resident &&
    ((List.range h.fibs.length).zip h.fibs).any fun p => p.2.tagGrp = grp && p.1 * 64 + h.slot < i * 64 + g.slot)

/-- The number of the fibre's instruction: the one that the tag rules held, if any. -/
def Cx.instr (cx : Cx) (f : Fib) : Nat := if f.tagGrp ≠ 0 then f.tagGrp else cx.grp

/-- The fibre is held at a tagged operation toward `ia`, and counts as blocked. -/
def Dev.tagHold (d : Dev) (cx : Cx) (f : Fib) (ia : Option Nat) : Dev :=
  (d.modFib cx.wg cx.fi fun h => { h with tagGrp := cx.instr f }).block cx (.tagRoom ia)

/-! ## Read-modify-writes (R83, R238, R240, R241, R260) -/

/-- fn of R238 on `w` bits. -/
def rmwInt (op ty : Nat) (o b c : Nat) : Nat :=
  let w := tyBits ty
  let v (u : Nat) : Int := tyVal ty u
  match op with
  | 0 => (o + b) % 2 ^ w
  | 1 => o &&& b
  | 2 => o ||| b
  | 3 => o ^^^ b
  | 4 => if v b < v o then b else o
  | 5 => if v o < v b then b else o
  | 6 => b
  | 7 => if o = b then c else o
  | 8 => if o ≥ b then 0 else o + 1
  | 9 => if o = 0 || o > b then b else o - 1
  | _ => o

/-- One element of `atomf` (R240). -/
def rmwFlt (fop : Nat) (f : FFmt) (rnd o b : Nat) : Nat :=
  match fop with
  | 0 => (fpAdd f { code := rnd } false (f.val o) (f.val b)).1
  | 1 => (fpMinMax f false o b).1
  | _ => (fpMinMax f true o b).1

/-- A word of `atomf`: one FP32 element or two halves. -/
def rmwWord (fop ty rnd o b : Nat) : Nat :=
  if ty = 0x10 then rmwFlt fop fF32 rnd o b
  else rmwFlt fop (tyF ty) rnd (half o 0) (half b 0) + 2 ^ 16 * rmwFlt fop (tyF ty) rnd (half o 1) (half b 1)

/-- The FX128 addition on the first 20 bytes of a cell, VALUE and FLAGS (R241). -/
def rmwFx (p : Nat) (o b : Nat) : Nat :=
  let val := o % 2 ^ 128
  let fl := o / 2 ^ 128 % 2 ^ 32
  match f32V b with
  | .fin n m e =>
    let x := Q.scale (if n then -(m : Int) else m) (e + p)
    let r := roundInt rne x
    let lim : Int := (2 ^ 127 : Nat)
    let s := sNat 128 val + sNat 128 (bitsOf r.1 128)
    let fl := if r.2 then setBit fl 3 else fl
    let fl := if r.1 < -lim || r.1 > lim - 1 then setBit fl 2 else fl
    let fl := if s < -lim || s > lim - 1 then setBit fl 0 else fl
    bitsOf s 128 + 2 ^ 128 * fl
  | _ => val + 2 ^ 128 * setBit fl 1

/-- Elements of four bytes combined one by one. -/
def unitWords (fn : Nat → Nat → Nat) : List Word → List Word → List Word
  | o :: os, b :: bs => BitVec.ofNat 32 (fn o.toNat b.toNat) :: unitWords fn os bs
  | os, [] => os
  | [], _ => []

/-- The bytes after an action, and the bytes it returns. -/
def Act.run (a : Act) (old : List Byte) : List Byte × List Byte :=
  match a with
  | .read => (old, old)
  | .write bs => (bs, [])
  | .int op ty b c => (leBytes old.length (rmwInt op ty (leNat old) b c), old)
  | .flt fop ty rnd b => (leBytes old.length (rmwWord fop ty rnd (leNat old) b), old)
  | .fx p b => (leBytes old.length (rmwFx p (leNat old) b), old.take 16)
  | .unit rop p bs =>
    let b := wordsOfBytes bs
    if rop = 2 then (leBytes old.length (rmwFx p (leNat old) (b.headD 0#32).toNat), [])
    else (bytesOfWords (unitWords (fun o u => if rop = 0 then (o + u) % 2 ^ 32 else rmwWord 0 0x10 0 o u) (wordsOfBytes old) b), [])

/-- The action writes. -/
def Act.writes : Act → Bool
  | .read => false
  | _ => true

/-- An action performed on `n` bytes at a store key: the bytes returned, and whether poison was read. -/
def Dev.actAt (e : Env) (d : Dev) (key n : Nat) (a : Act) : Dev × List Byte × Bool :=
  let old := d.bytes e key n
  let r := a.run old
  match a with
  | .read => (d, old, d.poisoned key n)
  | .write bs => (d.write key bs, [], false)
  | _ => if d.poisoned key n then (d, r.2, true) else (d.write key r.1, r.2, false)

/-! ## L1 and constant cache (R113, R114, R236) -/

def Dev.l1? (e : Env) (d : Dev) (core line : Nat) : Option L1Line :=
  (d.core core).l1.find? fun l => l.line = line && e.now < l.stamp + 8192

def Dev.cc? (d : Dev) (core line : Nat) : Option L1Line := (d.core core).cc.find? fun l => l.line = line

/-- Lines of an L1: 256 KiB (R1). -/
def l1Lines : Nat := 2048

/-- A line filled from its place in memory; a line that holds poison is not kept (DEDUCED, log 22). In a full L1 another line gives way;
which one is a choice (DESIGN CHOICE, log 22). -/
def Dev.fillL1 (e : Env) (d : Dev) (core line key : Nat) (const : Bool) : Dev :=
  if d.poisoned key 128 then d
  else
    let n : L1Line := { line := line, data := d.bytes e key 128, stamp := e.now }
    if const then d.modCore core fun k => { k with cc := n :: k.cc.filter fun l => l.line ≠ line }
    else
      let old := (d.core core).l1.filter fun l => l.line ≠ line
      if old.length < l1Lines then d.modCore core fun k => { k with l1 := n :: old }
      else
        let (v, d) := d.choose old.length
        d.modCore core fun k => { k with l1 := n :: old.eraseIdx v }

/-- A write of the core updates its L1 line, if present (R113). DEDUCED, log 21. -/
def Dev.updateL1 (d : Dev) (core ia : Nat) (bs : List Byte) : Dev :=
  let upd (l : L1Line) : L1Line :=
    if l.line = ia / 128 then
      { l with data := ((List.range bs.length).zip bs).foldl (fun t p => putAt p.2 t (ia % 128 + p.1)) l.data }
    else l
  if (d.core core).l1.any fun l => l.line = ia / 128 then d.modCore core fun k => { k with l1 := k.l1.map upd } else d

/-- DEDUCED, log 21. -/
def Dev.invalidateL1 (d : Dev) (core : Nat) : Dev := d.modCore core fun k => { k with l1 := [] }

/-- One line leaves the L1 of a core. -/
def Dev.forgetL1 (d : Dev) (core line : Nat) : Dev := d.modCore core fun k => { k with l1 := k.l1.filter fun l => l.line ≠ line }

/-! ## Scopes (R120, R121, R140) -/

/-- A field of a scope-group entry; zero where its read does not succeed (R364). A page in a fill is read where it comes from. -/
def Dev.groupMask (e : Env) (d : Dev) (g : WG) (i : Nat) (off n : Nat) : Nat :=
  let ia := g.ctx.sgtab + 128 * i + off
  match d.reachRaw e ia .rd with
  | (.at_ k, _) => d.homeNat e k n
  | (.filling p, d) =>
    match d.fills.find? fun f => inPages f.page f.n p with
    | some f => d.nat e (f.home + (ia - f.page * 2 ^ 16)) n
    | none => 0
  | _ => 0

/-- The scope contains another core (R114). DEDUCED, log 21. -/
def Dev.scopeWide (e : Env) (d : Dev) (g : WG) (scope grp : Nat) : Bool :=
  if scope ≤ 1 then false
  else if scope ≤ 5 then true
  else
    let cores := d.groupMask e g grp 0 64
    let mods := d.groupMask e g grp 64 16
    let own := 2 ^ d.hub.rank
    mods &&& (2 ^ 128 - 1 - own) ≠ 0 || cores &&& (2 ^ 512 - 1 - 2 ^ g.core) ≠ 0

/-- The scope counts as `.dev` or wider for parked operations (R140). -/
def Dev.scopeParks (e : Env) (d : Dev) (g : WG) (scope grp : Nat) : Bool :=
  if scope ≤ 2 then false
  else if scope ≤ 5 then true
  else
    let cores := d.groupMask e g grp 0 64
    let mods := d.groupMask e g grp 64 16
    let other := (2 ^ 256 - 1) * 2 ^ (256 * (1 - g.core / 256))
    mods &&& (2 ^ 128 - 1 - 2 ^ d.hub.rank) ≠ 0 || cores &&& other ≠ 0

/-! ## Order within a fibre (R115, R116, R124, R128) -/

/-- A copy: its accesses are ordered by R136 alone. -/
def OpKind.isCopy : OpKind → Bool
  | .cpy => true
  | .tcpy => true
  | _ => false

/-- An access of the output merger: a relaxed global access of its fibre (R301, R302). -/
def OpKind.merges : OpKind → Bool
  | .omst => true
  | .omld => true
  | .kbins => true
  | _ => false

/-- A fixed operation that the ordering rules do not see. -/
def OpKind.unordered : OpKind → Bool
  | .cpy => true
  | .tcpy => true
  | .sfu => true
  | _ => false

def PartSt.over : PartSt → Bool
  | .done => true
  | .parked => true
  | .given => true
  | _ => false

/-- The operation has been performed, or parked (R117). -/
def Op.performed (o : Op) : Bool := !o.parts.isEmpty && o.parts.all fun p => p.st.over

/-- Runs of bytes at two locations share a byte. -/
def spotsMeet (a : Nat × Nat) (n : Nat) (b : Nat × Nat) (m : Nat) : Bool := a.1 = b.1 && decide (a.2 < b.2 + m) && decide (b.2 < a.2 + n)

/-- The copy reads a byte of the run (R136). -/
def Op.readsAt (o : Op) (a : Nat × Nat) (n : Nat) : Bool := o.reads.any fun r => r.1 = a.1 && decide (a.2 < r.2.2) && decide (r.2.1 < a.2 + n)

/-- An older operation of the fibre, or one of a lower rank in the same instruction, still has to act on a byte of the part; a write
also waits for the older copies of the fibre that read one (R115, R124, R136). -/
def Dev.bytesBusy (d : Dev) (o : Op) (p : Part) : Bool :=
  let a := d.spot o p
  d.ops.any fun q => q.id < o.id && !q.frozen &&
    ((q.wg = o.wg && q.fib = o.fib || q.grp = o.grp && !q.kind.isAtomic) && !q.kind.isCopy &&
        (q.parts.any fun r => !r.st.over && spotsMeet (d.spot q r) r.len a p.len) ||
     q.wg = o.wg && q.fib = o.fib && o.act.writes && q.readsAt a p.len)

/-- Operations of the fibre older than `before` that are not performed. -/
def Dev.olderOpen (d : Dev) (w i before : Nat) : Bool :=
  d.ops.any fun q => q.wg = w && q.fib = i && q.id < before && !q.kind.unordered && !q.frozen && !q.performed &&
    !(q.kind.merges && q.ready)

/-- Parked operations restored from a record and not yet performed (R400). -/
def Dev.markerOpen (d : Dev) (w i : Nat) : Bool :=
  match d.wg? w with
  | none => false
  | some g => g.markers.any fun m => m.1 = i &&
      d.eps.any fun p => p.log.any fun q =>
        tagCtx q.tag = g.ctx.ctxid % 4096 && tagCore q.tag = m.2.1 && tagFslot q.tag = m.2.2.1 &&
        (if m.2.2.2.1 ≤ m.2.2.2.2 then m.2.2.2.1 ≤ tagSeq q.tag && tagSeq q.tag ≤ m.2.2.2.2
         else m.2.2.2.1 ≤ tagSeq q.tag || tagSeq q.tag ≤ m.2.2.2.2)

/-- The fibre has parked operations that a wide fence or release waits for (R140). -/
def Dev.parksOpen (d : Dev) (w i : Nat) : Bool :=
  d.hasParked w i || d.markerOpen w i

/-! ### Tiles of matrix operations (R266, R111) -/

def zt (m : Word) : Nat := bitsN m.toNat 31 23
def znN (m : Word) : Nat := bitsN m.toNat 19 11 + 1
def mtN (m : Word) : Nat := bitsN m.toNat 11 10 + 1
def ntN (m : Word) : Nat := bitsN m.toNat 9 8 + 1
/-- Tiles an operation names. -/
def MOp.tiles (o : MOp) : List Nat :=
  match o.kind with
  | .plan => []
  | .mma => upFrom (zt o.m) (mtN o.m * ntN o.m)
  | _ => upFrom (zt o.m) (znN o.m)

def MOp.names (o : MOp) (z n : Nat) : Bool := o.tiles.any fun t => decide (z ≤ t) && decide (t < z + n)

/-- The matrix operations at which the fibre's squad arrived and that name a tile of the run: a byte-view access is performed after
them (R111). -/
def WG.tilesBusy (g : WG) (i off n : Nat) : List Nat :=
  (g.mops.filter fun m => m.arrivals.any (fun j => squadOf j = squadOf i) &&
    m.names (off / 4096) ((off + n - 1) / 4096 - off / 4096 + 1)).map (·.id)

/-- A reissued entry waits for the entries ahead of it: a release for every one of its fibre, any other for those that are acquires
(R403). -/
def Dev.behindEntries (d : Dev) (o : Op) : Bool :=
  o.again && (d.ops.any (fun q => q.id < o.id && q.wg = o.wg && q.fib = o.fib && q.again && (o.rel || q.acq)) ||
    o.rel && match d.wg? o.wg with
      | some g => g.mops.any fun m => m.fib = o.fib && m.id < o.id
      | none => false)

/-- A release may be performed: what the fibre issued before it has been performed (R128, R140, R403). -/
def Dev.mayRelease (d : Dev) (o : Op) : Bool :=
  !o.rel || (!d.olderOpen o.wg o.fib o.id && !(o.deep && d.parksOpen o.wg o.fib))

/-- The part may act at its home now. -/
def Dev.mayAct (d : Dev) (o : Op) (p : Part) : Bool :=
  !o.frozen && !d.bytesBusy o p && !d.behindEntries o && d.mayRelease o

/-! ## Retirement of tags (R394) -/

/-- The core has accepted every unit: the tag is gathered for retirement. -/
def Dev.retireTag (e : Env) (d : Dev) (core tag : Nat) : Dev :=
  if tag = 0 then d
  else d.modCore core fun k =>
    { k with gathered := k.gathered ++ [tag], gatheredAt := if k.gathered.isEmpty then e.now else k.gatheredAt }

/-- Entries of a context in a slice's tag table. A slice's 16,384 entries always suffice: the quotas sum to at most 12,288, and what is
under way when a stop is sent, 8 requests of each of 512 cores, fits the reserve (R393, R395). -/
def Dev.tagCount (d : Dev) (ctx slice : Nat) : Nat :=
  (d.tags.filter fun t => tagCtx t.tag = ctx && t.line < 2 ^ 45 && homeSlice (t.line * 128) = slice).length

/-- A slice that holds QUOTA entries of a context sends a stop to every core, once (R395). -/
def Dev.quotaStop (d : Dev) (ctx slice : Nat) : Dev :=
  if d.quotaStops.contains (ctx, slice) || d.tagCount ctx slice < Table.get 0 d.hub.tagq ctx then d
  else { d with quotaStops := (ctx, slice) :: d.quotaStops,
                agenda := d.agenda ++ (List.range 512).map fun c => .ev .tagQuotaStop c ctx slice [] }

/-- Its go, once the count has fallen to QUOTA − 64 or below (R395). -/
def Dev.quotaGo (d : Dev) (ctx slice : Nat) : Dev :=
  if d.quotaStops.contains (ctx, slice) && d.tagCount ctx slice ≤ Table.get 0 d.hub.tagq ctx - 64 then
    { d with quotaStops := d.quotaStops.filter fun p => p ≠ (ctx, slice),
             agenda := d.agenda ++ (List.range 512).map fun c => .ev .tagQuotaGo c ctx slice [] }
  else d

/-- Registration of a tag for a line (R393), and the stop of a full quota (R395). -/
def Dev.registerTag (d : Dev) (tag line units : Nat) (res : List Word) (piece : Nat := 0) : Dev :=
  if tag = 0 then d
  else
    match d.tags.find? fun t => t.tag = tag && t.line = line with
    | some _ => { d with tags := d.tags.map fun t =>
        if t.tag = tag && t.line = line then
          { t with units := t.units ||| units, pieces := if piece = 0 then t.pieces else insNat piece t.pieces, res := if res.isEmpty then t.res else res }
        else t }
    | none =>
      let d : Dev := { d with tags := { tag := tag, line := line, units := units, pieces := if piece = 0 then [] else [piece], res := res } :: d.tags }
      if line < 2 ^ 45 then d.quotaStop (tagCtx tag) (homeSlice (line * 128)) else d

def Dev.tagEnt? (d : Dev) (tag line : Nat) : Option TagEnt :=
  if tag = 0 then none else d.tags.find? fun t => t.tag = tag && t.line = line

/-- The mask of the 16-byte units that `n` bytes at `a` touch in their line. -/
def unitMask (a n : Nat) : Nat :=
  (upFrom (a % 128 / 16) (if n = 0 then 0 else (a % 128 + n - 1) / 16 - a % 128 / 16 + 1)).foldl (fun s i => s + 2 ^ i) 0

/-- The home's entry for a tag, where it has performed these units under it (R393). -/
def Dev.unitsDone (d : Dev) (tag ia units piece : Nat) : Option TagEnt :=
  (d.tagEnt? tag (ia / 128)).filter fun t => if piece = 0 then decide (t.units &&& units = units) else t.pieces.contains piece

/-! ## Performing one part -/

/-- The part's share of the action. -/
def Op.partAct (o : Op) (p : Part) : Act :=
  match o.act with
  | .write bs => .write ((bs.drop p.off).take p.len)
  | a => a

/-- The part has acted: its bytes join the operation's. -/
def Op.donePart (o : Op) (i : Nat) (p : Part) (bs : List Byte) (bad : Bool) : Op :=
  { o with
    parts := putAt { p with st := .done } o.parts i
    bytes := if bs.isEmpty then o.bytes else o.bytes.take p.off ++ bs ++ o.bytes.drop (p.off + bs.length)
    poisoned := o.poisoned || bad }

/-- A result is to be returned. -/
def Op.returns (o : Op) : Bool := o.dn ≠ 0 || o.dxp.isSome

/-- A result or an acquire is still to land at the core. -/
def Op.lands (o : Op) : Bool := o.returns || o.acq

/-- The words a completed operation delivers. -/
def Op.result (o : Op) : List Word :=
  let v := leNat o.bytes
  match o.kind with
  | .atomfx => natWords 4 v
  | .ld | .ldc | .local_ =>
    let ty := if o.m.toNat % 32 = 0 then 0x09 else o.m.toNat % 32
    natWords o.dn (if tyS ty then bitsOf (sNat (8 * o.size) v) (32 * o.dn) else v)
  | _ => natWords o.dn v

/-- What completes when a part is over: a result to land, or an acknowledged operation. A lost part leaves its destination
empty for ever (R420). -/
def Dev.settle (e : Env) (d : Dev) (id : Nat) : Dev :=
  match d.op? id with
  | none => d
  | some o =>
    if !o.performed || o.frozen then d
    else if o.parts.any fun p => p.st = .given then (d.dropOp id).retireTag e o.core o.tag
    -- an acquire that parked ends when the log performs it (R128, R140)
    else if o.acq && o.parts.any fun p => p.st = .parked then d
    else if o.lands then
      -- a request of several fibres returns all its values together (R116)
      match d.ops.find? fun q => q.kind.isAtomic && o.kind.isAtomic && q.grp = o.grp && q.ready && q.id ≠ id && (q.parts.any fun r => o.parts.any fun p => d.spot q r = d.spot o p) with
      | some q => d.modOp id fun o => { o with ready := true, res := o.result, due := q.due }
      | none =>
        let (n, d) := d.choose 64
        d.modOp id fun o => { o with ready := true, res := o.result, due := e.now + 1 + n }
    else (d.dropOp id).retireTag e o.core o.tag

/-- An operation raises one ASYNC cause, with the first address given up (R262, R274, R420). -/
def Dev.asyncOp (d : Dev) (o : Op) (cause va : Nat) : Dev :=
  if ((d.op? o.id).map (·.lost)).getD o.lost then d
  else (d.async o.wg o.fib cause (vaWide va)).modOp o.id fun o => { o with lost := true }

/-- The part ends unperformed. -/
def Dev.givePart (e : Env) (d : Dev) (o : Op) (i : Nat) (p : Part) : Dev :=
  (d.modOp o.id fun o => { o with parts := putAt { p with st := .given } o.parts i }).settle e o.id

def Dev.setPart (d : Dev) (o : Op) (i : Nat) (p : Part) (st : PartSt) : Dev :=
  d.modOp o.id fun o => { o with parts := putAt { p with st := st } o.parts i }

/-- Where the home slice is on the other die than the core, that die caches the line as agent D; an access of the home's own die takes a line
that D owns back to shared, and a write takes it away (R454, R459, R484). -/
def Dev.dieTouch (d : Dev) (core ia key : Nat) (wr : Bool) : Dev :=
  let line := key / 128
  let en := d.dirEnt line
  let set (en : DirEnt) (mesi : Nat) : Dev :=
    let rest := d.copies.filter fun c => !(c.agent = 0 && c.line = line)
    { d with dir := Table.set {} d.dir line en, copies := if mesi = 0 then rest else { agent := 0, line := line, mesi := mesi } :: rest }
  let owned := decide (en.st = 2 && en.own = 0)
  if core / 256 ≠ homeSlice ia / 32 then
    if wr then set { st := 2 } 3
    else if en.st = 0 then set { st := 2 } 2
    else if en.st = 1 then set { en with ds := true } 1
    else d
  else if owned then (if wr then set {} 0 else set { st := 1, ds := true } 1)
  else if wr && en.ds then set { en with ds := false, st := if en.hs = 0 && en.pv = 0 then 0 else 1 } 0
  else d

/-- A GDDR 7 burst is still in error after its retries, or the device reports it as uncorrectable (R464): a choice of the run, log 30. -/
def Dev.gddrBurst (d : Dev) (key : Nat) : Bool × Dev :=
  if key < 2 ^ 60 then
    let (n, d) := d.choose 2
    (n = 1, d)
  else (false, d)

/-- The part acts at a store key; a burst in error delivers poison on a read and leaves poison on a write (R464). -/
def Dev.performAt (e : Env) (d : Dev) (o : Op) (i : Nat) (p : Part) (ia key : Nat) : Dev :=
  match d.unitsDone o.tag ia (unitMask ia p.len) 0 with
  | some t =>
    -- performed already: acknowledged, or answered with the result it remembered (R393)
    (d.modOp o.id fun o => o.donePart i p (if o.lands then (bytesOfWords t.res).take o.size else []) false).settle e o.id
  | none =>
    let a := o.partAct p
    let d := d.dieTouch o.core ia key a.writes
    let (burst, d) := d.gddrBurst key
    if burst then
      let d := match a with
        | .write bs => ((d.write key bs).poisonAt key p.len).updateL1 o.core ia bs
        | _ => d.postBadWrite 0 0 ia
      let d := d.registerTag o.tag (ia / 128) (unitMask ia p.len) []
      (d.modOp o.id fun o => o.donePart i p [] (o.lands || !a.writes)).settle e o.id
    else
    let r := d.actAt e key p.len a
    let d := r.1
    let d := if a.writes then d.updateL1 o.core ia (d.bytes e key p.len)
      else if o.kind = .ld && !o.uncached then d.fillL1 e o.core (ia / 128) (key - ia % 128) false
      else if o.kind = .ldc && !o.uncached then d.fillL1 e o.core (ia / 128) (key - ia % 128) true
      else d
    let d := d.registerTag o.tag (ia / 128) (unitMask ia p.len) (wordsOfBytes r.2.1)
    (d.modOp o.id fun o => o.donePart i p r.2.1 r.2.2).settle e o.id

/-- The part meets poison on a read; a write there is discarded (R409, R413). -/
def Dev.performBad (e : Env) (d : Dev) (o : Op) (i : Nat) (p : Part) (ia : Nat) : Dev :=
  let ctx := match d.wg? o.wg with
    | some g => g.ctx.ctxid
    | none => 0
  let d := if o.act.writes && isDirect ia then d.postBadWrite o.core ctx ia else d
  (d.modOp o.id fun o => o.donePart i p [] (!o.act.writes || o.lands)).settle e o.id

/-! ## Full granules (R245) -/

/-- A fibre takes the value of a full granule: read, and emptied with CLR, in one action; the value lands as the result of an
acquire at `.clu` (R135). Returns the operation. -/
def Dev.takeFill (e : Env) (d : Dev) (w i : Nat) (g h : WG) (a : Take) : Nat × Dev :=
  let off := ptrAddr a.addr % 2 ^ 22
  let bs := h.vaultBytes off a.size
  let d := if a.clr then d.modWg h.id (·.setEmpty a.gran) else d
  let (id, d) := d.takeId
  let (lat, d) := d.choose 32
  let o : Op :=
    { id := id, kind := .local_, wg := w, fib := i, grp := a.grp, dst := a.dst, dn := a.dn, scope := 2,
      acq := true, wide := true, core := g.core, addr := a.addr, size := a.size, m := a.m, bytes := bs, res := natWords a.dn (leNat bs),
      parts := [{ va := off, off := 0, len := a.size, st := .done }], ready := true, due := e.now + 6 + lat,
      poisoned := h.vaultBad off a.size }
  (id, { d with ops := d.ops ++ [o] }.modFib w i (·.empty a.dst a.dn))

/-- The fibres that wait for a granule: work-group, index, what they take. -/
def Dev.fillWaiters (d : Dev) (h : WG) (n : Nat) : List (WG × Nat × Take) :=
  d.wgs.flatMap fun g =>
    if g.place ≠ .resident || g.stopped || g.halt ≠ .none then []
    else ((List.range g.fibs.length).zip g.fibs).filterMap fun p =>
      match p.2.wait with
      | .granule a =>
        if p.2.live && a.gran = n && ((d.member g a.rank).map (·.id)) = some h.id then some (g, p.1, a) else none
      | _ => none

/-- A full granule serves its waiters, one after another, until one empties it: fibres of one instruction in ascending rank, and
among instructions any. -/
def Dev.serveFill (e : Env) (w n : Nat) : Nat → Dev → Dev
  | 0, d => d
  | k + 1, d =>
    match d.wg? w with
    | none => d
    | some h =>
      let ws := d.fillWaiters h n
      if !h.granFull n || ws.isEmpty then d
      else
        let (c, d) := d.choose ws.length
        match ws[c]? with
        | none => d
        | some p =>
          match ws.find? fun q => q.1.id = p.1.id && q.2.2.grp = p.2.2.grp with
          | none => d
          | some (g, i, a) =>
            let r := d.takeFill e g.id i g h a
            serveFill e w n k (r.2.modFib g.id i fun f =>
              { ((f.issued false).advance e.now a.len) with wait := .op r.1 })

/-- A granule becomes full. -/
def Dev.fillGran (e : Env) (d : Dev) (w n : Nat) : Dev :=
  let d := d.modWg w (·.setFull n)
  if d.wgs.any fun g => g.fibs.any fun f => (match f.wait with | .granule _ => true | _ => false)
  then Dev.serveFill e w n 2048 d else d

/-- An `stfe` of the same instruction, of a higher rank, still has to write the granule: it is set full once (R115). -/
def Dev.fillLater (d : Dev) (o : Op) (p : Part) : Bool :=
  d.ops.any fun q => q.id > o.id && q.grp = o.grp && q.kind = .st && q.mark = 1 && !q.frozen &&
    q.parts.any fun r => !r.st.over && (d.spot q r).1 = (d.spot o p).1 && r.va / 16 = p.va / 16

/-- The vault of a member, or the work-group's tiles. An access to the vault of a member that has retired is given up: the spec states
no outcome. DESIGN CHOICE, log 47. -/
def Dev.performLocal (e : Env) (d : Dev) (o : Op) (i : Nat) (p : Part) : Dev :=
  match d.wg? o.wg with
  | none => d
  | some g =>
    if ptrSpace o.addr = 2 then
      let r := (o.partAct p).run (g.tileBytes p.va p.len)
      let d := if o.act.writes then d.modWg g.id (·.tileWrite p.va r.1) else d
      (d.modOp o.id fun o => o.donePart i p r.2 false).settle e o.id
    else
      match d.member g (ptrAddr o.addr / 2 ^ 52) with
      | none => d.givePart e o i p
      | some h =>
        let r := (o.partAct p).run (h.vaultBytes p.va p.len)
        let bad := !r.2.isEmpty && h.vaultBad p.va p.len
        let d := if o.act.writes && !bad then d.vaultWrite h.id p.va r.1 else d
        let d := if o.mark = 1 && !d.fillLater o p then d.fillGran e h.id (p.va / 16) else d
        (d.modOp o.id fun o => o.donePart i p r.2 bad).settle e o.id

/-! ## Home requests (R393, R412) -/

def Op.acc (o : Op) : Acc := if o.act.writes then .wr else .rd

/-- The L2 serves the request without the MTU. -/
def Dev.hits (d : Dev) (ia : Nat) (acc : Acc) : Bool :=
  isDirect ia ||
  match d.l2? (ia / 128) with
  | some l => acc ≠ .wr || l.grant
  | none => false

/-- One part reaches its home. A part whose range is gone is given up. -/
def Dev.arrive (e : Env) (d : Dev) (o : Op) (i : Nat) (p : Part) : Dev :=
  if ptrSpace o.addr = 1 || ptrSpace o.addr = 2 then d.performLocal e o i p
  else
    match d.partIa o p with
    | none => d.givePart e o i p
    | some ia =>
      let cached :=
        if o.kind = .ld && !(o.acq && o.wide) then d.l1? e o.core (ia / 128)
        else if o.kind = .ldc then d.cc? o.core (ia / 128)
        else none
      match cached with
      | some l => (d.modOp o.id fun o => o.donePart i p ((l.data.drop (ia % 128)).take p.len) false).settle e o.id
      | none =>
        -- the home registers the tag before it performs anything (R393)
        let d := d.registerTag o.tag (ia / 128) 0 []
        if d.hits ia o.acc then
          match d.reach e ia o.acc with
          | (.at_ k, d) => d.performAt e o i p ia k
          | (.filling _, d) => d.setPart o i p .fill
          | (_, d) => d.performBad e o i p ia
        else d.setPart o i p .walk

/-- A part may act now; atomics of one instruction on one location go together, once no rank of theirs is held at issue (R116). -/
def Dev.mayArrive (d : Dev) (o : Op) (p : Part) : Bool :=
  if o.kind.isAtomic then
    (d.oneRequest o).all (fun q => q.parts.all fun r => d.mayAct q r) &&
    !d.wgs.any fun g => g.core = o.core && g.place = .resident && g.fibs.any fun f => f.tagGrp = o.grp
  else d.mayAct o p

/-- A step of each operation of a request, in ascending rank, or of one part (R116). -/
def Dev.eachRank (d : Dev) (o : Op) (i : Nat) (p : Part) (f : Dev → Op → Nat → Part → Dev) : Dev :=
  if o.kind.isAtomic then
    (d.oneRequest o).foldl (fun d q =>
      match q.parts[0]? with
      | some r => f d q 0 r
      | none => d) d
  else f d o i p

/-- HOME_REQUEST: operation and part. DEDUCED, log 21; DESIGN CHOICE, log 30. -/
def Dev.homeRequest (e : Env) (d : Dev) (id i : Nat) : Dev :=
  match d.op? id with
  | none => d
  | some o =>
    match o.parts[i]? with
    | none => d
    | some p => if p.st ≠ .sent || !d.mayArrive o p then d else d.eachRank o i p fun d o i p => d.arrive e o i p

/-! ## The MTU (R412, R416 to R418) -/

/-- The request parks on a pending page rather than waiting (R417). -/
def Op.parks (o : Op) : Bool := o.act.writes && !o.returns && o.kind ≠ .tcpyc

def Dev.faultBy (d : Dev) (w core kind unit va ia : Nat) : FaultBy :=
  let g := d.wg? w
  { ctx := (g.map (·.ctx.ctxid)).getD 0, core := core, kind := kind, unit := unit, va := va, ia := ia,
    part := ((g.bind fun h => d.launch? h.launch).map (·.part)).getD 0 }

/-- The context of a work-group serves faults (R423). -/
def Dev.isFsvc (d : Dev) (w : Nat) : Bool := ((d.wg? w).map (·.ctx.fsvc)).getD false

/-- A request that meets a pending page waits there, or parks. -/
def Dev.joinEpisode (e : Env) (d : Dev) (o : Op) (i : Nat) (p : Part) (ia : Nat) : Dev :=
  if !o.parks then d.setPart o i p .held
  else if (d.eps.any fun q => inPages q.page q.n (ia / 2 ^ 16) && q.log.any fun r => r.tag = o.tag && o.tag ≠ 0 && r.ia = ia) then
    -- a duplicate is acknowledged as parked and not logged twice (R393)
    (d.setPart o i p .parked).settle e o.id
  else if d.parkedCount ≥ 65536 then d
  else
    let q : Parked :=
      { id := o.id, tag := o.tag, wg := o.wg, fib := o.fib, launch := ((d.wg? o.wg).map (·.launch)).getD 0, pass := none,
        ctx := ((d.wg? o.wg).map (·.ctx.ctxid)).getD 0, va := p.va, ia := ia, act := o.partAct p }
    ((d.park q).setPart o i p .parked).settle e o.id

/-- The walk of one part. -/
def Dev.walkPart (e : Env) (d : Dev) (o : Op) (i : Nat) (p : Part) : Dev :=
  match d.partIa o p with
  | none => d.givePart e o i p
  | some ia =>
    let d := if d.uncachedAt e ia then d.modOp o.id fun o => { o with uncached := true } else d
    let o := (d.op? o.id).getD o
    match d.reach e ia o.acc with
    | (.at_ k, d) => d.performAt e o i p ia k
    | (.bad, d) => d.performBad e o i p ia
    | (.filling _, d) => d.setPart o i p .fill
    | (.pend _, d) => d.joinEpisode e o i p ia
    | (.fault r l, d) =>
      if d.isFsvc o.wg then (d.asyncOp o cPageFatal p.va).givePart e o i p
      else
        let kind := if o.kind.isAtomic then 2 else if o.act.writes then 1 else 0
        (d.openEpisode (d.faultBy o.wg o.core kind 0 p.va ia) r l).joinEpisode e o i p ia
    | (.fatal c, d) => (d.asyncOp o c p.va).givePart e o i p

/-- A page of uncached device memory that a request walks to: an X access (R234). -/
def Dev.deviceBound (e : Env) (d : Dev) (o : Op) (p : Part) : Bool :=
  match d.partIa o p with
  | some ia => d.uncachedAt e ia
  | none => false

/-- MTU_WALK: operation and part. -/
def Dev.mtuWalk (e : Env) (d : Dev) (id i : Nat) : Dev :=
  match d.op? id with
  | none => d
  | some o =>
    match o.parts[i]? with
    | none => d
    | some p => if p.st ≠ .walk || o.frozen then d else d.eachRank o i p fun d o i p => d.walkPart e o i p

/-! ## Page fills (R414) -/

/-- PAGE_FILL_COMPLETE: the page is copied into its frame, the entry and the frame map are written, and the waiting
requests go on. DEDUCED, log 42. -/
def Dev.fillDone (e : Env) (d : Dev) (page : Nat) : Dev :=
  match d.fills.find? fun f => f.page = page with
  | none => d
  | some f =>
    let d := d.copyBytes e f.home (storeKey 0 f.frame) (f.n * 2 ^ 16)
    let d := d.write (storeKey 0 f.pte + 8) (leBytes 8 (f.frame / 2 ^ 16 * 2 ^ 16 + 3))
    let d := d.write (d.fmapKey f.frame) (leBytes 8 (f.pte + (if f.n > 1 then 2 else 0) + 1))
    -- lines of the page that stayed in the L2 now stand for the frame
    let stay (l : L2Line) : L2Line :=
      if inPages f.page f.n (l.line / 512) then
        { l with phys := storeKey 0 f.frame + (128 * l.line - f.page * 2 ^ 16), pte := storeKey 0 f.pte }
      else l
    let d : Dev := { d with fills := d.fills.filter (fun h => h.page ≠ page), l2 := d.l2.map stay }
    let wake (o : Op) : Op :=
      { o with parts := o.parts.map fun p => if p.st = .fill then { p with st := .walk } else p }
    { d with ops := d.ops.map wake }

/-! ## The end of an episode (R420) -/

/-- An acquire that parked: its part is over and the fibre goes on (R128, R140). -/
def Dev.endAcquire (e : Env) (d : Dev) (id : Nat) (st : PartSt) : Dev :=
  match d.op? id with
  | none => d
  | some o =>
    if !o.acq then d
    else (d.modOp id fun o => { o with parts := o.parts.map fun p => if p.st = .parked then { p with st := st } else p }).settle e id

/-- A parked operation performed by the log; its tag passes to the home while it is outstanding. -/
def Dev.performParked (e : Env) (d : Dev) (q : Parked) (key n : Nat) : Dev :=
  let r := d.actAt e key n q.act
  let d := if (d.core (tagCore q.tag)).outst.contains q.tag then
      r.1.registerTag q.tag (q.ia / 128) (unitMask q.ia n) (wordsOfBytes r.2.1) q.piece
    else r.1
  let d := d.updateL1 (tagCore q.tag) q.ia (d.bytes e key n)
  d.endAcquire e q.id .done

/-- Bytes an action covers. -/
def Act.size : Act → Nat
  | .read => 0
  | .write bs => bs.length
  | .int _ ty _ _ => tyBits ty / 8
  | .flt _ _ _ _ => 4
  | .fx _ _ => 20
  | .unit rop _ bs => if rop = 2 then 20 else bs.length

/-- The log of an episode in order: performed, or from the first that faults again, joined to a new episode. While a page is in a fill, or
an agent outside holds the line, the rest of the log waits (R142, R414). -/
def Dev.replayLog (e : Env) (ep : Episode) : List Parked → Dev → Dev
  | [], d => d
  | q :: r, d =>
    match d.reach e q.ia .wr with
    | (.at_ k, d) => Dev.replayLog e ep r (d.performParked e q k q.act.size)
    | (.pend _, d) => Dev.replayLog e ep r (d.park q)
    | (.filling _, d) => { d with eps := { ep with log := q :: r } :: d.eps }
    | (.fault n l, d) =>
      Dev.replayLog e ep r ((d.openEpisode (d.faultBy q.wg (tagCore q.tag) 1 0 q.va q.ia) n l).park q)
    | (_, d) => Dev.replayLog e ep r ((d.postBadWrite (tagCore q.tag) q.ctx q.ia).endAcquire e q.id .done)

/-- The cause of a fatal end, for the work-group of an operation; a retired one reports it in its launch (R420). -/
def Dev.fatalFor (d : Dev) (w fib launch cause va : Nat) : Dev :=
  match d.wg? w with
  | some g =>
    if g.place = .retired then d.modLaunch launch fun l => if l.fatal = 0 then { l with fatal := cause } else l
    else d.async w fib cause (vaWide va)
  | none => d.modLaunch launch fun l => if l.fatal = 0 then { l with fatal := cause } else l

/-- The same for a parked write of a pass's own or of a packet (R319, R437). -/
def Dev.unitFatal (d : Dev) (q : Parked) (cause : Nat) : Dev :=
  { d with
    passes := d.passes.map fun p => if q.wg = 0 && q.pass = some p.id && p.code = 0 then { p with code := 4, detail := cause } else p
    pkts := d.pkts.map fun p => if q.wg = 0 && q.id = p.id && p.code = 0 then { p with code := 4, detail := cause } else p }

/-- Held parts of the page go on: they walk again. -/
def Dev.unhold (d : Dev) (p n : Nat) : Dev :=
  let wake (o : Op) : Op :=
    { o with
      parts := o.parts.map fun q =>
        if q.st = .held then
          match d.partIa o q with
          | some ia => if inPages p n (ia / 2 ^ 16) then { q with st := .walk } else q
          | none => q
        else q
      heldOn := match o.heldOn with
        | some h => if inPages p n h then none else some h
        | none => none }
  let wakeF (f : Fib) : Fib :=
    match f.wait with
    | .page q => if inPages p n q then { f with wait := .none } else f
    | _ => f
  { d with ops := d.ops.map wake, wgs := d.wgs.map fun g => { g with fibs := g.fibs.map wakeF } }

/-- The first of each live work-group's operations; all of the others. -/
def Dev.firstLost (d : Dev) : List (Nat × Nat × Nat × Nat) → List (Nat × Nat × Nat × Nat)
  | [] => []
  | q :: r =>
    let rest := d.firstLost r
    q :: if (d.wg? q.1).isSome then rest.filter fun p => p.1 ≠ q.1 else rest

/-- EPISODE_RELEASE: the episode of a page ends with a new walk. DEDUCED, log 42. -/
def Dev.releaseEpisode (e : Env) (d : Dev) (page : Nat) : Dev :=
  match d.eps.find? fun p => p.page = page with
  | none => d
  | some ep =>
    let acc : Acc := if ep.log.isEmpty then .rd else .wr
    let d0 := { d with eps := d.eps.filter fun p => p.page ≠ page }
    let ia := match ep.log with
      | q :: _ => q.ia
      | [] => page * 2 ^ 16
    match d0.reach e ia acc with
    | (.filling _, d1) => { d1 with eps := ep :: d1.eps }
    | (.fatal c, d1) =>
      let d1 := ep.log.foldl (fun d q => (d.unitFatal q c).endAcquire e q.id .given) d1
      let held := d1.ops.filter fun o => o.parts.any fun q => q.st = .held &&
        match d1.partIa o q with
        | some a => inPages ep.page ep.n (a / 2 ^ 16)
        | none => false
      let lost := (ep.log.map fun q => (q.wg, q.fib, q.launch, q.va)) ++ held.filterMap fun o =>
        (o.parts.find? fun q => q.st = .held).map fun q => (o.wg, o.fib, 0, q.va)
      let d1 := (d1.firstLost lost).foldl (fun d q => d.fatalFor q.1 q.2.1 q.2.2.1 c q.2.2.2) d1
      let d1 := held.foldl (fun d o => d.modOp o.id fun o =>
        { o with lost := true, parts := o.parts.map fun r => if r.st = .held then { r with st := .given } else r }) d1
      (held.foldl (fun d o => d.settle e o.id) d1).unhold ep.page ep.n
    | (_, d1) => (Dev.replayLog e ep ep.log d1).unhold ep.page ep.n

/-! ## Landing (R65, R114, R196) -/

/-- The result of an operation lands: words and predicate are written, the fibre that waits for it goes on, an acquire
beyond the core empties the L1. Poison raises HW_UNCORRECTABLE, with `%tval` 0, and leaves the words empty (R375, R478).
DESIGN CHOICE, log 48. -/
def Dev.land (e : Env) (d : Dev) (o : Op) : Dev :=
  let d := (d.dropOp o.id).retireTag e o.core o.tag
  match d.wg? o.wg with
  | none => d
  | some g =>
    match g.fib? o.fib with
    | none => d
    | some f =>
      if !f.live || o.discard then d
      else if o.poisoned then
        d.consume o.wg o.fib 0
      else
        let d := d.modFib o.wg o.fib fun f =>
          let f := f.setWords o.dst (o.res.take o.dn)
          let f := match o.dxp with
            | some p => { f.setPred p (o.mark = 1) with pend := f.pend.filter (· ≠ p) }
            | none => f
          if f.wait = .op o.id then { f with wait := .none, readyAt := e.now } else f
        if o.acq && o.wide then d.invalidateL1 g.core else d

/-! ## Making an operation -/

/-- The halves of an access (R117). -/
def partsOf (bound va n : Nat) : List Part :=
  let first := bound - va % bound
  if n ≤ first then [{ va := va, off := 0, len := n }]
  else [{ va := va, off := 0, len := first }, { va := va + first, off := first, len := n - first }]

/-- The byte runs that `n` bytes at a target cover, by space or member; global ones by the intermediate addresses that ranges give
them (R123). -/
def spansOf (g : WG) (t : Tgt) (n : Nat) : List (Nat × Nat × Nat) :=
  match t with
  | .vault r off => [(2 ^ 60 + r, off, off + n)]
  | .acc off => [(1, off, off + n)]
  | .glob va =>
    let cut (lo hi : Nat) : List (Nat × Nat × Nat) :=
      g.rng.filterMap fun r =>
        let a := max lo r.vbase
        let b := min hi (r.vbase + r.vsize)
        if r.on && a < b then some (0, r.iabase + (a - r.vbase), r.iabase + (b - r.vbase)) else none
    let v := va57 va
    cut v (min (v + n) (2 ^ 57)) ++ cut 0 (v + n - 2 ^ 57)

/-- What the core reads of a scope when an access that names it issues (R121): whether it contains another core, and whether it counts as
`.dev` or wider for parked operations. -/
def Op.scoped (e : Env) (d : Dev) (g : WG) (o : Op) : Op :=
  { o with wide := d.scopeWide e g o.scope o.sgrp, deep := d.scopeParks e g o.scope o.sgrp }

/-- The scope of a reissued access is read again; a commit or an append keeps its own. -/
def Op.scopedAgain (e : Env) (d : Dev) (g : WG) (o : Op) : Op :=
  match o.kind with
  | .tcpyc | .cont => o
  | _ => o.scoped e d g

/-- An operation of the instruction: numbered, counted unless it is an `stfe` (R396), tagged where it must not act twice (R391), sent in
its halves. A half that no range holds is not sent and raises UNMAPPED (R408). -/
def Dev.launchOp (e : Env) (d : Dev) (cx : Cx) (g : WG) (f : Fib) (t : Tgt) (o : Op) : Nat × Dev :=
  let o := o.scoped e d g
  let (id, d) := d.takeId
  let tagged := (o.act.writes || o.kind = .tcpyc) &&
    match t with
    | .glob _ => true
    | .vault r _ => ((d.member g r).map (·.core)).getD g.core ≠ g.core
    | .acc _ => false
  let (tag, d) := if tagged then d.takeTag g f else (0, d)
  let parts := match t with
    | .glob va => partsOf 128 va o.size
    | .vault _ off => partsOf (if o.kind.isAtomic then 128 else 16) off o.size
    | .acc off => partsOf 128 off o.size
  let lost (p : Part) : Bool :=
    match t with
    | .glob _ => (rangeLookup g.rng p.va).isNone
    | _ => false
  let parts' := parts.map fun p => if lost p then { p with st := .given } else p
  let (n, d) := d.choose 16
  let o : Op :=
    { o with id := id, wg := cx.wg, fib := cx.fi, ord := ((d.wg? cx.wg).map (·.issue)).getD 0, grp := cx.instr f, tag := tag,
             core := g.core, parts := parts', lost := parts.any lost, bytes := List.replicate o.size 0#8, due := e.now + 1 + n,
             sentAt := e.now }
  let n := if o.kind = .st && o.mark = 1 then 0 else 1
  let d := { d with ops := d.ops ++ [o] }.modWg cx.wg fun g => { g with issue := g.issue + n }
  let d := match parts.find? lost with
    | some p => d.async cx.wg cx.fi cUnmapped (vaWide p.va)
    | none => d
  (id, d.settle e id)

end Sys2Proof.Machine
end

