-- ==== Sys2Proof/Machine/Memory.lean ====
section
/-! DEFINITION. Loads, stores, atomics, reductions and prefetch (spec/09, R231 to R241, R264). -/
namespace Sys2Proof.Machine

open Sys2Proof

/-! ## Common checks -/

/-- ORD is one of the accepted codes and SCOPE is not reserved (R129, R120). -/
def ordOk (ords : List Nat) (x : X) : Bool := ords.contains x.ord && x.scope ≤ 6

/-- The access sizes of R233. -/
def tysMem : List Nat := upFrom 1 15

def memTy (x : X) : Nat := x.tyOr 0x09

/-- Bytes of an access. -/
def memSize (x : X) : Nat := tyBits (memTy x) / 8

/-- Acquire and release marks of ORD. -/
def ordAcq (o : Nat) : Bool := o = 1 || o = 3 || o = 4
def ordRel (o : Nat) : Bool := o = 2 || o = 3 || o = 4

/-- The operand words of R233. -/
def memOpd (x : X) : Opd := opd (tyWords (memTy x))

/-- What an operation carries of its instruction. -/
def opOf (k : OpKind) (x : X) (q n : Nat) (a : Act) : Op :=
  { id := 0, kind := k, wg := 0, fib := 0, scope := x.scope, sgrp := x.grp, acq := ordAcq x.ord, rel := ordRel x.ord,
    addr := q, size := n, m := x.m, act := a }

/-- The tag rules hold the fibre back, at an access of an address or, in another core's vault, of none (R391, R392, R395). -/
def Dev.tagHeld (d : Dev) (cx : Cx) (g : WG) (f : Fib) (t : Tgt) : Option (Option Nat) :=
  let ask (ia : Option Nat) : Option (Option Nat) := if d.tagBlocked g cx.fi f ia (cx.instr f) then some ia else none
  match t with
  | .glob va =>
    match rangeLookup g.rng va with
    | some ia => ask (some ia)
    | none => none
  | .vault r _ => if ((d.member g r).map (·.core)).getD g.core ≠ g.core then ask none else none
  | .acc _ => none

/-- The access is to an uncached page (R234). -/
def Dev.isDevice (e : Env) (d : Dev) (g : WG) (t : Tgt) : Bool :=
  match t with
  | .glob va => ((rangeLookup g.rng va).map fun ia => d.uncachedAt e ia).getD false
  | _ => false

/-- What an access waits for before it issues: no access to a vault, a tile or an uncached page waits once it has been issued, so that a
halt can wait for it (R111, R128, R234, R389). -/
def Dev.issueWait (e : Env) (d : Dev) (cx : Cx) (g : WG) (t : Tgt) (o : Op) : Option Wait :=
  let dev := d.isDevice e g t
  let prompt := dev || match t with
    | .glob _ => false
    | _ => true
  let tiles := match t with
    | .acc off => g.tilesBusy cx.fi off o.size
    | _ => []
  let deep := d.scopeParks e g o.scope o.sgrp
  if !tiles.isEmpty then some (.tiles tiles)
  else if prompt && o.rel && (d.olderOpen cx.wg cx.fi d.nextId || (deep && d.parksOpen cx.wg cx.fi)) then some (.ops d.nextId deep)
  else if dev && g.halt ≠ .none && !g.handling then some .device
  else none

/-- The operation is sent; an acquire holds its fibre until it lands. -/
def sendOp (e : Env) (cx : Cx) (g : WG) (f : Fib) (d : Dev) (t : Tgt) (o : Op) : Dev :=
  match d.issueWait e cx g t o with
  | some w => d.block cx w
  | none =>
    match if o.act.writes then d.tagHeld cx g f t else none with
    | some ia => d.tagHold cx f ia
    | none =>
      let d := d.modFib cx.wg cx.fi (·.empty o.dst o.dn)
      let r := d.launchOp e cx g f t o
      if o.acq then r.2.hold cx (.op r.1) else r.2.advance cx

/-! ## ld, st, ldc (R235, R236) -/

def insLd (ords : List Nat) : Ins where
  a := fun _ => opd 2
  b := fun _ => opd 1
  d := memOpd
  ok6 := fun _ x => tyIn tysMem x && ordOk ords x

def bodyLd (k : OpKind) (spaces : List Nat) : Body := fun e cx g f l d =>
  let q := memAddr e.now g f cx.x true
  let n := memSize cx.x
  match resolve g f l cx.fi q n spaces 1 true false with
  | .error (c, v) => d.trap e cx c v
  | .ok t => sendOp e cx g f d t { opOf k cx.x q n .read with dst := cx.x.d.toNat, dn := (memOpd cx.x).n }

def insSt : Ins where
  a := fun _ => opd 2
  b := fun _ => opd 1
  c := memOpd
  ok6 := fun _ x => tyIn tysMem x && ordOk [0, 2] x

def bodySt : Body := fun e cx g f l d =>
  let q := memAddr e.now g f cx.x true
  let n := memSize cx.x
  match resolve g f l cx.fi q n [0, 1, 2, 3, 4] 1 false true with
  | .error (c, v) => d.trap e cx c v
  | .ok t => sendOp e cx g f d t (opOf .st cx.x q n (.write (leBytes n (srcC f cx.x (memOpd cx.x).n))))

/-! ## atom, red (R237 to R239) -/

/-- The types an OP accepts (R238). -/
def rmwTyOk (op ty : Nat) : Bool :=
  match op with
  | 4 => [0x07, 0x08, 0x0A, 0x0B].contains ty
  | 5 => [0x07, 0x08, 0x0A, 0x0B].contains ty
  | 8 => [0x08, 0x0B].contains ty
  | 9 => [0x08, 0x0B].contains ty
  | o => o ≤ 9 && tys64.contains ty

def insAtom (ret : Bool) : Ins where
  a := fun _ => opd 2
  b := memOpd
  c := fun x => if ret && x.mf 26 23 = 7 then memOpd x else {}
  d := fun x => if ret then memOpd x else {}
  ok6 := fun _ x =>
    rmwTyOk (x.mf 26 23) (memTy x) && ordOk (if ret then [0, 1, 2, 3] else [0, 2]) x &&
    (ret || (x.mf 26 23 ≠ 6 && x.mf 26 23 ≠ 7))

def bodyAtom (ret : Bool) : Body := fun e cx g f l d =>
  let x := cx.x
  let q := memAddr e.now g f x false
  let n := memSize x
  match resolve g f l cx.fi q n [0, 1, 3] n true true with
  | .error (c, v) => d.trap e cx c v
  | .ok t =>
    let w := (memOpd x).n
    let a := Act.int (x.mf 26 23) (memTy x) (srcB e.now g f x w) (if ret && x.mf 26 23 = 7 then srcC f x w else 0)
    sendOp e cx g f d t
      { opOf (if ret then .atom else .red) x q n a with dst := if ret then x.d.toNat else 0, dn := if ret then w else 0 }

/-! ## atomf (R240) -/

/-- DEDUCED, log 15. -/
def insAtomf : Ins where
  a := fun _ => opd 2
  b := fun _ => opd 1
  d := fun x => if x.mb 31 then {} else opd 1
  ok6 := fun _ x => tyIn [0x10, 0x12, 0x13] x && x.mf 24 23 ≤ 2 && x.rnd ≤ 4 && ordOk [0, 1, 2, 3] x

def bodyAtomf : Body := fun e cx g f l d =>
  let x := cx.x
  let q := memAddr e.now g f x false
  match resolve g f l cx.fi q 4 [0, 1, 3] 4 true true with
  | .error (c, v) => d.trap e cx c v
  | .ok t =>
    let a := Act.flt (x.mf 24 23) (x.tyOr 0x10) x.rnd (srcB e.now g f x 1)
    sendOp e cx g f d t
      { opOf .atomf x q 4 a with dst := if x.mb 31 then 0 else x.d.toNat, dn := if x.mb 31 then 0 else 1 }

/-! ## atomfx (R241) -/

def insAtomfx : Ins where
  a := fun _ => opd 2
  b := fun _ => opd 1
  d := fun x => if x.mb 31 then {} else opd 4
  feat := fun _ _ => 1#32
  ok6 := fun _ x => x.mf 29 23 ≤ 96 && ordOk [0, 1, 2, 3] x

def bodyAtomfx : Body := fun e cx g f l d =>
  let x := cx.x
  let q := memAddr e.now g f x false
  match resolve g f l cx.fi q 32 [0, 1] 32 true true with
  | .error (c, v) => d.trap e cx c v
  | .ok t =>
    let a := Act.fx (x.mf 29 23) (srcB e.now g f x 1)
    -- VALUE and FLAGS: bytes 31 to 20 of the cell are never written
    sendOp e cx g f d t
      { opOf .atomfx x q 20 a with dst := if x.mb 31 then 0 else x.d.toNat, dn := if x.mb 31 then 0 else 4 }

/-! ## pfx (R264) -/

def insPfx : Ins where
  a := fun _ => opd 2
  b := fun _ => opd 1

/-- One line brought into its home slice, and into the core's L1; a line whose page truly faults is dropped. -/
def Dev.prefetch (e : Env) (d : Dev) (g : WG) (l1 : Bool) (va : Nat) : Dev :=
  match rangeLookup g.rng va with
  | none => d
  | some ia =>
    match d.reach e ia .rd with
    | (.at_ k, d') => if l1 && !d.uncachedAt e ia then d'.fillL1 e g.core (ia / 128) (k - ia % 128) false else d'
    | (.filling _, d') => d'
    | _ => d

def bodyPfx : Body := fun e cx g f l d =>
  let q := memAddr e.now g f cx.x false
  let n := srcB e.now g f cx.x 1
  if n > 65536 then d.illegal e cx
  else
    match resolve g { f with hnd := true } l cx.fi q n [0, 3, 4] 1 true false with
    | .ok (.glob va) =>
      let lines := if n = 0 then [] else (upFrom (va / 128) ((va + n - 1) / 128 - va / 128 + 1)).map (· * 128)
      (lines.foldl (fun d a => d.prefetch e g (cx.x.mb 31) a) d).advance cx
    | _ => d.trap e cx cSpaceInvalid q

/-! ## Meanings -/

/-- Compact `ld` (R147). -/
def execLd (g : BitVec 2) (n : Bool) (d a : BitVec 7) (i : BitVec 6) : State → Host.Outcome State Fault Refusal :=
  issue (insLd [0, 1]) (bodyLd .ld [0, 1, 2, 3, 4]) (.ld g n d a i) (twinDAI g n d a i)

def execLdExtended (x : X) : State → Host.Outcome State Fault Refusal :=
  issue (insLd [0, 1]) (bodyLd .ld [0, 1, 2, 3, 4]) (.ldExtended x) x

/-- Compact `st`: C is D (R151). -/
def execSt (g : BitVec 2) (n : Bool) (d a : BitVec 7) (i : BitVec 6) : State → Host.Outcome State Fault Refusal :=
  issue insSt bodySt (.st g n d a i) (twinDAIC g n d a i)

def execStExtended (x : X) : State → Host.Outcome State Fault Refusal := issue insSt bodySt (.stExtended x) x

/-- Compact `ldc` (R147). -/
def execLdc (g : BitVec 2) (n : Bool) (d a : BitVec 7) (i : BitVec 6) : State → Host.Outcome State Fault Refusal :=
  issue (insLd [0]) (bodyLd .ldc [0, 4]) (.ldc g n d a i) (twinDAI g n d a i)

def execLdcExtended (x : X) : State → Host.Outcome State Fault Refusal :=
  issue (insLd [0]) (bodyLd .ldc [0, 4]) (.ldcExtended x) x

def execAtom (x : X) : State → Host.Outcome State Fault Refusal := issue (insAtom true) (bodyAtom true) (.atom x) x

def execRed (x : X) : State → Host.Outcome State Fault Refusal := issue (insAtom false) (bodyAtom false) (.red x) x

def execAtomf (x : X) : State → Host.Outcome State Fault Refusal := issue insAtomf bodyAtomf (.atomf x) x

def execAtomfx (x : X) : State → Host.Outcome State Fault Refusal := issue insAtomfx bodyAtomfx (.atomfx x) x

def execPfx (x : X) : State → Host.Outcome State Fault Refusal := issue insPfx bodyPfx (.pfx x) x

/-- LOAD_RESULT_LANDS: operand a is the operation. -/
def execLoadResultLands : State → Host.Outcome State Fault Refusal :=
  event fun e d =>
    match d.op? d.arg.a with
    | some o => if o.ready && !o.frozen then d.land e o else d
    | none => d

/-- HOME_REQUEST: operation and part. -/
def execHomeRequest : State → Host.Outcome State Fault Refusal := event fun e d => d.homeRequest e d.arg.a d.arg.b

/-- MTU_WALK: operation and part. -/
def execMtuWalk : State → Host.Outcome State Fault Refusal := event fun e d => d.mtuWalk e d.arg.a d.arg.b

/-- PAGE_FILL_COMPLETE: operand a is the page. -/
def execPageFillComplete : State → Host.Outcome State Fault Refusal := event fun e d => d.fillDone e d.arg.a

/-- EPISODE_RELEASE: operand a is the page. -/
def execEpisodeRelease : State → Host.Outcome State Fault Refusal := event fun e d => d.releaseEpisode e d.arg.a

/-- The line leaves the L1 of a core once its 8,192 cc have passed (R114). -/
def execL1LineExpiry : State → Host.Outcome State Fault Refusal :=
  event fun e d => d.modCore d.arg.a fun k =>
    { k with l1 := k.l1.filter fun l => l.line ≠ d.arg.b || e.now < l.stamp + 8192 }

/-! ### Tags on their way (R394, R395) -/

/-- TAG_RETIRE_BATCH: the core sends its gathered retirements. -/
def execTagRetireBatch : State → Host.Outcome State Fault Refusal :=
  event fun _ d =>
    let c := d.arg.a
    let d := { d with retq := d.retq ++ (d.core c).gathered.map fun t => (t, c) }
    d.modCore c fun k => { k with gathered := [] }

/-- TAG_RETIREMENT_RECEIVE: the homes drop the tag; a tag of another core is forwarded to it. -/
def execTagRetirementReceive : State → Host.Outcome State Fault Refusal :=
  event fun _ d =>
    match d.retq[d.arg.a]? with
    | none => d
    | some (t, c) =>
      let d := { d with retq := d.retq.eraseIdx d.arg.a, tags := d.tags.filter fun u => u.tag ≠ t }
      let d := (List.range 64).foldl (fun d s => d.quotaGo (tagCtx t) s) d
      if tagCore t = c then d.modCore c fun k => { k with outst := k.outst.filter (· ≠ t) }
      else { d with fwd := d.fwd ++ [(tagCore t, t)] }

/-- TAG_PIN_RELEASE: core and tag of a forwarded retirement. -/
def execTagPinRelease : State → Host.Outcome State Fault Refusal :=
  event fun _ d =>
    let d' := { d with fwd := d.fwd.filter fun p => p ≠ (d.arg.a, d.arg.b) }
    if d.fwd.contains (d.arg.a, d.arg.b) then d'.modCore d.arg.a fun k => { k with outst := k.outst.filter (· ≠ d.arg.b) } else d'

/-- TAG_QUOTA_STOP: core, context, slice. DEDUCED, log 21. -/
def execTagQuotaStop : State → Host.Outcome State Fault Refusal :=
  event fun _ d => d.modCore d.arg.a fun k =>
    { k with stops := (d.arg.b, d.arg.c) :: k.stops.filter fun p => p ≠ (d.arg.b, d.arg.c) }

/-- TAG_QUOTA_GO: core, context, slice. -/
def execTagQuotaGo : State → Host.Outcome State Fault Refusal :=
  event fun _ d => d.modCore d.arg.a fun k => { k with stops := k.stops.filter fun p => p ≠ (d.arg.b, d.arg.c) }

/-- HW_TIMEOUT: an access to an uncached page that the hub did not complete ends its work-group (R234, R375).
DESIGN CHOICE, log 40. -/
def execHwTimeout : State → Host.Outcome State Fault Refusal :=
  event fun e d =>
    match d.op? d.arg.a with
    | none => d
    | some o =>
      match o.parts.find? fun p => !p.st.over && match d.partIa o p with
          | some ia => d.uncachedAt e ia
          | none => false with
      | none => d
      | some p =>
        let d := (d.dropOp o.id).retireTag e o.core o.tag
        d.async o.wg o.fib cTimeout (vaWide p.va)

end Sys2Proof.Machine
end

