-- ==== Sys2Proof/Machine/Sync.lean ====
section
/-! DEFINITION. Fences, full/empty access to vault granules and barrier registers (spec/09, R242 to R252). -/
namespace Sys2Proof.Machine

open Sys2Proof

/-! ## fence, fencep (R242, R243) -/

def insFence : Ins where
  ok6 := fun _ x => ordOk [1, 2, 3, 4] x

/-- What a fence waits for: the fibre's older operations, and at `.dev` or wider its parked ones (R128, R140).
DEDUCED, log 21. -/
def Dev.fenceOpen (e : Env) (d : Dev) (g : WG) (i : Nat) (scope grp : Nat) : Bool :=
  d.olderOpen g.id i d.nextId || (d.scopeParks e g scope grp && d.parksOpen g.id i)

def bodyFence : Body := fun e cx g _ _ d =>
  let x := cx.x
  if d.fenceOpen e g cx.fi x.scope x.grp then d.block cx (.ops d.nextId (d.scopeParks e g x.scope x.grp))
  else
    let d := if ordAcq x.ord && d.scopeWide e g x.scope x.grp then d.invalidateL1 g.core else d
    d.advance cx

def insFencep : Ins where
  a := fun _ => opd 1
  ok6 := fun _ x => ordOk [1] x

/-- The victim lies in the scope (R139). DEDUCED, log 21. -/
def Dev.victimIn (e : Env) (d : Dev) (g : WG) (v scope grp : Nat) : Bool :=
  match scope with
  | 0 => false
  | 1 => v = g.core
  | 2 => v / 256 = g.core / 256
  | 6 => v = g.core || ((d.groupMask e g grp 0 64).testBit v && (d.groupMask e g grp 64 16).testBit d.hub.rank)
  | _ => true

/-- Stores of a core older than `before` that have not reached their homes. -/
def Dev.drainOpen (d : Dev) (core before : Nat) : Bool :=
  d.ops.any fun o => o.core = core && o.id < before && o.act.writes && !o.kind.isCopy && !o.frozen &&
    o.parts.any fun p => p.st = .sent

/-- FENCEP_VICTIM_DRAIN: every store issued on the core goes to its home. DEDUCED, log 21. -/
def Dev.drain (e : Env) (d : Dev) (core : Nat) : Dev :=
  let os := d.ops.filter fun o => o.core = core && o.act.writes && !o.kind.isCopy
  os.foldl (fun d o => (d.homeRequest e o.id 0).homeRequest e o.id 1) d

def bodyFencep : Body := fun e cx g f l d =>
  let x := cx.x
  let v := srcA e.now g f x 1
  let core := if x.mb 23 then (if v < l.r.members then (d.member g v).map (·.core) else none) else if v < 512 then some v else none
  match core with
  | none => d.illegal e cx
  | some v =>
    if d.fenceOpen e g cx.fi x.scope x.grp then d.block cx (.ops d.nextId (d.scopeParks e g x.scope x.grp))
    else if !d.victimIn e g v x.scope x.grp then
      (if d.scopeWide e g x.scope x.grp then d.invalidateL1 g.core else d).advance cx
    else
      let d := d.drain e v
      if d.drainOpen v d.nextId then d.block cx (.drain v d.nextId)
      else ((d.invalidateL1 v).invalidateL1 (if d.scopeWide e g x.scope x.grp then g.core else v)).advance cx

/-! ## ldfe, stfe, fezap, feprb (R244 to R248) -/

/-- Types of 4, 8 or 16 bytes. -/
def tysFe : List Nat := upFrom 7 9

/-- The fibre has an older vault access that has not been performed. -/
def Dev.vaultOpen (d : Dev) (w i : Nat) : Bool :=
  d.ops.any fun o => o.wg = w && o.fib = i && ptrSpace o.addr = 1 && !o.kind.isCopy && !o.performed

def insLdfe : Ins where
  a := fun _ => opd 2
  b := fun _ => opd 1
  d := memOpd
  ok6 := fun _ x => tyIn tysFe x

/-- A full granule is taken at once; on an empty one the fibre blocks (R245). Nothing reads D while its fibre is blocked, so D is
marked empty when the value is taken. -/
def bodyLdfe : Body := fun e cx g f l d =>
  let x := cx.x
  let q := memAddr e.now g f x true
  let n := memSize x
  match resolve g f l cx.fi q n [1] n true false with
  | .error (c, v) => d.trap e cx c v
  | .ok (.vault rank off) =>
    match d.member g rank with
    | none => d
    | some h =>
      let a : Take :=
        { rank := rank, gran := off / 16, grp := cx.grp, clr := x.mb 31, addr := q, size := n, dst := x.d.toNat,
          dn := (memOpd x).n, len := x.len, m := x.m }
      if d.vaultOpen cx.wg cx.fi then d.block cx (.ops d.nextId false)
      else if !h.granFull (off / 16) then d.block cx (.granule a)
      else
        let r := d.takeFill e cx.wg cx.fi g h a
        r.2.hold cx (.op r.1)
  | .ok _ => d

def insStfe : Ins where
  a := fun _ => opd 2
  b := fun _ => opd 1
  c := memOpd
  ok6 := fun _ x => tyIn tysFe x

def bodyStfe : Body := fun e cx g f l d =>
  let x := cx.x
  let q := memAddr e.now g f x true
  let n := memSize x
  match resolve g f l cx.fi q n [1] n false true with
  | .error (c, v) => d.trap e cx c v
  | .ok t =>
    -- it waits at issue for what the fibre issued before (R135, R389)
    sendOp e cx g f d t
      { opOf .st x q n (.write (leBytes n (srcC f x (memOpd x).n))) with scope := 2, sgrp := 0, acq := false, rel := true, mark := 1 }

def insFezap : Ins where
  a := fun _ => opd 2
  b := fun _ => opd 1

def bodyFezap : Body := fun e cx g f l d =>
  let q := memAddr e.now g f cx.x false
  let n := srcB e.now g f cx.x 1
  match resolve g { f with hnd := true } l cx.fi q n [1] 1 false true with
  | .error (c, v) => d.trap e cx c v
  | .ok (.vault rank off) =>
    match d.member g rank with
    | none => d
    | some h =>
      if d.vaultOpen cx.wg cx.fi then d.block cx (.ops d.nextId false)
      else
        let gs := if n = 0 then [] else upFrom (off / 16) ((off + n - 1) / 16 - off / 16 + 1)
        (d.modWg h.id fun h => gs.foldl (fun h k => h.setEmpty k) h).advance cx
  | .ok _ => d

def insFeprb : Ins where
  a := fun _ => opd 2
  d := fun _ => opd 1
  wp := fun x => [x.dx.toNat]

def bodyFeprb : Body := fun e cx g f l d =>
  let x := cx.x
  let q := f.nat x.a.toNat 2
  match resolve g { f with hnd := true } l cx.fi q 1 [1] 1 true false with
  | .error (c, v) => d.trap e cx c v
  | .ok (.vault rank off) =>
    match d.member g rank with
    | none => d
    | some h =>
      if d.vaultOpen cx.wg cx.fi then d.block cx (.ops d.nextId false)
      else
        let bit (i : Nat) : Nat := if 16 * (off / 16 + i) < l.r.v && h.granFull (off / 16 + i) then 2 ^ i else 0
        let v := (List.range 32).foldl (fun s i => s + bit i) 0
        (d.modFib cx.wg cx.fi fun f => (f.setWords x.d.toNat [BitVec.ofNat 32 v]).setPred x.dx.toNat (v.testBit 0)).advance cx
  | .ok _ => d

/-! ## Barrier registers (R249 to R252) -/

/-- The register BR names. -/
def brOf (x : X) : Nat := x.mf 26 23

def WG.bar (g : WG) (b : Nat) : Bar := g.bars.getD b {}

def WG.setBar (g : WG) (b : Nat) (v : Bar) : WG := { g with bars := putAt v g.bars b }

/-- An evaluation: a completed phase reloads PEND, flips PHASE and commits the uniform registers (R250, R58). -/
def WG.evalBar (g : WG) (now b : Nat) : WG :=
  let r := g.bar b
  if r.init && r.pend = 0 && r.bytes = 0 then
    (g.setBar b { r with pend := r.expect, phase := !r.phase }).kCommit now
  else g

/-- Landed bytes and arrivals of a copy counted on a register, before one evaluation; out of range, the register stands and
BARRIER_FAULT is raised ASYNC (R252). -/
def Dev.landBar (e : Env) (d : Dev) (w i b bytes arrivals : Nat) : Dev :=
  match d.wg? w with
  | none => d
  | some g =>
    let r := g.bar b
    if r.bytes - bytes < -(2 ^ 31 : Int) || r.pend < arrivals then d.async w i cBarrier b
    else d.modWg w fun g => (g.setBar b { r with bytes := r.bytes - bytes, pend := r.pend - arrivals }).evalBar e.now b

def insBar (exp : Bool) : Ins where
  b := fun _ => opd 1
  wp := fun x => if exp then [x.dx.toNat] else []
  inHandler := false

def barFault (e : Env) (cx : Cx) (d : Dev) : Dev := d.trap e cx cBarrier (brOf cx.x)

def bodyBarInit : Body := fun e cx g f _ d =>
  let b := srcB e.now g f cx.x 1
  let r := g.bar (brOf cx.x)
  if b = 0 || b > 4095 || (r.init && (r.pend ≠ r.expect || r.bytes ≠ 0)) then barFault e cx d
  else
    -- the register keeps the value of the highest-indexed fibre of the cc (R36)
    (d.modWg cx.wg fun g =>
      if r.initAt = e.now && r.initBy > cx.fi then g
      else g.setBar (brOf cx.x) { r with expect := b, pend := b, bytes := 0, init := true, initAt := e.now, initBy := cx.fi }).advance cx

/-- An arrival is a release at `.wg`: the fibre's older operations are performed first. -/
def bodyBarArv : Body := fun e cx g f _ d =>
  let b := srcB e.now g f cx.x 1
  let r := g.bar (brOf cx.x)
  if d.olderOpen cx.wg cx.fi d.nextId then d.block cx (.ops d.nextId false)
  else if !r.init || b = 0 || b > 4095 || b > r.pend then barFault e cx d
  else
    (d.modWg cx.wg fun g => (g.setBar (brOf cx.x) { r with pend := r.pend - b }).evalBar e.now (brOf cx.x)).advance cx

def bodyBarExp : Body := fun e cx g f _ d =>
  let b := srcB e.now g f cx.x 1
  let r := g.bar (brOf cx.x)
  let arv := cx.x.mb 27
  if arv && d.olderOpen cx.wg cx.fi d.nextId then d.block cx (.ops d.nextId false)
  else if !r.init || r.bytes + b > 2 ^ 31 - 1 || (arv && r.pend = 0) then barFault e cx d
  else
    let r := { r with bytes := r.bytes + b, pend := if arv then r.pend - 1 else r.pend }
    (d.modWg cx.wg fun g => (g.setBar (brOf cx.x) r).evalBar e.now (brOf cx.x)).advance cx

def bodyBarWait : Body := fun e cx g f _ d =>
  let p := (srcB e.now g f cx.x 1).testBit 0
  let r := g.bar (brOf cx.x)
  if !r.init then barFault e cx d
  else if r.phase = p then d.block cx (.bar (brOf cx.x) p)
  else d.advance cx

def bodyBarTest : Body := fun e cx g f _ d =>
  let p := (srcB e.now g f cx.x 1).testBit 0
  let r := g.bar (brOf cx.x)
  if !r.init then barFault e cx d
  else (d.modFib cx.wg cx.fi (·.setPred cx.x.dx.toNat (r.phase != p))).advance cx

/-! ## Meanings -/

def execFence (x : X) : State → Host.Outcome State Fault Refusal := issue insFence bodyFence (.fence x) x

def execFencep (x : X) : State → Host.Outcome State Fault Refusal := issue insFencep bodyFencep (.fencep x) x

def execLdfe (x : X) : State → Host.Outcome State Fault Refusal := issue insLdfe bodyLdfe (.ldfe x) x

def execStfe (x : X) : State → Host.Outcome State Fault Refusal := issue insStfe bodyStfe (.stfe x) x

def execFezap (x : X) : State → Host.Outcome State Fault Refusal := issue insFezap bodyFezap (.fezap x) x

def execFeprb (x : X) : State → Host.Outcome State Fault Refusal := issue insFeprb bodyFeprb (.feprb x) x

def execBarInit (x : X) : State → Host.Outcome State Fault Refusal := issue (insBar false) bodyBarInit (.barInit x) x

def execBarArv (x : X) : State → Host.Outcome State Fault Refusal := issue (insBar false) bodyBarArv (.barArv x) x

def execBarExp (x : X) : State → Host.Outcome State Fault Refusal := issue (insBar false) bodyBarExp (.barExp x) x

def execBarWait (x : X) : State → Host.Outcome State Fault Refusal := issue (insBar false) bodyBarWait (.barWait x) x

def execBarTest (x : X) : State → Host.Outcome State Fault Refusal := issue (insBar true) bodyBarTest (.barTest x) x

end Sys2Proof.Machine
end

