-- ==== Sys2Proof/Machine/Copy.lean ====
section
/-! DEFINITION. Copies: `cpy`, `tcpy` and its units, `tcpyc`, copy counters (spec/09, R253 to R263; spec/17, R398). -/
namespace Sys2Proof.Machine

open Sys2Proof

/-! ## Reading and writing for a unit of the device (R408, R412, R416, R417) -/

/-- What a read by a unit finds: bytes (and whether poison is among them), a page it waits on, or a fatal end. -/
inductive Rd where
  | ok (bs : List Byte) (bad : Bool)
  | wait (page : Nat)
  | lost (cause va : Nat)
  deriving DecidableEq, Repr

/-- Who asks, for the fault record. -/
structure Asker where
  wg : Nat
  core : Nat
  unit : Nat
  h0 : Nat := 0
  h1 : Nat := 0
  fsvc : Bool := false
  /-- Context, partition and pass of a request no work-group makes. -/
  own : Option (Nat × Nat) := none
  pass : Option Nat := none

/-- What the fault record says of the asker. -/
def Asker.by_ (k : Asker) (d : Dev) (kind va ia : Nat) : FaultBy :=
  let f : FaultBy := { d.faultBy k.wg k.core kind k.unit va ia with h0 := k.h0, h1 := k.h1 }
  match k.own with
  | some (c, p) => { f with ctx := c, part := p }
  | none => f

/-- The asker's context. -/
def Asker.ctx (k : Asker) (d : Dev) : Nat :=
  match k.own with
  | some (c, _) => c
  | none => ((d.wg? k.wg).map (·.ctx.ctxid)).getD 0

/-- A read within one line at a virtual address. -/
def Dev.readLine (e : Env) (d : Dev) (rs : List Range) (k : Asker) (va n : Nat) : Rd × Dev :=
  match rangeLookup rs va with
  | none => (.lost cUnmapped (va57 va), d)
  | some ia =>
    match d.reach e ia .rd with
    | (.at_ key, d) =>
      let d := d.dieTouch k.core ia key false
      (.ok (d.bytes e key n) (d.poisoned key n), d)
    | (.bad, d) => (.ok (List.replicate n 0#8) true, d)
    | (.filling p, d) => (.wait p, d)
    | (.pend p, d) => (.wait p, d)
    | (.fault r l, d) =>
      if k.fsvc then (.lost cPageFatal (va57 va), d)
      else (.wait (ia / 2 ^ 16), d.openEpisode (k.by_ d 0 va ia) r l)
    | (.fatal c, d) => (.lost c (va57 va), d)

/-- A read of `n` bytes, line by line. -/
def Dev.readG (e : Env) (rs : List Range) (k : Asker) : Nat → Dev → Nat → Nat → Rd × Dev
  | 0, d, _, _ => (.ok [] false, d)
  | fuel + 1, d, va, n =>
    if n = 0 then (.ok [] false, d)
    else
      let m := min n (128 - va % 128)
      match d.readLine e rs k va m with
      | (.ok bs bad, d) =>
        match Dev.readG e rs k fuel d (va + m) (n - m) with
        | (.ok cs bad2, d) => (.ok (bs ++ cs) (bad || bad2), d)
        | r => r
      | r => r

/-- Lines that a run of `n` bytes can touch. -/
def linesOf (n : Nat) : Nat := n / 128 + 2

inductive Wr where
  | done | parked
  | wait (page : Nat)
  | lost (cause va : Nat)
  deriving DecidableEq, Repr

/-- The unit of a tile copy, the row of an `ast` or of a commit, or the place of a merger's write, that an access carries in MARK, plus 1:
several of them may lie in one 16-byte place, and each is performed once (R260, R262, R273, R284, R390, R398). -/
def Op.piece (o : Op) : Nat :=
  if o.kind = .tcpy || o.kind = .tcpyc || o.kind = .ast || o.kind = .omst || o.kind = .kbins then o.mark + 1 else 0

/-- A write of a unit parked on a pending page, once (R393, R417). -/
def Dev.parkUnit (d : Dev) (k : Asker) (o : Op) (va ia : Nat) (a : Act) : Wr × Dev :=
  let known (q : Episode) : Bool := inPages q.page q.n (ia / 2 ^ 16) && q.log.any fun r => r.tag = o.tag && o.tag ≠ 0 && r.ia = ia && r.piece = o.piece
  if d.eps.any known then (.parked, d)
  else if d.parkedCount ≥ 65536 then (.wait (ia / 2 ^ 16), d)
  else
    let g := d.wg? k.wg
    (.parked, d.park { id := o.id, tag := o.tag, wg := k.wg, fib := o.fib, launch := (g.map (·.launch)).getD 0, pass := k.pass,
                       ctx := k.ctx d, va := va57 va, ia := ia, act := a, piece := o.piece })

/-- Read or write in a fault record's KIND. -/
def Act.kind : Act → Nat
  | .read => 0
  | .write _ => 1
  | _ => 2

/-- A write or read-modify-write within one line, at its home once for its tag and unit. -/
def Dev.writeLine (e : Env) (d : Dev) (rs : List Range) (k : Asker) (o : Op) (va n : Nat) (a : Act) : Wr × Dev :=
  match rangeLookup rs va with
  | none => (.lost cUnmapped (va57 va), d)
  | some ia =>
    let units := unitMask ia n
    if (d.unitsDone o.tag ia units o.piece).isSome then (.done, d)
    else
      let d := d.registerTag o.tag (ia / 128) 0 []
      match d.reach e ia .wr with
      | (.at_ key, d) =>
        let d := ((d.dieTouch k.core ia key true).actAt e key n a).1
        (.done, (d.updateL1 k.core ia (d.bytes e key n)).registerTag o.tag (ia / 128) units [] o.piece)
      | (.bad, d) =>
        (.done, if isDirect ia then d.postBadWrite k.core (k.ctx d) ia else d)
      | (.filling p, d) => (.wait p, d)
      | (.pend _, d) => d.parkUnit k o va ia a
      | (.fault r l, d) =>
        if k.fsvc then (.lost cPageFatal (va57 va), d)
        else (d.openEpisode (k.by_ d a.kind va ia) r l).parkUnit k o va ia a
      | (.fatal c, d) => (.lost c (va57 va), d)

/-- A write that no copy's tag covers, line by line. -/
def Dev.writeG (e : Env) (rs : List Range) (k : Asker) (o : Op) : Nat → Dev → Nat → List Byte → Wr × Dev
  | 0, d, _, _ => (.done, d)
  | fuel + 1, d, va, bs =>
    match bs with
    | [] => (.done, d)
    | _ =>
      let m := min bs.length (128 - va % 128)
      match d.writeLine e rs k o va m (.write (bs.take m)) with
      | (.wait p, d) => (.wait p, d)
      | (.lost c v, d) => (.lost c v, d)
      | (_, d) => Dev.writeG e rs k o fuel d (va + m) (bs.drop m)

/-! ## Sources and destinations of copies -/

/-- A target moved by a byte distance. -/
def Tgt.plus (t : Tgt) (n : Int) : Tgt :=
  match t with
  | .glob va => .glob (bitsOf (va + n) 57)
  | .vault r off => .vault r (off + n).toNat
  | .acc off => .acc (off + n).toNat

/-- Bytes read by a copy from either kind of source. -/
def Dev.readT (e : Env) (d : Dev) (g : WG) (k : Asker) (t : Tgt) (n : Nat) : Rd × Dev :=
  match t with
  | .glob va => Dev.readG e g.rng k (linesOf n) d va n
  | .vault r off =>
    match d.member g r with
    | some h => (.ok (h.vaultBytes off n) (h.vaultBad off n), d)
    | none => (.ok (List.replicate n 0#8) false, d)
  | .acc off => (.ok (g.tileBytes off n) false, d)

/-- The kind of target a pointer names: no bounds are checked here. -/
def tgtOf (g : WG) (l : Launch) (i q : Nat) : Tgt :=
  let a := ptrAddr q
  match ptrSpace q with
  | 1 => .vault (a / 2 ^ 52) (a % 2 ^ 22)
  | 2 => .acc (a % 2 ^ 21)
  | 3 => .glob (privateVa g l i (a % 2 ^ 32))
  | 4 => .glob (va57 (l.r.cbase + a % 2 ^ 32))
  | _ => .glob (va57 a)

/-- A run of offsets from `lo` to `hi` (exclusive) around pointer `q` passes R102: the pointer has its space's layout, and the lowest and
the highest address are in order. -/
def spanOk (g : WG) (f : Fib) (l : Launch) (i q : Nat) (lo hi : Int) (spaces : List Nat) (wr : Bool) : Except (Nat × Nat) Tgt :=
  let one (off : Int) (n : Nat) : Except (Nat × Nat) Tgt := resolve g { f with hnd := true } l i (ptrAdd q off) n spaces 1 (!wr) wr
  if !spaces.contains (ptrSpace q) then .error (cSpaceInvalid, q)
  else if !ptrShape q then .error (if ptrSpace q = 1 || ptrSpace q = 2 then cVaultRange else cSpaceInvalid, q)
  else
    match one lo (if lo < hi then 1 else 0), one (if lo < hi then hi - 1 else lo) (if lo < hi then 1 else 0) with
    | .error (c, _), _ => .error (c, q)
    | _, .error (c, _) => .error (c, q)
    | .ok _, .ok _ => .ok (tgtOf g l i q)

/-- The number of a `cpy`'s granule within the vault of its member. -/
def Op.cpyGran (o : Op) (i : Nat) : Nat := ptrAddr (wordsNat (o.st.take 2)) % 2 ^ 22 / 16 + i

/-- The member a `cpy` writes. -/
def Op.cpyRank (o : Op) : Nat := ptrAddr (wordsNat (o.st.take 2)) / 2 ^ 52

/-- Two copies of one instruction write a granule in common (R115). -/
def Op.sharesGranule (o q : Op) : Bool :=
  q.kind = .cpy && q.grp = o.grp && !q.frozen && q.cpyRank = o.cpyRank && q.cpyGran 0 ≤ o.cpyGran 1 && o.cpyGran 0 ≤ q.cpyGran 1

/-- A copy of its instruction, with a lower rank, still has to write a granule of this one (R115). -/
def Dev.copyBefore (d : Dev) (o : Op) : Bool := d.ops.any fun q => q.id < o.id && o.sharesGranule q && q.mark ≠ 3

/-- An older store of the fibre still has to act: a copy reads after it (R136). -/
def Dev.writesBefore (d : Dev) (o : Op) : Bool :=
  d.ops.any fun q => q.id < o.id && q.wg = o.wg && q.fib = o.fib && q.act.writes && !q.kind.isCopy && !q.frozen &&
    q.parts.any fun p => !p.st.over && p.st ≠ .parked

/-- A read by a unit of the core may not begin yet (R124, R403). -/
def Dev.unitWaits (d : Dev) (o : Op) : Bool := d.writesBefore o || d.behindEntries o

/-- An older copy of the fibre still reads a byte that this one writes (R124, R136). -/
def Dev.readsBefore (d : Dev) (o : Op) (spans : List (Nat × Nat × Nat)) : Bool :=
  d.ops.any fun q => q.id < o.id && q.wg = o.wg && q.fib = o.fib && !q.frozen && spans.any fun s => q.readsAt (s.1, s.2.1) (s.2.2 - s.2.1)

/-- One copy of the tag is done. -/
def Fib.dropCopy (f : Fib) (t : Nat) : Fib := { f with cnt := putAt (f.cnt.getD t 0 - 1) f.cnt t }

/-- A copy is over: its tag retires, and its counter falls where its fibre has not exited (R254, R262). -/
def Dev.endCopy (e : Env) (d : Dev) (o : Op) (t : Nat) : Dev :=
  let d := (d.dropOp o.id).retireTag e o.core o.tag
  if o.discard then d else d.modFib o.wg o.fib (·.dropCopy t)

/-- A poisoned unit written to a vault keeps its poison (R478). -/
def Dev.vaultPut (d : Dev) (w off : Nat) (bs : List Byte) (bad : Bool) : Dev :=
  let d := d.vaultWrite w off bs
  if bad then d.modWg w fun g => { g with vbad := (upFrom off bs.length).foldl (fun l k => insNat k l) g.vbad } else d

/-! ## cpy (R253) -/

def insCpy : Ins where
  a := fun _ => opd 2
  b := fun _ => opd 1
  d := fun _ => opd 2

def copyTag (x : X) : Nat := x.mf 14 12

def bodyCpy : Body := fun e cx g f l d =>
  let x := cx.x
  let dst := f.nat x.d.toNat 2
  let src := f.nat x.a.toNat 2
  let n := srcB e.now g f x 1
  let t := copyTag x
  if ptrSpace dst ≠ 1 then d.trap e cx cSpaceInvalid dst
  else if !([0, 3, 4].contains (ptrSpace src)) then d.trap e cx cSpaceInvalid src
  else if ptrAddr dst % 16 ≠ 0 then d.illegal e cx
  else
    match spanOk g f l cx.fi dst 0 32 [1] true with
    | .error (c, v) => d.trap e cx c v
    | .ok _ =>
      if n > 32 then d.illegal e cx
      else
        match spanOk g f l cx.fi src 0 n [0, 3, 4] false with
        | .error (c, v) => d.trap e cx c v
        | .ok at_ =>
          let rank := ptrAddr dst / 2 ^ 52
          let remote := ((d.member g rank).map (·.core)).getD g.core ≠ g.core
          if f.cnt.getD t 0 ≥ 255 then d.block cx (.copyRoom t false)
          else if remote && d.tagBlocked g cx.fi f none (cx.instr f) then d.tagHold cx f none
          else
            let (tag, d) := if remote then d.takeTag g f else (0, d)
            let (id, d) := d.takeId
            let (lat, d) := d.choose 64
            let o : Op :=
              { id := id, kind := .cpy, wg := cx.wg, fib := cx.fi, ord := g.issue, grp := cx.instr f, tag := tag, core := g.core,
                addr := src, size := n, m := x.m, st := natWords 2 dst, act := .write [], reads := spansOf g at_ n, due := e.now + 1 + lat,
                sentAt := e.now }
            let d := { d with ops := d.ops ++ [o] }.modWg cx.wg fun g => { g with issue := g.issue + 1 }
            (d.modFib cx.wg cx.fi fun f => { f with cnt := putAt (f.cnt.getD t 0 + 1) f.cnt t }).advance cx

/-- Granule `n` of a member's vault is written by a `cpy`: it is set full, once for the copies of one instruction (R109, R115). A copy of
a higher rank that still has to write it sets it full in its turn, even where it is given up. -/
def Dev.cpyFill (e : Env) (d : Dev) (o : Op) (h n : Nat) : Dev :=
  let later (q : Op) : Bool := q.id > o.id && o.sharesGranule q && (q.cpyGran 0 = n && !q.mark.testBit 0 || q.cpyGran 1 = n && !q.mark.testBit 1)
  if d.ops.any later then
    { d with ops := d.ops.map fun q => if later q then { q with win := setBit q.win (n - q.cpyGran 0) } else q }
  else d.fillGran e h n

/-- One granule of a `cpy`: its valid bytes, then zeros. A granule of a member that has retired goes nowhere. DESIGN CHOICE, log 47. -/
def Dev.cpyGranule (e : Env) (d : Dev) (id i : Nat) : Dev :=
  match d.op? id with
  | none => d
  | some o =>
    match d.wg? o.wg with
    | none => d
    | some g =>
      match d.launch? g.launch with
      | none => d
      | some l =>
        if o.mark.testBit i then d
        else
          let k : Asker := { wg := o.wg, core := o.core, unit := 0, fsvc := g.ctx.fsvc }
          let n := min 16 (o.size - 16 * i)
          let dst := wordsNat o.st
          match d.readT e g k ((tgtOf g l o.fib o.addr).plus (16 * i)) n with
          | (.ok bs bad, d) =>
            match d.member g (ptrAddr dst / 2 ^ 52) with
            | none => d.modOp id fun o => { o with mark := setBit o.mark i }
            | some h =>
              let off := ptrAddr dst % 2 ^ 22 + 16 * i
              let d := d.vaultPut h.id off (bs ++ List.replicate (16 - n) 0#8) bad
              (d.cpyFill e o h.id (off / 16)).modOp id fun o => { o with mark := setBit o.mark i }
          | (.wait p, d) => d.modOp id fun o => { o with heldOn := some p }
          | (.lost c v, d) =>
            -- given up: not written, not set full, but complete (R262)
            let d := match o.win.testBit i, d.member g o.cpyRank with
              | true, some h => d.cpyFill e o h.id (o.cpyGran i)
              | _, _ => d
            (d.asyncOp o c v).modOp id fun o => { o with mark := setBit o.mark i }

/-- A `cpy` may not land yet: an older store, copy or entry is in the way (R115, R124, R136, R403). -/
def Dev.copyWaits (d : Dev) (o : Op) : Bool :=
  d.writesBefore o || d.copyBefore o || d.behindEntries o ||
  d.readsBefore o [(2 ^ 60 + o.cpyRank, 16 * o.cpyGran 0, 16 * o.cpyGran 0 + 32)]

/-- CPY_LANDING: operand a is the operation. Both granules landed, the counter falls. -/
def Dev.cpyLand (e : Env) (d : Dev) (id : Nat) : Dev :=
  match d.op? id with
  | none => d
  | some o =>
    if o.kind ≠ .cpy || o.frozen || d.copyWaits o then d
    else
      let d := (d.cpyGranule e id 0).cpyGranule e id 1
      match d.op? id with
      | some o =>
        if o.mark = 3 then d.endCopy e o (copyTag { twin 0#2 false with m := o.m }) else d
      | none => d

/-! ## cpywait, cpytest (R255) -/

def insCpywait : Ins := {}

def bodyCpywait : Body := fun _ cx g f _ d =>
  let t := copyTag cx.x
  if f.cnt.getD t 0 = 0 then (d.invalidateL1 g.core).advance cx else d.block cx (.tag t)

def insCpytest : Ins where
  d := fun _ => opd 1
  wp := fun x => [x.dx.toNat]

def bodyCpytest : Body := fun _ cx g f _ d =>
  let n := f.cnt.getD (copyTag cx.x) 0
  let d := if n = 0 then d.invalidateL1 g.core else d
  (d.modFib cx.wg cx.fi fun f => (f.setWords cx.x.d.toNat [BitVec.ofNat 32 n]).setPred cx.x.dx.toNat (decide (n = 0))).advance cx

/-! ## Tile copy descriptors (R256 to R261) -/

/-- A descriptor with its mode. -/
structure Tcd where
  mode : Nat
  src : Nat
  dst : Nat
  w4 : Nat
  ss : Int
  ds : Int
  w7 : Nat
  slot : Word
  deriving DecidableEq, Repr

def tcdOf (mode : Nat) (slot : Word) (ws : List Word) : Tcd :=
  { mode := mode, src := wordsNat (ws.take 2), dst := wordsNat ((ws.drop 2).take 2), w4 := (ws.getD 4 0#32).toNat,
    ss := (ws.getD 5 0#32).toInt, ds := (ws.getD 6 0#32).toInt, w7 := (ws.getD 7 0#32).toNat, slot := slot }

def Tcd.rows (t : Tcd) : Nat := if t.mode = 0 then 1 else t.w4 / 2 ^ 16
def Tcd.cols (t : Tcd) : Nat := if t.mode = 0 then t.w4 else t.w4 % 2 ^ 16
def Tcd.sf (t : Tcd) : Nat := t.w7 % 32
def Tcd.rop (t : Tcd) : Nat := bitsN t.w7 17 16
def Tcd.p (t : Tcd) : Nat := bitsN t.w7 24 18

/-- Planes of the slot's format (R258). -/
def planesOf (s : Word) : Nat :=
  match slE s with
  | .int w _ => w
  | .fp f => f.width

/-- Kept positions of a sparse row (R259). -/
def keptOf (code : Nat) : Nat := match code with
  | 1 => 4
  | 2 => 8
  | 3 => 16
  | _ => 32

def Tcd.n (t : Tcd) : Nat := keptOf (bitsN t.w7 9 8)

/-- Bytes of one planar block. -/
def Tcd.block (t : Tcd) : Nat := if t.mode = 4 then 128 + 4 * t.n * planesOf t.slot else 128 * planesOf t.slot

/-- Bits of a source element. -/
def Tcd.srcBits (t : Tcd) : Nat :=
  if t.sf = 0 then
    match slE t.slot with
    | .int w _ => if w ≤ 8 then 8 else 16
    | .fp f => f.low + f.width
  else tyBits t.sf

/-- D_bytes (R257). -/
def Tcd.bytes (t : Tcd) : Nat :=
  match t.mode with
  | 0 => t.w4
  | 1 => t.rows * t.cols
  | 5 => if t.rop = 2 then 8 * t.rows * t.cols else t.rows * t.cols
  | 6 => 256 * t.w4
  | _ => t.rows / 32 * (t.cols / 32) * t.block

/-- The limits of the words a mode uses, and zero elsewhere. P is used with ROP 2 alone, so it is zero under the others.
DEDUCED, log 23. -/
def Tcd.legal (t : Tcd) : Bool :=
  let unused := t.ss = 0 && t.ds = 0
  let planar := decide (32 ≤ t.rows) && decide (32 ≤ t.cols) && t.rows % 32 = 0 && t.cols % 32 = 0 && decide (t.ds = 0) &&
    ([0x00, 0x01, 0x02, 0x04, 0x05, 0x07].contains t.sf || (0x10 ≤ t.sf && t.sf ≤ 0x16)) &&
    ptrAddr t.dst % 128 = 0
  (match t.mode with
   | 0 => decide (1 ≤ t.w4) && decide unused && t.w7 = 0
   | 1 => decide (1 ≤ t.rows) && decide (1 ≤ t.cols) && t.w7 = 0
   | 2 => planar && t.w7 / 32 = 0
   | 3 => planar && t.w7 / 32 = 0
   | 4 => planar && bitsN t.w7 31 10 = 0 && bitsN t.w7 7 5 = 0 && bitsN t.w7 9 8 ≠ 0
   | 5 => decide (1 ≤ t.rows) && decide (1 ≤ t.cols) && t.cols % 4 = 0 && bitsN t.w7 15 0 = 0 && bitsN t.w7 31 25 = 0 &&
       t.rop ≤ 2 && (if t.rop = 2 then t.p ≤ 96 else t.p = 0)
   | 6 => decide (1 ≤ t.w4) && t.w4 ≤ 65535 && decide unused
   | _ => false) && t.bytes ≤ 2 ^ 24

/-- Bytes of a source row, and of a destination row. -/
def Tcd.srcRow (t : Tcd) : Nat :=
  match t.mode with
  | 0 => t.w4
  | 1 => t.cols
  | 5 => t.cols
  | 6 => t.w4
  | _ => (t.cols * t.srcBits + 7) / 8

def Tcd.dstRow (t : Tcd) : Nat :=
  match t.mode with
  | 1 => t.cols
  | 5 => if t.rop = 2 then 8 * t.cols else t.cols
  | _ => t.bytes

/-- The rows of the source and of the destination. -/
def Tcd.srcRows (t : Tcd) : Nat := if t.mode = 0 || t.mode = 6 then 1 else t.rows
def Tcd.dstRows (t : Tcd) : Nat := if t.mode = 1 || t.mode = 5 then t.rows else 1

def imin (a b : Int) : Int := if a < b then a else b
def imax (a b : Int) : Int := if a < b then b else a

/-- The lowest and the highest offset that rows of `n` bytes at a stride touch. -/
def rowSpan (rows : Nat) (stride : Int) (n : Nat) : Int × Int :=
  let last := ((rows : Int) - 1) * stride
  (imin 0 last, imax 0 last + n)

def Tcd.srcSpaces (t : Tcd) : List Nat :=
  match t.mode with
  | 0 => [0, 1, 3, 4]
  | 1 => [0, 1, 3, 4]
  | 6 => [0]
  | _ => [0, 1]

def Tcd.dstSpaces (t : Tcd) : List Nat :=
  match t.mode with
  | 0 => [0, 1, 3]
  | 1 => [0, 1, 3]
  | 5 => [0, 1]
  | 6 => [0]
  | _ => [1]

/-- What the copy reads and what it writes (R124, R136). -/
def Tcd.reads (t : Tcd) (g : WG) (l : Launch) (i : Nat) : List (Nat × Nat × Nat) :=
  let s := rowSpan t.srcRows t.ss t.srcRow
  spansOf g ((tgtOf g l i t.src).plus s.1) (s.2 - s.1).toNat

def Tcd.writes (t : Tcd) (g : WG) (l : Launch) (i : Nat) : List (Nat × Nat × Nat) :=
  let s := rowSpan t.dstRows t.ds t.dstRow
  spansOf g ((tgtOf g l i t.dst).plus s.1) (s.2 - s.1).toNat

/-- The issue checks of R256 to R260. DEDUCED, log 23. -/
def Tcd.check (t : Tcd) (g : WG) (f : Fib) (l : Launch) (i w0 : Nat) : Option (Nat × Nat) :=
  if !t.legal then some (cIllegalOperand, w0)
  else
    let s := rowSpan t.srcRows t.ss t.srcRow
    let r := rowSpan t.dstRows t.ds t.dstRow
    match spanOk g f l i t.src s.1 s.2 t.srcSpaces false, spanOk g f l i t.dst r.1 r.2 t.dstSpaces true with
    | .error v, _ => some v
    | _, .error v => some v
    | .ok _, .ok _ =>
      let al := if t.rop = 2 then 32 else 4
      if t.mode = 5 && (ptrAddr t.dst % al ≠ 0 || (t.rows > 1 && t.ds % al ≠ 0)) then some (cMisaligned, t.dst) else none

/-! ## Units (R398) -/

/-- Units of a destination row that starts at byte address `a`. -/
def unitsInRow (a n : Nat) : Nat := if n = 0 then 0 else (a + n - 1) / 16 - a / 16 + 1

/-- Unit `u` of a row: its offset in the row and its length. -/
def unitSpan (a n u : Nat) : Nat × Nat :=
  let lo := if u = 0 then 0 else 16 * (a / 16 + u) - a
  let hi := min n (16 * (a / 16 + u + 1) - a)
  (lo, hi - lo)

/-- The start address of destination row `r`. -/
def Tcd.rowAddr (t : Tcd) (r : Nat) : Nat := ptrAddr (ptrAdd t.dst (r * t.ds))

/-- Row, offset in the row and length of unit `u`, counted row after row. -/
def Tcd.unitAt (t : Tcd) : Nat → Nat → Nat → Option (Nat × Nat × Nat)
  | 0, _, _ => none
  | left + 1, r, u =>
    if t.mode = 5 && t.rop = 2 then
      let n := t.cols / 4
      if u < n then some (r, 32 * u, 32) else t.unitAt left (r + 1) (u - n)
    else
      let n := unitsInRow (t.rowAddr r) t.dstRow
      if u < n then
        let s := unitSpan (t.rowAddr r) t.dstRow u
        some (r, s.1, s.2)
      else t.unitAt left (r + 1) (u - n)

/-- All units; a tile of `.dcmp` has sixteen wherever it lies (R261). -/
def Tcd.count (t : Tcd) : Nat :=
  if t.mode = 6 then 16 * t.w4
  else (List.range t.dstRows).foldl (fun s r => s + if t.mode = 5 && t.rop = 2 then t.cols / 4 else unitsInRow (t.rowAddr r) t.dstRow) 0

/-! ## Source values (R258, R259) -/

/-- The value of a source element typed by SF, or the slot's own encoding. -/
def Tcd.convert (t : Tcd) (v : Nat) : Nat :=
  let e := slE t.slot
  let m : Rm := { code := slRnd t.slot }
  if t.sf = 0 then
    match e with
    | .int w _ => v % 2 ^ w
    | .fp f => v / 2 ^ f.low % 2 ^ f.width
  else if t.sf < 0x10 then
    match e with
    | .int w sgn => (narrowI w sgn (slSat t.slot) (tyVal t.sf v)).1
    | .fp f => (roundQ f m (slSat t.slot) false (Q.ofInt (tyVal t.sf v))).1 / 2 ^ f.low
  else
    let s := tyF t.sf
    match e with
    | .int w sgn => ((EFmt.int w sgn).round m (slSat t.slot) (s.val v)).1
    | .fp f => (cvtF f m (slSat t.slot) (s.val v)).1 / 2 ^ f.low

/-- The order of magnitudes of R259: a NaN above every number. -/
def Tcd.magnitude (t : Tcd) (v : Nat) : Nat × Q :=
  match slE t.slot with
  | .int w sgn => (0, Q.ofInt (if sgn then sNat w v else v).natAbs)
  | .fp f =>
    match f.val (v * 2 ^ f.low) with
    | .nan _ => (2, Q.zero)
    | .inf _ => (1, Q.zero)
    | x => (0, x.q.abs)

def magLt (a b : Nat × Q) : Bool := a.1 < b.1 || (a.1 = b.1 && a.2.lt b.2)

/-- The `n` positions kept of a row: greatest magnitudes, ties to the lower k; ascending. -/
def Tcd.keep (t : Tcd) (row : List Nat) : List Nat :=
  let ms := row.map t.magnitude
  let rank (k : Nat) : Nat :=
    let m := ms.getD k (0, Q.zero)
    ((List.range 32).filter fun j =>
      let q := ms.getD j (0, Q.zero)
      magLt m q || (!magLt q m && j < k)).length
  (List.range 32).filter fun k => rank k < t.n

/-- Element (r, c) of the source: the bytes that hold it, by offset from SRC, and its bit offset in them. -/
def Tcd.elemAt (t : Tcd) (r c : Nat) : Int × Nat × Nat :=
  let bit := c * t.srcBits
  ((r : Int) * t.ss + (bit / 8 : Nat), bit % 8, (t.srcBits + 7) / 8)

/-- Elements read and converted, in order. -/
def Dev.readElems (e : Env) (t : Tcd) (g : WG) (k : Asker) (src : Tgt) : List (Nat × Nat) → Dev → Except Rd (List Nat × Bool) × Dev
  | [], d => (.ok ([], false), d)
  | (r, c) :: rest, d =>
    let p := t.elemAt r c
    match d.readT e g k (src.plus p.1) p.2.2 with
    | (.ok bs bad, d) =>
      match Dev.readElems e t g k src rest d with
      | (.ok (vs, b2), d) => (.ok (t.convert (leNat bs / 2 ^ p.2.1 % 2 ^ t.srcBits) :: vs, bad || b2), d)
      | r => r
    | (r, d) => (.error r, d)

/-- Bytes of bits, the first the least significant of the first byte. -/
def bytesOfBits (bs : List Bool) : List Byte :=
  (List.range (bs.length / 8)).map fun i =>
    BitVec.ofNat 8 (((List.range 8).zip ((bs.drop (8 * i)).take 8)).foldl (fun s p => if p.2 then s + 2 ^ p.1 else s) 0)

/-- Element (i, j) of block `b`, as row and column of the source: for A blocks i is the row, for B blocks the column. -/
def Tcd.blockElem (t : Tcd) (b i j : Nat) : Nat × Nat :=
  if t.mode = 3 then
    let kbs := t.rows / 32
    (32 * (b % kbs) + j, 32 * (b / kbs) + i)
  else
    let kbs := t.cols / 32
    (32 * (b / kbs) + i, 32 * (b % kbs) + j)

/-- The bits of `n` bytes of a planar destination from offset `off`: the elements they need, and the bits from their values.
A dense plane byte holds elements of one row; a sparse one needs whole rows. -/
def Tcd.planarBytes (t : Tcd) (e : Env) (g : WG) (k : Asker) (src : Tgt) (off n : Nat) (d : Dev) : Rd × Dev :=
  let b := off / t.block
  let o := off % t.block
  if t.mode ≠ 4 then
    let plane := o / 128
    let e0 := 8 * (o % 128)
    let es := (List.range (8 * n)).map fun q => t.blockElem b ((e0 + q) / 32) ((e0 + q) % 32)
    match Dev.readElems e t g k src es d with
    | (.ok (vs, bad), d) => (.ok (bytesOfBits (vs.map fun v => v.testBit plane)) bad, d)
    | (.error r, d) => (r, d)
  else
    let rowOf (m : Nat) (d : Dev) : Except Rd (List Nat × Bool) × Dev :=
      Dev.readElems e t g k src ((List.range 32).map fun q => t.blockElem b m q) d
    -- one byte at a time: a header byte is of one row's mask, a plane byte of at most two rows
    let byte (o : Nat) (d : Dev) : Except Rd (Byte × Bool) × Dev :=
      if o < 128 then
        match rowOf (o / 4) d with
        | (.ok (vs, bad), d) =>
          let m := (t.keep vs).foldl (fun s q => s + 2 ^ q) 0
          (.ok (BitVec.ofNat 8 (m / 256 ^ (o % 4)), bad), d)
        | (.error r, d) => (.error r, d)
      else
        let plane := (o - 128) / (4 * t.n)
        let q := 8 * ((o - 128) % (4 * t.n))
        match rowOf (q / t.n) d with
        | (.error r, d) => (.error r, d)
        | (.ok (v0, b0), d) =>
          match rowOf ((q + 7) / t.n) d with
          | (.error r, d) => (.error r, d)
          | (.ok (v1, b1), d) =>
            let bit (i : Nat) : Bool :=
              let vs := if (q + i) / t.n = q / t.n then v0 else v1
              (vs.getD ((t.keep vs).getD ((q + i) % t.n) 0) 0).testBit plane
            (.ok ((bytesOfBits ((List.range 8).map bit)).headD 0#8, b0 || b1), d)
    (List.range n).foldl (fun acc i =>
      match acc with
      | (.ok bs bad, d) =>
        match byte (o + i) d with
        | (.ok (v, b2), d) => (.ok (bs ++ [v]) (bad || b2), d)
        | (.error r, d) => (r, d)
      | r => r) (.ok [] false, d)

/-- The source bytes of a unit, or the bytes it writes in a planar mode. -/
def Tcd.unitBytes (t : Tcd) (e : Env) (g : WG) (l : Launch) (k : Asker) (i r off n : Nat) (d : Dev) : Rd × Dev :=
  let src := tgtOf g l i t.src
  match t.mode with
  | 2 => t.planarBytes e g k src off n d
  | 3 => t.planarBytes e g k src off n d
  | 4 => t.planarBytes e g k src off n d
  | 5 =>
    if t.rop = 2 then d.readT e g k (src.plus (r * t.ss + (off / 8 : Nat))) 4
    else d.readT e g k (src.plus (r * t.ss + off)) n
  | _ => d.readT e g k (src.plus (r * t.ss + off)) n

/-! ## tcpy (R256, R262) -/

/-- A slot that names a block format (R91, R258). -/
def slotTcpy (s : Word) : Bool := slotConvOk s && slRnd s ≠ 5 && slFmt s ≠ 8 && slFmt s ≠ 9

def insTcpy : Ins where
  a := fun _ => { n := 8, al := 4 }
  feat := fun _ _ => 2#32
  ok6 := fun l x => x.mf 31 29 ≤ 6 && (!x.mb 27 || x.mb 28) && (x.mf 31 29 < 2 || 4 < x.mf 31 29 || slotTcpy (l.fmt.getD x.slot 0#32))

/-- Copies in flight on the core; a `tcpyc` is not counted among the 32, for its fibre is blocked. DESIGN CHOICE, log 23. -/
def Dev.copiesOn (d : Dev) (core : Nat) : Nat := (d.ops.filter fun o => o.core = core && o.kind = .tcpy && !o.frozen).length

def bodyTcpy : Body := fun e cx g f l d =>
  let x := cx.x
  let ws := f.words x.a.toNat 8
  let t := tcdOf (x.mf 31 29) (l.r.fmt.getD x.slot 0#32) ws
  -- a reduction into FX128 cells needs the FX128 feature (R49, R51)
  if t.mode = 5 && t.rop = 2 && !(d.core g.core).feature.getLsbD 0 then d.trap e cx cFeatureAbsent 1
  else
  match t.check g f l cx.fi cx.w0.toNat with
  | some (c, v) => d.trap e cx c v
  | none =>
    if x.mb 28 && !(g.bar (brOf x)).init then d.trap e cx cBarrier (brOf x)
    else if f.cnt.getD (copyTag x) 0 ≥ 255 || d.copiesOn g.core ≥ 32 then d.block cx (.copyRoom (copyTag x) true)
    else
      let outside := match tgtOf g l cx.fi t.dst with
        | .vault r _ => decide (((d.member g r).map (·.core)).getD g.core ≠ g.core)
        | _ => true
      if outside && d.tagBlocked g cx.fi f none (cx.instr f) then d.tagHold cx f none
      else
        let (tag, d) := if outside then d.takeTag g f else (0, d)
        let (id, d) := d.takeId
        let o : Op :=
          { id := id, kind := .tcpy, wg := cx.wg, fib := cx.fi, ord := g.issue, grp := cx.instr f, tag := tag, core := g.core,
            addr := t.dst, size := t.bytes, m := x.m, st := ws ++ [t.slot], act := .write [], reads := t.reads g l cx.fi, due := e.now + 1, sentAt := e.now }
        let d := { d with ops := d.ops ++ [o] }.modWg cx.wg fun g => { g with issue := g.issue + 1 }
        (d.modFib cx.wg cx.fi fun f => { f with cnt := putAt (f.cnt.getD (copyTag x) 0 + 1) f.cnt (copyTag x) }).advance cx

/-- The descriptor of a `tcpy` or `tcpyc` in flight. -/
def Op.tcd (o : Op) : Tcd := tcdOf (bitsN o.m.toNat 31 29) (o.st.getD 8 0#32) (o.st.take 8)

/-- Unit `u` is complete. -/
def Op.unitDone (o : Op) (u : Nat) : Bool := u < o.mark || (u < o.mark + 64 && o.win.testBit (u - o.mark))

/-- MARK and WIN after a unit completes. -/
def slide : Nat → Nat → Nat → Nat × Nat
  | 0, m, w => (m, w)
  | k + 1, m, w => if w.testBit 0 then slide k (m + 1) (w / 2) else (m, w)

def Op.doneUnit (o : Op) (u : Nat) : Op :=
  let r := slide 65 o.mark (setBit o.win (u - o.mark))
  { o with mark := r.1, win := r.2 }

/-- The unit is complete: counted on its barrier, and the copy's end counted with its last unit (R250, R262). -/
def Dev.unitComplete (e : Env) (d : Dev) (o : Op) (t : Tcd) (u n : Nat) : Dev :=
  let o' := o.doneUnit u
  let last := decide (o'.mark ≥ t.count)
  let x : X := { twin 0#2 false with m := o.m }
  let d := if x.mb 28 then d.landBar e o.wg o.fib (brOf x) n (if x.mb 27 && last then 1 else 0) else d
  if last then d.endCopy e o (copyTag x)
  else d.modOp o.id fun _ => o'

/-- The granule at a vault offset has every byte that the copy writes in it, and none of them was given up (R109, R262).
DEDUCED, log 23. -/
def Tcd.granuleDone (t : Tcd) (o : Op) (u off : Nat) : Bool :=
  let base : Int := (ptrAddr t.dst % 2 ^ 22 : Nat)
  (List.range t.count).all fun v => v = u || (o.unitDone v && !o.gone.contains v) ||
    match t.unitAt t.dstRows 0 v with
    | some (r, uo, un) =>
      let a : Int := base + r * t.ds + uo
      !(decide (a < (16 * (off / 16) + 16 : Nat)) && decide (a + un > (16 * (off / 16) : Nat)))
    | none => true

/-- A tile of `.dcmp`: read whole, written, and its mode byte set (R261). DEDUCED, log 23. -/
def Dev.dcmpTile (e : Env) (d : Dev) (g : WG) (k : Asker) (o : Op) (t : Tcd) (i : Nat) : Wr × Dev :=
  let at_ := va57 (t.dst + 256 * i)
  let mAt := va57 (t.src + i)
  match Dev.readG e g.rng k 2 d mAt 1 with
  | (.wait p, d) => (.wait p, d)
  | (.lost c v, d) => (.lost c v, d)
  | (.ok mb _, d) =>
    let mode := (mb.headD 0#8).toNat
    if mode ≠ 0 && !tileCoded mode then (.done, d)
    else
      -- a tile of mode 0x00 is not read (R332)
      match if mode = 0 then (.ok [] false, d) else Dev.readG e g.rng k 4 d at_ 256 with
      | (.wait p, d) => (.wait p, d)
      | (.lost c v, d) => (.lost c v, d)
      | (.ok bs _, d) =>
        match Dev.writeG e g.rng k { o with mark := 2 * i } 4 d at_ (decodeTile mode bs (leBytes 4 t.w7)) with
        | (.wait p, d) => (.wait p, d)
        | (.lost c v, d) => (.lost c v, d)
        | (_, d) => Dev.writeG e g.rng k { o with mark := 2 * i + 1 } 1 d mAt [0xF8#8]

/-- A unit of a lower row that is not complete covers a byte of unit `u`: the higher row's bytes stand in the end (R262).
DEDUCED, log 23. -/
def Tcd.behind (t : Tcd) (o : Op) (u : Nat) : Bool :=
  t.mode = 1 && decide (t.rows > 1) && decide (t.ds.natAbs < t.cols) &&
  match t.unitAt t.dstRows 0 u with
  | none => false
  | some (r, off, n) =>
    let a : Int := r * t.ds + off
    (upFrom o.mark (u - o.mark)).any fun v => !o.unitDone v &&
      match t.unitAt t.dstRows 0 v with
      | some (q, off2, m) => decide (q * t.ds + off2 < a + n) && decide (a < q * t.ds + off2 + m)
      | none => false

/-- No unit of the copy may begin: an older store, copy or entry is in the way (R124, R136, R403). -/
def Dev.tcpyWaits (d : Dev) (o : Op) : Bool :=
  d.writesBefore o || d.behindEntries o ||
  match d.wg? o.wg with
  | none => false
  | some g =>
    match d.launch? g.launch with
    | some l => d.readsBefore o (o.tcd.writes g l o.fib)
    | none => false

/-- COPY_UNIT_COMPLETE: operation and unit. The engine begins no unit at or beyond MARK + 64. DEDUCED, log 23. -/
def Dev.copyUnit (e : Env) (d : Dev) (id u : Nat) : Dev :=
  match d.op? id with
  | none => d
  | some o =>
    match d.wg? o.wg with
    | none => d
    | some g =>
      match d.launch? g.launch with
      | none => d
      | some l =>
        let t := o.tcd
        if o.kind ≠ .tcpy || o.frozen || o.unitDone u || u ≥ o.mark + 64 || d.tcpyWaits o || t.behind o u then d
        else
          match t.unitAt t.dstRows 0 u with
          | none => d
          | some (r, off, n) =>
            let k : Asker :=
              { wg := o.wg, core := o.core, unit := 1, fsvc := g.ctx.fsvc, h0 := bitsOf t.ss 64, h1 := t.srcRows - 1 - r }
            let kd : Asker := { k with h0 := bitsOf t.ds 64, h1 := t.dstRows - 1 - r }
            let endUnit (d : Dev) : Dev :=
              match d.op? id with
              | some o => d.unitComplete e o t u n
              | none => d
            let lose (d : Dev) (c v : Nat) : Dev := endUnit ((d.asyncOp o c v).modOp id fun o => { o with gone := u :: o.gone })
            let hold (d : Dev) (p : Nat) : Dev := d.modOp id fun o => { o with heldOn := some p }
            if t.mode = 6 then
              -- a tile is one action: its sixteen units complete together
              if u % 16 ≠ 0 then d
              else
                match d.dcmpTile e g kd o t (u / 16) with
                | (.wait p, d) => hold d p
                | (.lost c v, d) =>
                  let d := d.asyncOp o c v
                  (List.range 16).foldl (fun d j => match d.op? id with
                    | some o => d.unitComplete e o t (u + j) 16
                    | none => d) d
                | (_, d) =>
                  (List.range 16).foldl (fun d j => match d.op? id with
                    | some o => d.unitComplete e o t (u + j) 16
                    | none => d) d
            else
              match t.unitBytes e g l k o.fib r off n d with
              | (.wait p, d) => hold d p
              | (.lost c v, d) => lose d c v
              | (.ok bs bad, d) =>
                let a : Act := if t.mode = 5 then .unit t.rop t.p bs else .write bs
                let an := if t.mode = 5 && t.rop = 2 then 20 else n
                match (tgtOf g l o.fib t.dst).plus (r * t.ds + off) with
                | .vault rank vo =>
                  match d.member g rank with
                  | none => endUnit d
                  | some h =>
                    let nb := (a.run (h.vaultBytes vo an)).1
                    let d := d.vaultPut h.id vo nb bad
                    let d := if t.granuleDone o u vo then d.fillGran e h.id (vo / 16) else d
                    let d := if an > 16 || vo / 16 ≠ (vo + n - 1) / 16 then
                        (if t.granuleDone o u (vo + n - 1) then d.fillGran e h.id ((vo + n - 1) / 16) else d)
                      else d
                    endUnit d
                | .glob va =>
                  match d.writeLine e g.rng kd { o with mark := u } va an a with
                  | (.wait p, d) => hold d p
                  | (.lost c v, d) => lose d c v
                  | (_, d) => endUnit d
                | .acc _ => endUnit d

/-! ## tcpyc (R263) -/

/-- DEDUCED, log 24. -/
def insTcpyc : Ins where
  a := fun _ => { n := 8, al := 4 }
  b := fun _ => opd 2
  wp := fun x => [x.dx.toNat]
  feat := fun _ _ => 2#32
  ok6 := fun _ x => x.mf 31 29 ≤ 1

/-- DEDUCED, log 24. -/
def bodyTcpyc : Body := fun e cx g f l d =>
  let x := cx.x
  let ws := f.words x.a.toNat 8
  let t := tcdOf (x.mf 31 29) 0#32 ws
  match t.check g f l cx.fi cx.w0.toNat with
  | some (c, v) => d.trap e cx c v
  | none =>
    if t.bytes > 4096 then d.illegal e cx
    else if ptrAddr t.dst % 8 ≠ 0 then d.trap e cx cMisaligned t.dst
    else
      match spanOk g f l cx.fi t.dst (-8) 0 [0, 1, 3] true with
      | .error (_, v) => d.trap e cx cVaultRange v
      | .ok _ =>
        let outside := match tgtOf g l cx.fi t.dst with
          | .vault r _ => decide (((d.member g r).map (·.core)).getD g.core ≠ g.core)
          | _ => true
        if outside && d.tagBlocked g cx.fi f none (cx.instr f) then d.tagHold cx f none
        else
          let (tag, d) := if outside then d.takeTag g f else (0, d)
          let (id, d) := d.takeId
          let (lat, d) := d.choose 64
          let ver := natWords 2 (srcB e.now g f x 2)
          let o : Op :=
            { id := id, kind := .tcpyc, wg := cx.wg, fib := cx.fi, ord := g.issue, grp := cx.instr f, tag := tag, core := g.core,
              addr := t.dst, size := t.bytes, m := x.m, st := ws ++ ver, dxp := some x.dx.toNat, rel := true, scope := 3, deep := true,
              due := e.now + 1 + lat, sentAt := e.now, parts := [{ va := 0, off := 0, len := 0 }] }
          let d := { d with ops := d.ops ++ [o] }.modWg cx.wg fun g => { g with issue := g.issue + 1 }
          (d.modFib cx.wg cx.fi (·.pendPred x.dx.toNat)).hold cx (.op id)

/-- A commit is a release at `.dev`: what its fibre issued before it is performed first (R128, R140, R403). -/
def Dev.commitWaits (d : Dev) (o : Op) : Bool := d.olderOpen o.wg o.fib o.id || d.parksOpen o.wg o.fib || d.behindEntries o

/-- DX is written and the fibre goes on. DEDUCED, log 24. -/
def Dev.tcpycEnd (e : Env) (d : Dev) (o : Op) (t : Bool) : Dev :=
  let d := (d.dropOp o.id).retireTag e o.core o.tag
  d.modFib o.wg o.fib fun f =>
    let f := match o.dxp with
      | some p => { f.setPred p t with pend := f.pend.filter (· ≠ p) }
      | none => f
    if f.wait = .op o.id then { f with wait := .none, readyAt := e.now } else f

/-- Every line of `n` bytes can be written now, or what keeps it from being written: nothing is written here. -/
def Dev.probeG (e : Env) (rs : List Range) (k : Asker) : Nat → Dev → Nat → Nat → Wr × Dev
  | 0, d, _, _ => (.done, d)
  | fuel + 1, d, va, n =>
    if n = 0 then (.done, d)
    else
      let m := min n (128 - va % 128)
      match rangeLookup rs va with
      | none => (.lost cUnmapped (va57 va), d)
      | some ia =>
        match d.reach e ia .wr with
        | (.at_ _, d) => Dev.probeG e rs k fuel d (va + m) (n - m)
        | (.bad, d) => Dev.probeG e rs k fuel d (va + m) (n - m)
        | (.filling p, d) => (.wait p, d)
        | (.pend p, d) => (.wait p, d)
        | (.fault r l, d) =>
          if k.fsvc then (.lost cPageFatal (va57 va), d)
          else (.wait (ia / 2 ^ 16), d.openEpisode (k.by_ d 1 va ia) r l)
        | (.fatal c, d) => (.lost c (va57 va), d)

/-- The places of a commit: each with the number of its piece, its target and its bytes. -/
abbrev Pieces := List (Nat × Tgt × List Byte)

/-- Every place can be written now. -/
def Dev.probePieces (e : Env) (g : WG) (k : Asker) : Pieces → Dev → Wr × Dev
  | [], d => (.done, d)
  | (_, .glob va, bs) :: rest, d =>
    match Dev.probeG e g.rng k (linesOf bs.length) d va bs.length with
    | (.done, d) => Dev.probePieces e g k rest d
    | r => r
  | _ :: rest, d => Dev.probePieces e g k rest d

/-- The bytes of a commit written, one place after another. -/
def Dev.writePieces (e : Env) (d : Dev) (g : WG) (k : Asker) (o : Op) (ps : Pieces) : Dev :=
  ps.foldl (fun d p =>
    match p.2.1 with
    | .glob va => (Dev.writeG e g.rng k { o with mark := p.1 } (linesOf p.2.2.length) d va p.2.2).2
    | .vault r off =>
      match d.member g r with
      | some h => d.vaultWrite h.id off p.2.2
      | none => d
    | .acc _ => d) d

/-- The vault granules that the places touch, each set full once all their bytes have landed (R109). -/
def Dev.fillPieces (e : Env) (d : Dev) (g : WG) (ps : Pieces) : Dev :=
  let gs := ps.foldl (fun (l : List (Nat × Nat)) p =>
    match p.2.1, d.member g (match p.2.1 with
      | .vault r _ => r
      | _ => g.rank) with
    | .vault _ off, some h =>
      (upFrom (off / 16) (if p.2.2.isEmpty then 0 else (off + p.2.2.length - 1) / 16 - off / 16 + 1)).foldl
        (fun l n => if l.contains (h.id, n) then l else l ++ [(h.id, n)]) l
    | _, _ => l) []
  gs.foldl (fun d q => d.fillGran e q.1 q.2) d

/-- Rows of the source. -/
def Dev.commitSource (e : Env) (g : WG) (k : Asker) (t : Tcd) (src : Tgt) : List Nat → Dev → Except Rd (List (Nat × List Byte)) × Dev
  | [], d => (.ok [], d)
  | r :: rest, d =>
    match d.readT e g k (src.plus (r * t.ss)) t.srcRow with
    | (.ok bs _, d) =>
      match Dev.commitSource e g k t src rest d with
      | (.ok l, d) => (.ok ((r, bs) :: l), d)
      | r => r
    | (x, d) => (.error x, d)

/-- TCPYC_COMMIT: operand a is the operation. The version word and the tile change in one step, once every line of them can be written.
DEDUCED, log 24. -/
def Dev.tcpycCommit (e : Env) (d : Dev) (id : Nat) : Dev :=
  match d.op? id with
  | none => d
  | some o =>
    match d.wg? o.wg with
    | none => d
    | some g =>
      match d.launch? g.launch with
      | none => d
      | some l =>
        if o.kind ≠ .tcpyc || o.frozen || d.commitWaits o then d
        else
          let t := o.tcd
          let k : Asker := { wg := o.wg, core := o.core, unit := 1, fsvc := g.ctx.fsvc }
          let hold (d : Dev) (p : Nat) : Dev := d.modOp id fun o => { o with heldOn := some p }
          let fail (d : Dev) (c v : Nat) : Dev := (d.async o.wg o.fib c (vaWide v)).tcpycEnd e o false
          let dst := tgtOf g l o.fib t.dst
          let vt := dst.plus (-8)
          let line := match vt with
            | .glob va => ((rangeLookup g.rng va).getD 0) / 128
            | _ => 0
          match (d.tagEnt? o.tag line).filter (!·.res.isEmpty) with
          | some n => d.tcpycEnd e o (n.res.headD 0#32 = 1#32)
          | none =>
            let d := d.registerTag o.tag line 0 []
            match Dev.commitSource e g k t (tgtOf g l o.fib t.src) (List.range t.srcRows) d with
            | (.error (.wait p), d) => hold d p
            | (.error (.lost c v), d) => fail d c v
            | (.error (.ok _ _), d) => d
            | (.ok rows, d) =>
              match d.readT e g k vt 8 with
              | (.wait p, d) => hold d p
              | (.lost c v, d) => fail d c v
              | (.ok vb _, d) =>
                let want := wordsNat ((o.st.drop 8).take 2)
                if leNat vb ≠ want then (d.registerTag o.tag line 0 [0#32]).tcpycEnd e o false
                else
                  let tile : Pieces := rows.map fun q => (q.1 + 1, dst.plus (q.1 * t.ds), q.2)
                  let all : Pieces := tile ++ [(0, vt, leBytes 8 (want + 1))]
                  match Dev.probePieces e g k all d with
                  | (.wait p, d) => hold d p
                  | (.lost c v, d) => fail d c v
                  | (_, d) => (((d.writePieces e g k o all).fillPieces e g all).registerTag o.tag line 0 [1#32]).tcpycEnd e o true

/-! ## Meanings -/

def execCpy (x : X) : State → Host.Outcome State Fault Refusal := issue insCpy bodyCpy (.cpy x) x

def execCpywait (x : X) : State → Host.Outcome State Fault Refusal := issue insCpywait bodyCpywait (.cpywait x) x

def execCpytest (x : X) : State → Host.Outcome State Fault Refusal := issue insCpytest bodyCpytest (.cpytest x) x

def execTcpy (x : X) : State → Host.Outcome State Fault Refusal := issue insTcpy bodyTcpy (.tcpy x) x

def execTcpyc (x : X) : State → Host.Outcome State Fault Refusal := issue insTcpyc bodyTcpyc (.tcpyc x) x

def execCpyLanding : State → Host.Outcome State Fault Refusal := event fun e d => d.cpyLand e d.arg.a

def execCopyUnitComplete : State → Host.Outcome State Fault Refusal := event fun e d => d.copyUnit e d.arg.a d.arg.b

def execTcpycCommit : State → Host.Outcome State Fault Refusal := event fun e d => d.tcpycCommit e d.arg.a

end Sys2Proof.Machine
end

