-- ==== Sys2Proof/Machine/Squad.lean ====
section
/-! DEFINITION. The squad instructions (spec/08, R225 to R230) and the rendezvous of R40 to R42. -/
namespace Sys2Proof.Machine

open Sys2Proof

/-! ## Masks and parties -/

/-- The member mask (R225). -/
def memberMask (f : Fib) (x : X) : Word :=
  match x.mf 31 30 with
  | 0 => 0xFFFFFFFF#32
  | 1 => BitVec.ofNat 32 (srcC f x 1)
  | _ => x.lit.setWidth 32

/-- A fibre that contributes: its position in the squad, itself, and its A and B operands. -/
structure Party where
  pos : Nat
  f : Fib
  a : Nat
  b : Nat

/-- The position, mask and guard of a fibre that waits at a convergent instruction. -/
def convWait (f : Fib) : Option (Word × Bool) :=
  match f.wait with
  | .conv m b _ => if f.live then some (m, b) else none
  | _ => none

/-- The fibres of squad `s`, by position. -/
def squadFibs (g : WG) (s : Nat) : List (Nat × Fib) :=
  (List.range 32).filterMap fun p => (g.fib? (32 * s + p)).map fun f => (p, f)

/-- What CONVERGENT_MISMATCH names when fibre at position `p`, with PC `pc` and mask `m`, has come to wait (R41): the other
instruction's text offset, or 0 for a mask mismatch. DEDUCED, log 20. -/
def convMismatch (fs : List (Nat × Fib)) (p : Nat) (pc : DWord) (m : Word) : Option Nat :=
  let others := fs.filter fun q => q.1 ≠ p
  let bad := others.findSome? fun q =>
    match convWait q.2 with
    | none => none
    | some (mq, _) => if q.2.pc ≠ pc && (m.getLsbD q.1 || mq.getLsbD p) then some (q.2.pc.toNat % 2 ^ 32) else none
  match bad with
  | some v => some v
  | none =>
    if others.any fun q =>
        match convWait q.2 with
        | none => false
        | some (mq, _) => q.2.pc = pc && mq ≠ m
    then some 0 else none

/-- Every fibre named in the mask that has not exited waits at `pc` (R40). -/
def convComplete (fs : List (Nat × Fib)) (pc : DWord) (m : Word) : Bool :=
  fs.all fun q => !m.getLsbD q.1 || !q.2.live || ((convWait q.2).isSome && q.2.pc = pc)

def maskC (x : X) : Opd := if x.mf 31 30 = 1 then opd 1 else {}

/-! ## shfl, vote, match (R226 to R228) -/

def tyB (x : X) : Bool := x.ty = 0 || x.ty = 0x09 || x.ty = 0x0C

def insShfl : Ins where
  a := tOpd 0x09
  b := fun _ => opd 1
  c := maskC
  d := tOpd 0x09
  wp := fun x => [x.dx.toNat]
  ok6 := fun _ x => tyB x && x.mf 31 30 ≤ 2
  inHandler := false
  always := true
  cAlways := true

def outShfl (x : X) (cs : List Party) (p : Party) : FOut :=
  let j : Int :=
    match x.mf 24 23 with
    | 0 => (p.b % 32 : Nat)
    | 1 => (p.pos : Int) - p.b
    | 2 => (p.pos : Int) + p.b
    | _ => ((p.pos ^^^ (p.b % 32)) : Nat)
  match cs.find? (fun q => (q.pos : Int) = j) with
  | some q => { d := natWords (tyWords (x.tyOr 0x09)) q.a, ps := [(x.dx.toNat, true)] }
  | none => { ps := [(x.dx.toNat, false)] }

def insVote : Ins where
  c := maskC
  d := fun x => if x.mf 24 23 = 0 || x.mb 28 then opd 1 else {}
  rp := fun x => [x.a.toNat]
  wp := fun x => [x.dx.toNat]
  ok6 := fun _ x => x.mf 31 30 ≤ 2
  inHandler := false
  always := true
  cAlways := true

def outVote (x : X) (cs : List Party) (_ : Party) : FOut :=
  let val (q : Party) : Bool := q.f.pred x.a.toNat != x.mb 25
  let t := cs.filter val
  let n := cs.filter fun q => !val q
  let mode := x.mf 24 23
  let flag :=
    match mode with
    | 0 => !t.isEmpty
    | 1 => !t.isEmpty
    | 2 => n.isEmpty
    | _ => t.isEmpty || n.isEmpty
  let v :=
    match mode with
    | 0 => t.foldl (fun s q => s + 2 ^ q.pos) 0
    | 1 => t.length
    | 2 => n.length
    | _ => cs.length
  { d := if mode = 0 || x.mb 28 then [BitVec.ofNat 32 v] else [], ps := [(x.dx.toNat, flag)] }

def insMatch : Ins where
  a := tOpd 0x09
  c := maskC
  d := fun _ => opd 1
  wp := fun x => [x.dx.toNat]
  ok6 := fun _ x => tyB x && x.mf 31 30 ≤ 2 && x.mf 24 23 ≤ 2
  inHandler := false
  always := true
  cAlways := true

/-- The number of distinct values. -/
def distinct : List Nat → Nat
  | [] => 0
  | v :: r => (if r.contains v then 0 else 1) + distinct r

def outMatch (x : X) (cs : List Party) (p : Party) : FOut :=
  let peers := cs.filter fun q => q.a = p.a
  let below := (peers.filter fun q => q.pos < p.pos).length
  match x.mf 24 23 with
  | 0 => { d := [BitVec.ofNat 32 (peers.foldl (fun s q => s + 2 ^ q.pos) 0)], ps := [(x.dx.toNat, decide (below = 0))] }
  | 1 =>
    let n := distinct (cs.map (·.a))
    { d := [BitVec.ofNat 32 n], ps := [(x.dx.toNat, decide (n = 1))] }
  | _ => { d := [BitVec.ofNat 32 below], ps := [(x.dx.toNat, decide (below = 0))] }

/-! ## sqred and sqscan (R229, R230) -/

/-- The types, `.sat` and rounding that an OP accepts. -/
def okRed (x : X) : Bool :=
  let op := x.mf 29 27
  let t := x.tyOr 0x07
  if op ≤ 2 then
    [0x07, 0x08, 0x10].contains t && (!x.sat || op = 0) && (x.rnd = 0 || (op = 0 && t = 0x10 && x.rnd ≤ 4))
  else op ≤ 5 && [0x07, 0x08, 0x09].contains t && !x.sat && x.rnd = 0

def insRed : Ins where
  a := fun _ => opd 1
  c := maskC
  d := fun _ => opd 1
  ok6 := fun _ x => okRed x && x.mf 31 30 ≤ 2
  inHandler := false
  always := true
  cAlways := true

/-- The result for an empty set of values (R230). -/
def redIdentity (op t : Nat) : Nat :=
  match op with
  | 1 => if t = 0x10 then 0x7F800000 else if t = 0x07 then 0x7FFFFFFF else 0xFFFFFFFF
  | 2 => if t = 0x10 then 0xFF800000 else if t = 0x07 then 0x80000000 else 0
  | 3 => 0xFFFFFFFF
  | _ => 0

/-- The values combined (R229). -/
def redValue (x : X) (vs : List Nat) : Nat × Fl :=
  let op := x.mf 29 27
  let t := x.tyOr 0x07
  match vs with
  | [] => (redIdentity op t, 0#6)
  | v :: r =>
    if t = 0x10 then
      match op with
      | 0 =>
        let fs := vs.map f32V
        let s := sumTo fF32 (rmOf x) x.sat (fs.map FV.term)
        let opposing := fs.any (fun v => v == .inf false) && fs.any (fun v => v == .inf true)
        (s.1, s.2 ||| flIf (fs.any FV.isSNaN || opposing) flNV)
      | o =>
        let m := r.foldl (fun (p : Nat × Fl) u => let q := fpMinMax fF32 (o = 2) p.1 u; (q.1, p.2 ||| q.2)) (v, 0#6)
        -- a lone NaN is made canonical (R207)
        if (f32V m.1).isNaN then (fF32.cnan, flIf (vs.any fun u => (f32V u).isSNaN) flNV) else m
    else
      let val (u : Nat) : Int := tyVal t u
      match op with
      | 0 => narrowI 32 (tyS t) x.sat (vs.foldl (fun s u => s + val u) 0)
      | 1 => (r.foldl (fun m u => if val u < val m then u else m) v, 0#6)
      | 2 => (r.foldl (fun m u => if val m < val u then u else m) v, 0#6)
      | 3 => (r.foldl (fun m u => m &&& u) v, 0#6)
      | 4 => (r.foldl (fun m u => m ||| u) v, 0#6)
      | _ => (r.foldl (fun m u => m ^^^ u) v, 0#6)

def outRed (x : X) (cs : List Party) (_ : Party) : FOut := fOut (redValue x (cs.map (·.a)))

def outScan (x : X) (cs : List Party) (p : Party) : FOut :=
  fOut (redValue x ((cs.filter fun q => q.pos < p.pos || (q.pos = p.pos && !x.mb 26)).map (·.a)))

/-! ## The operation of each instruction, and the rendezvous -/

/-- The operand records and the operation of a convergent instruction. -/
def squadOp (i : Instr) : Option (X × Ins × (X → List Party → Party → FOut)) :=
  match i with
  | .shfl x => some (x, insShfl, outShfl)
  | .vote x => some (x, insVote, outVote)
  | .matchSq x => some (x, insMatch, outMatch)
  | .sqred x => some (x, insRed, outRed)
  | .sqscan x => some (x, insRed, outScan)
  | _ => none

/-- One party's outcome: it goes on, or raises ARITH (R71). -/
def convFinish (e : Env) (w : Nat) (x : X) (fpen : Fl) (halting : Bool) (d : Dev) (i : Nat) (o : Option FOut) : Dev :=
  let d := d.modFib w i fun f => { f with wait := .none }
  match o with
  | none => d.modFib w i fun f => (f.issued halting).advance e.now x.len
  | some o =>
    if arithTraps fpen o.fl then d.arith e w i o.fl
    else d.modFib w i fun f => ((f.issued halting).commit x.d.toNat o).advance e.now x.len

/-- A rendezvous of squad `s` at `pc` under mask `m` is performed when it is complete (R40), and not while its work-group stops:
the fibres that wait are saved before the instruction (R42, R377). -/
def squadTry (e : Env) (d : Dev) (w s : Nat) (pc : DWord) (m : Word) (i : Instr) : Dev :=
  match d.wg? w, squadOp i with
  | some g, some (x, ins, out) =>
    match d.launch? g.launch with
    | none => d
    | some l =>
      let fs := squadFibs g s
      if (g.halt ≠ .none && !g.handling) || !convComplete fs pc m then d
      else
        let ps := fs.filter fun q => m.getLsbD q.1 && q.2.live
        let party (q : Nat × Fib) : Party :=
          { pos := q.1, f := q.2, a := srcA e.now g q.2 x (ins.a x).n, b := srcB e.now g q.2 x (ins.b x).n (x.mf 31 30 = 2) }
        let guardOf (q : Nat × Fib) : Bool := ((convWait q.2).map (·.2)).getD false
        let cs := (ps.filter guardOf).map party
        ps.foldl (fun d q =>
          convFinish e w x l.r.fpen g.skids d (32 * s + q.1)
            (if guardOf q then some (out x cs (party q)) else none)) d
  | _, _ => d

/-- The rendezvous that a fibre waits at is performed if it is complete. DEDUCED, log 20. -/
def convTry (e : Env) (d : Dev) (r : Nat × Nat) : Dev :=
  match d.fib? r.1 r.2 with
  | none => d
  | some f =>
    match f.wait with
    | .conv m _ i => squadTry e d r.1 (squadOf r.2) f.pc m i
    | _ => d

/-- What the end of a fibre of squad `s` completes: rendezvous that named it (R41). -/
def squadRecheck (e : Env) (d : Dev) (w s : Nat) : Dev :=
  match d.wg? w with
  | none => d
  | some g => (squadFibs g s).foldl (fun d q => convTry e d (w, 32 * s + q.1)) d

/-- Arrival at a convergent instruction. -/
def squadBody (i : Instr) : Body := fun e cx g f _ d =>
  let m := memberMask f cx.x
  let s := squadOf cx.fi
  let p := cx.fi % 32
  if !m.getLsbD p then d.illegal e cx
  else
    let d := d.block cx (.conv m cx.guard i)
    let fs := squadFibs (g.modFib cx.fi fun f => { f with wait := .conv m cx.guard i }) s
    match convMismatch fs p f.pc m with
    | some v => (d.modFib cx.wg cx.fi fun f => { f with wait := .none }).trap e cx cConvergent v
    | none => d

/-- The fibres of the rope arrive together (R36, R41); then every rendezvous that is complete is performed.
DEDUCED, log 20. -/
def squadStep (n : Ins) (i : Instr) (x : X) (e : Env) (d : Dev) : Dev :=
  match d.ropes with
  | [] => d
  | r :: _ => r.fibs.foldl (convTry e) (ropeStep n (squadBody i) i x e d)

/-! ## Meanings -/

def execShfl (x : X) : State → Host.Outcome State Fault Refusal :=
  event (squadStep insShfl (.shfl x) x)

def execVote (x : X) : State → Host.Outcome State Fault Refusal :=
  event (squadStep insVote (.vote x) x)

def execMatchSq (x : X) : State → Host.Outcome State Fault Refusal :=
  event (squadStep insMatch (.matchSq x) x)

def execSqred (x : X) : State → Host.Outcome State Fault Refusal :=
  event (squadStep insRed (.sqred x) x)

def execSqscan (x : X) : State → Host.Outcome State Fault Refusal :=
  event (squadStep insRed (.sqscan x) x)

end Sys2Proof.Machine
end

