-- ==== Sys2Proof/Machine/Matrix.lean ====
section
/-! DEFINITION. Gangs and the Belay latch, matrix operations and their steps (spec/10, R266 to R291; R43, R44, R93 to R98). -/
namespace Sys2Proof.Machine

open Sys2Proof

/-- The MATRIX and SPARSE feature bits (R49). -/
def featMatrix : Word := 4#32
def featSparse : Word := 8#32

/-! ## Fields (R266) -/

def kcN (m : Word) : Nat := bitsN m.toNat 19 14 + 1
/-- The A slot, or the block format of `plan`; the B slot. -/
def slotA (m : Word) : Nat := bitsN m.toNat 22 20
def slotB (m : Word) : Nat := bitsN m.toNat 7 5
def rmM (m : Word) : Rm := { code := bitsN m.toNat 7 5 }
def satM (m : Word) : Bool := m.getLsbD 8
def tyM (m : Word) : Nat := if bitsN m.toNat 4 0 = 0 then 0x09 else bitsN m.toNat 4 0

/-! ## Operands of `mma` (R94, R97, R112) -/

/-- The exact value of an integer. -/
def intV (x : Int) : FV := .fin (decide (x < 0)) x.natAbs 0

/-- The value used of a stored element under the slot's declared precision (R94). -/
def elemV (s : Word) (v : Nat) : FV :=
  let p := slDprec s
  match slE s with
  | .int w sgn =>
    let v := if p = 0 then v else v / 2 ^ (w - p) * 2 ^ (w - p)
    intV (if sgn then sNat w v else v)
  | .fp f =>
    let v := if p = 0 then v else v / 2 ^ (f.mw + 1 - p) * 2 ^ (f.mw + 1 - p)
    f.val (v * 2 ^ f.low)

/-- Element `i` of planes. -/
def planeElem (ps : List Nat) (i : Nat) : Nat :=
  ((List.range ps.length).zip ps).foldl (fun s p => if p.2.testBit i then s + 2 ^ p.1 else s) 0

/-- Planes of `n` bytes each, as numbers. -/
def planeNats (w n : Nat) (bs : List Byte) : List Nat := (List.range w).map fun i => leNat ((bs.drop (n * i)).take n)

/-- Bytes of one stored block (R279). -/
def blockSize (s : Word) : Nat :=
  if slSparse s = 0 then 128 * planesOf s else 128 + 4 * keptOf (slSparse s) * planesOf s

/-- Rows of a dense block: element e = 32 i + k. -/
def denseRows (s : Word) (bs : List Byte) : List (List (Option FV)) :=
  let ps := planeNats (planesOf s) 128 bs
  (List.range 32).map fun i => (List.range 32).map fun k => some (elemV s (planeElem ps (32 * i + k)))

/-- The `n` lowest set positions of a keep-mask. -/
def keepList (mask n : Nat) : List Nat := ((List.range 32).filter fun k => mask.testBit k).take n

/-- Rows of a sparse block. -/
def sparseRows (s : Word) (bs : List Byte) : List (List (Option FV)) :=
  let n := keptOf (slSparse s)
  let ps := planeNats (planesOf s) (4 * n) (bs.drop 128)
  (List.range 32).map fun i =>
    let ks := keepList (leNat ((bs.drop (4 * i)).take 4)) n
    (List.range 32).map fun k =>
      match ks.findIdx? (· = k) with
      | some j => some (elemV s (planeElem ps (n * i + j)))
      | none => none

def blockRows (s : Word) (bs : List Byte) : List (List (Option FV)) :=
  if slSparse s = 0 then denseRows s bs else sparseRows s bs

/-- Columns of a B block: element (k, n) is bit 32 n + k (R112). -/
def blockCols (s : Word) (bs : List Byte) : List (List FV) :=
  let ps := planeNats (planesOf s) 128 bs
  (List.range 32).map fun n => (List.range 32).map fun k => elemV s (planeElem ps (32 * n + k))

/-- Scale `i` of a strip, 1 without one. -/
def scaleV (strip : List Byte) (i : Nat) : FV :=
  if strip.isEmpty then .fin false 1 0 else fBF16.val (leNat ((strip.drop (2 * i)).take 2))

/-- The exact product of values: NaN where one is NaN or it is 0 times infinity. -/
def mulV (a b : FV) : FV :=
  match (mulTerm a b).1 with
  | .bad => .nan false
  | .inf n => .inf n
  | .num n _ =>
    match a, b with
    | .fin _ m e, .fin _ p g => .fin n (m * p) (e + g)
    | _, _ => .nan false

/-- The kept products of one chunk of one element, scales applied (R81, R95, R96). -/
def chunkTerms (row : List (Option FV)) (col : List FV) (sa sb : FV) : List Term :=
  let ts := (row.zip col).filterMap fun p =>
    match p.1 with
    | some a => some (mulV (mulV a sa) (mulV p.2 sb)).term
    | none => none
  -- an empty sum still meets the scales (R96, R97)
  if ts.isEmpty then [(mulV (mulV (.fin false 0 0) sa) sb).term] else ts

/-- The accumulator after a chunk in FP32 (R96, R97). -/
def accF (m : Rm) (sat : Bool) (acc : FV) (ts : List Term) : Nat :=
  let all := acc.term :: ts
  if all.any Term.isBad then fF32.cnan
  else
    let pos := all.any (Term.isInf false)
    let neg := all.any (Term.isInf true)
    if pos && neg then fF32.cnan
    else if pos || neg then (infTo fF32 sat neg).1
    else (roundQ fF32 m sat (m.code = 3) ((Q.sum (ts.map Term.q)).add acc.q)).1

/-- The accumulator after a chunk in INT32 (R98). -/
def accI (sat : Bool) (acc : Nat) (ts : List Term) : Nat :=
  let s := (Q.sum (ts.map Term.q)).floor + sNat 32 acc
  (narrowI 32 true sat s).1

/-! ## The latch (R43, R44, R277) -/

/-- The squads a gang register lists, ascending. -/
def gangSquads (m : Word) : List Nat := (List.range 32).filter fun s => m.getLsbD s

def WG.gang (g : WG) (r : Nat) : List Nat := gangSquads (g.gangs.getD r 0#32)

/-- A live fibre's wait at the latch of register `r`: its guard and instruction. -/
def latchOf (r : Nat) (f : Fib) : Option (Bool × Instr) :=
  match f.wait with
  | .latch q b i => if f.live && q = r then some (b, i) else none
  | _ => none

/-- A squad has a live fibre. -/
def WG.squadLive (g : WG) (s : Nat) : Bool := (squadFibs g s).any fun q => q.2.live

/-- A listed squad without a live fibre. -/
def WG.gangDead (g : WG) (r : Nat) : Bool := (g.gang r).any fun s => !g.squadLive s

/-- GANG_INVALID at the arrival of fibre `i` with its guard (R44). DEDUCED, log 25. -/
def gangBad (g : WG) (r i : Nat) (pc : DWord) (guard : Bool) : Bool :=
  let sq := g.gang r
  let others := ((List.range g.fibs.length).zip g.fibs).filter fun q => q.1 ≠ i && (latchOf r q.2).isSome
  sq.length < 2 || sq.length > 6 || !sq.contains (squadOf i) || g.gangDead r ||
  others.any fun q => q.2.pc ≠ pc || (squadOf q.1 = squadOf i && (latchOf r q.2).map (·.1) ≠ some guard)

/-- How the set of members stands: still waited for, all passed, some of each, all arrived (with the instruction). -/
inductive LatchSt where
  | hold
  | pass
  | mixed
  | arrived (i : Instr)
  deriving DecidableEq, Repr

/-- The waiting fibres of the members. -/
def latchParty (g : WG) (r : Nat) : List Nat :=
  ((g.gang r).flatMap fun s => (List.range 32).map (32 * s + ·)).filter fun i =>
    match g.fib? i with
    | some f => (latchOf r f).isSome
    | none => false

/-- DEDUCED, log 25. -/
def latchState (g : WG) (r : Nat) : LatchSt :=
  let sq := g.gang r
  let full (s : Nat) : Bool := (squadFibs g s).all fun q => !q.2.live || (latchOf r q.2).isSome
  let arr (s : Nat) : Bool := (squadFibs g s).any fun q => ((latchOf r q.2).map (·.1)) = some true
  if sq.isEmpty || !sq.all full || g.gangDead r then .hold
  else if sq.all (fun s => !arr s) then .pass
  else if !sq.all arr then .mixed
  else
    match (latchParty g r).head?.bind fun i => (g.fib? i).bind (latchOf r) with
    | some (_, i) => .arrived i
    | none => .hold

/-- The parties go on at the next instruction. -/
def Dev.latchGo (e : Env) (d : Dev) (w : Nat) (is : List Nat) (len : Nat) : Dev :=
  is.foldl (fun d i => d.modFib w i fun f => (f.issued false).advance e.now len) d

/-- The parties stand at the instruction and one fibre raises a trap (R272). -/
def Dev.latchTrap (e : Env) (d : Dev) (w : Nat) (is : List Nat) (i cause tval : Nat) : Dev :=
  (is.foldl (fun d k => d.modFib w k fun f => { f with wait := .none }) d).raise e w i cause tval

/-! ## Matrix operations (R267 to R271) -/

/-- The X of a matrix instruction that a latch holds. -/
def latchX (i : Instr) : Option X :=
  match i with
  | .mma x => some x
  | .aldFrag x => some x
  | .astFrag x => some x
  | _ => none

/-- Bytes of the instruction that the parties wait at. -/
def latchLen (g : WG) (r : Nat) (is : List Nat) : Nat :=
  ((is.head?.bind fun i => (g.fib? i).bind (latchOf r)).bind fun p => (latchX p.2).map X.len).getD 12

/-- A stretch of memory or tiles: kind 0 tiles, 1 global, 2 + rank a vault. -/
structure Region where
  kind : Nat
  lo : Int
  hi : Int

def Region.meets (a b : Region) : Bool := a.kind = b.kind && a.lo < b.hi && b.lo < a.hi

/-- Element bytes of a type. -/
def esM (m : Word) : Nat := tyBits (tyM m) / 8

/-- Rows of an `ald` or `ast`: the span around the pointer. -/
def MOp.span (o : MOp) : Int × Int := rowSpan (32 * znN o.m) (sNat 32 o.b) (32 * esM o.m)

/-- Bytes of a row-major block of `plan` (R289). -/
def planSrc (s : Word) : Nat :=
  match slE s with
  | .int w _ => if w ≤ 8 then 1024 else 2048
  | .fp f => 128 * (f.low + f.width)

/-- The memory span of an `ald`, an `ast` or a `plan`. -/
def MOp.mem (o : MOp) (g : WG) (l : Launch) : Region :=
  let at_ (p : Int × Int) (t : Tgt) : Region :=
    match t with
    | .glob va => ⟨1, va + p.1, va + p.2⟩
    | .vault r off => ⟨2 + r, off + p.1, off + p.2⟩
    | .acc off => ⟨0, off, off⟩
  match o.kind with
  | .plan => at_ (0, (znN o.m * planSrc (l.r.fmt.getD (slotA o.m) 0#32) : Nat)) (tgtOf g l o.fib o.a)
  | _ => at_ o.span (tgtOf g l o.fib o.a)

/-- The regions of an `mma`'s blocks and strips: pointer or offset, bytes (R279). -/
def mmaSpans (l : Launch) (o : MOp) : List (Nat × Nat) :=
  let sa := l.r.fmt.getD (slotA o.m) 0#32
  let sb := l.r.fmt.getD (slotB o.m) 0#32
  let strip (s : Word) (k : Nat) : Nat := if slScale s = 0 then 0 else if slScale s = 1 then 64 * k * kcN o.m else 64 * k
  [(ptrAddr o.a % 2 ^ 22, mtN o.m * kcN o.m * blockSize sa), (ptrAddr o.b % 2 ^ 22, ntN o.m * kcN o.m * blockSize sb),
   (o.c % 2 ^ 32, strip sa (mtN o.m)), (o.c / 2 ^ 32, strip sb (ntN o.m))]

def MOp.tileRegion (o : MOp) : Region :=
  match o.kind with
  | .plan => ⟨0, 0, 0⟩
  | _ => ⟨0, zt o.m, zt o.m + o.tiles.length⟩

/-- What an operation reads, and what it writes. -/
def MOp.reads (o : MOp) (g : WG) (l : Launch) : List Region :=
  match o.kind with
  | .mma => o.tileRegion :: (mmaSpans l o).map fun p => ⟨2 + g.rank, p.1, p.1 + p.2⟩
  | .aclr => []
  | .ald => [o.mem g l]
  | .plan => [o.mem g l]
  | .ascl =>
    let vec (p : Nat) : Region :=
      match tgtOf g l o.fib p with
      | .vault r off => ⟨2 + r, off, off + 128⟩
      | _ => ⟨0, 0, 0⟩
    o.tileRegion :: (if o.m.getLsbD 10 then [vec o.a] else []) ++ (if o.m.getLsbD 9 then [vec o.b] else [])
  | _ => [o.tileRegion]

def MOp.writes (o : MOp) (g : WG) (l : Launch) : List Region :=
  match o.kind with
  | .ast => [o.mem g l]
  | .plan => [o.mem g l]
  | _ => [o.tileRegion]

/-- An earlier operation of the work-group must complete before `o` starts (R269). DEDUCED, log 25. -/
def MOp.waitsFor (o p : MOp) (g : WG) (l : Launch) : Bool :=
  (p.writes g l).any (fun a => (o.reads g l ++ o.writes g l).any a.meets) || (p.reads g l).any fun a => (o.writes g l).any a.meets

/-- The engine: the array for `mma`, else the accumulator engine. -/
def MOp.onArray (o : MOp) : Bool := o.kind = .mma

/-- A byte-view store of one of the squads, of an exited fibre too, still has to be performed (R111). -/
def Dev.viewOpen (d : Dev) (g : WG) (sq : List Nat) (before : Nat) : Bool :=
  d.ops.any fun q => q.wg = g.id && q.id < before && ptrSpace q.addr = 2 && q.act.writes && sq.contains (squadOf q.fib) &&
    !q.kind.isCopy && !q.performed

/-- Accesses that precede the operation have all been performed (R111, R270). -/
def Dev.mopReady (d : Dev) (g : WG) (o : MOp) : Bool :=
  o.arrivals.all (fun i => !d.olderOpen g.id i o.id) && !d.viewOpen g (o.arrivals.map squadOf) o.id

/-- The operation of the engine that comes next on a core, if every condition of R269 holds. -/
def Dev.mopNext (d : Dev) (core : Nat) (arr : Bool) : Option (Nat × Nat) :=
  let busy := if arr then (d.core core).arrayBusy else (d.core core).accBusy
  if busy.isSome then none
  else
    let gs := d.wgs.filter fun g => g.core = core && g.place = .resident && g.halt = .none
    let cand := gs.flatMap fun g => (g.mops.filter fun o => o.onArray = arr && !o.started).map fun o => (g, o)
    match minBy (fun p => p.2.id) cand with
    | none => none
    | some (g, o) =>
      match d.launch? g.launch with
      | none => none
      | some l =>
        if d.mopReady g o && !(g.mops.any fun p => p.id < o.id && o.waitsFor p g l) then some (g.id, o.id) else none

/-- A release (R267): the operation joins matrix order. -/
def Dev.release (e : Env) (d : Dev) (w : Nat) (o : MOp) : Dev :=
  let (id, d) := d.takeId
  d.modWg w fun g => { g with mops := g.mops ++ [{ o with id := id, ord := g.issue, relAt := e.now }], issue := g.issue + 1 }

/-- The parameters of a matrix order entry. -/
def mopOf (k : MKind) (fib : Nat) (arr : List Nat) (m : Word) (a b c : Nat) : MOp :=
  { id := 0, kind := k, fib := fib, arrivals := arr, ord := 0, relAt := 0, m := m, a := a, b := b, c := c }

/-! ## gang (R276) -/

def insGang : Ins where
  b := fun _ => opd 1
  feat := fun _ _ => featMatrix
  inHandler := false

/-- The write is seen from the next cc on (R276). -/
def bodyGang : Body := fun e cx g f _ d =>
  let r := cx.x.d.toNat % 4
  if g.fibs.any fun f => (latchOf r f).isSome then d.trap e cx cGangInvalid r
  else
    (d.modWg cx.wg fun g =>
      { g with gn := addWrite g.gn { reg := r, fib := cx.fi, val := BitVec.ofNat 32 (srcB e.now g f cx.x 1) } }).advance cx

/-! ## mma (R278 to R282) -/

def slotMma (s : Word) : Bool := slotOk s && slFmt s ≠ 8 && slFmt s ≠ 9 && slRnd s ≠ 5

def slotsScaled (l : Lv) (x : X) : Bool := slScale (l.slot x.slot) ≠ 0 || slScale (l.slot (slotB x.m)) ≠ 0

/-- DEDUCED, log 16. -/
def insMma : Ins where
  a := fun _ => opd 2
  b := fun _ => opd 2
  cL := fun l x => if slotsScaled l x then opd 2 else {}
  ok4 := fun l x => slotsScaled l x || x.noC
  feat := fun l x => featMatrix ||| if slSparse (l.slot x.slot) ≠ 0 then featSparse else 0#32
  ok6 := fun l x =>
    let sa := l.slot x.slot
    let sb := l.slot (slotB x.m)
    let int (s : Word) : Bool := slFmt s = 0x10
    zt x.m + mtN x.m * ntN x.m ≤ l.a && slotMma sa && slotMma sb && slSparse sb = 0 &&
    (!x.mb 4 || (int sa && int sb && slScale sa = 0 && slScale sb = 0))
  inHandler := false
  always := true

/-- The checks of R280 on the lead fibre's values; every block of a sparse operand has an aligned base (R112). -/
def mmaCheck (g : WG) (l : Launch) (o : MOp) (w0 : Nat) : Option (Nat × Nat) :=
  let vOk (q : Nat) : Bool := ptrShape q && ptrAddr q / 2 ^ 52 < l.r.members
  let fits (p : Nat × Nat) : Bool := p.1 + p.2 ≤ l.r.v || p.2 = 0
  let stripPtr (off : Nat) : Nat := 2 ^ 60 + g.rank * 2 ^ 52 + off
  match mmaSpans l o with
  | [a, b, p, q] =>
    if ptrSpace o.a ≠ 1 then some (cSpaceInvalid, o.a)
    else if ptrSpace o.b ≠ 1 then some (cSpaceInvalid, o.b)
    else if !vOk o.a || !fits a then some (cVaultRange, o.a)
    else if !vOk o.b || !fits b then some (cVaultRange, o.b)
    else if !fits p then some (cVaultRange, stripPtr p.1)
    else if !fits q then some (cVaultRange, stripPtr q.1)
    else if ptrAddr o.a / 2 ^ 52 ≠ g.rank || ptrAddr o.b / 2 ^ 52 ≠ g.rank then some (cIllegalOperand, w0)
    else if a.1 % 128 ≠ 0 || b.1 % 128 ≠ 0 || (mtN o.m * kcN o.m ≠ 1 && blockSize (l.r.fmt.getD (slotA o.m) 0#32) % 128 ≠ 0) || (p.2 ≠ 0 && p.1 % 64 ≠ 0) || (q.2 ≠ 0 && q.1 % 64 ≠ 0) then some (cIllegalOperand, w0)
    else none
  | _ => none

/-- The `mma` of a latch whose members have all arrived: checked and released, or held while 16 operations are open or an
arriving fibre's older access is not performed. -/
def Dev.mmaRelease (e : Env) (d : Dev) (g : WG) (l : Launch) (is : List Nat) (x : X) : Dev :=
  if g.mops.length ≥ 16 || is.any (fun i => d.olderOpen g.id i d.nextId) then d
  else
    match is with
    | [] => d
    | lead :: _ =>
      match g.fib? lead with
      | none => d
      | some f =>
        let o := mopOf .mma lead is x.m (srcA e.now g f x 2) (srcB e.now g f x 2) (if slotsScaled (lvOf d g f l) x then srcC f x 2 else 0)
        match mmaCheck g l o ((encode (.mma x)).headD 0#32).toNat with
        | some (c, v) => d.latchTrap e g.id is lead c v
        | none => (d.release e g.id o).latchGo e g.id is x.len

/-- What a latch's state calls for. A fragment transfer runs as a step of its own. DEDUCED, log 25. -/
def Dev.latchFire (e : Env) (d : Dev) (w r last : Nat) : Dev :=
  match d.wg? w with
  | none => d
  | some g =>
    let is := latchParty g r
    match d.launch? g.launch with
    | none => d
    | some l =>
      if g.halt ≠ .none then d
      else if !is.isEmpty && g.gangDead r then d.latchTrap e w is (is.headD 0) cGangInvalid r
      else
        match latchState g r with
        | .hold => d
        | .pass => d.latchGo e w is (latchLen g r is)
        | .mixed => d.latchTrap e w is last cGangInvalid r
        | .arrived (.mma x) => d.mmaRelease e g l is x
        | .arrived _ => d

/-- Every latch of a work-group, after an exit or when what it waits for has changed. DEDUCED, log 25. -/
def Dev.latchRecheck (e : Env) (d : Dev) (w : Nat) : Dev :=
  (List.range 4).foldl (fun d r =>
    match d.wg? w with
    | some g => d.latchFire e w r ((latchParty g r).headD 0)
    | none => d) d

/-- Arrival at a latch. -/
def latchBody (i : Instr) (r : Nat) : Body := fun e cx g f _ d =>
  if gangBad g r cx.fi f.pc cx.guard then d.trap e cx cGangInvalid r
  else (d.block cx (.latch r cx.guard i)).latchFire e cx.wg r cx.fi

/-! ## Single-fibre operations (R283 to R289) -/

/-- A release by one fibre, held while 16 operations are open (R271). -/
def Dev.releaseOne (e : Env) (d : Dev) (cx : Cx) (g : WG) (o : MOp) : Dev :=
  if g.mops.length ≥ 16 then d.block cx .matRoom else (d.release e cx.wg o).advance cx

def insAclr : Ins where
  b := fun _ => opd 1
  feat := fun _ _ => featMatrix
  ok6 := fun l x => zt x.m + znN x.m ≤ l.a
  inHandler := false

def bodyAclr : Body := fun e cx g f _ d =>
  d.releaseOne e cx g (mopOf .aclr cx.fi [cx.fi] cx.x.m 0 (srcB e.now g f cx.x 1) 0)

def tysTile : List Nat := [0x01, 0x02, 0x03, 0x04, 0x05, 0x06, 0x07, 0x08, 0x09, 0x10, 0x12, 0x13, 0x14, 0x15]

/-- DEDUCED, log 15. -/
def insAld (st : Bool) : Ins where
  a := fun _ => opd 2
  b := fun _ => opd 1
  feat := fun _ _ => featMatrix
  ok6 := fun l x => tyIn tysTile x && zt x.m + znN x.m ≤ l.a && (!st || x.rnd ≤ 4)
  inHandler := false

def bodyAld (st : Bool) : Body := fun e cx g f l d =>
  let p := srcA e.now g f cx.x 2
  let o := mopOf (if st then .ast else .ald) cx.fi [cx.fi] cx.x.m p (srcB e.now g f cx.x 1) 0
  let s := o.span
  match spanOk g f l cx.fi p s.1 s.2 (if st then [0, 1, 3] else [0, 1, 3, 4]) st with
  | .error (c, v) => d.trap e cx c v
  | .ok t =>
    if ptrAddr p % esM cx.x.m ≠ 0 || o.b % esM cx.x.m ≠ 0 then d.illegal e cx
    else if g.mops.length ≥ 16 then d.block cx .matRoom
    else
      let outside := match t with
        | .vault r _ => decide (((d.member g r).map (·.core)).getD g.core ≠ g.core)
        | _ => true
      if st && outside then
        if d.tagBlocked g cx.fi f none (cx.instr f) then d.tagHold cx f none
        else
          let (tag, d) := d.takeTag g f
          (d.release e cx.wg { o with tag := tag }).advance cx
      else (d.release e cx.wg o).advance cx

def insFrag : Ins where
  b := fun _ => opd 1
  d := fun x => run (x.mf 17 13 + 1)
  feat := fun _ _ => featMatrix
  ok6 := fun l x => zt x.m < l.a
  inHandler := false
  always := true

def insAcvt : Ins where
  feat := fun _ _ => featMatrix
  ok6 := fun l x => tyIn [0x10, 0x07, 0x11, 0x12, 0x13, 0x14, 0x15] x && x.rnd ≤ 4 && zt x.m + znN x.m ≤ l.a
  inHandler := false

def bodyAcvt : Body := fun e cx g _ _ d => d.releaseOne e cx g (mopOf .acvt cx.fi [cx.fi] cx.x.m 0 0 0)

def insAscl : Ins where
  a := fun x => if x.mb 10 then opd 2 else {}
  b := fun x => if x.mb 9 then opd 2 else {}
  feat := fun _ _ => featMatrix
  ok6 := fun l x => (x.mb 10 || x.mb 9) && x.rnd ≤ 4 && zt x.m + znN x.m ≤ l.a
  inHandler := false

/-- A vector pointer of `ascl`. -/
def vecCheck (g : WG) (f : Fib) (l : Launch) (i q : Nat) : Option (Nat × Nat) :=
  match resolve g { f with hnd := true } l i q 128 [1] 1 true false with
  | .error v => some v
  | .ok _ => none

def bodyAscl : Body := fun e cx g f l d =>
  let a := srcA e.now g f cx.x 2
  let b := srcB e.now g f cx.x 2
  let chk (on : Bool) (q : Nat) : Option (Nat × Nat) := if on then vecCheck g f l cx.fi q else none
  match chk (cx.x.mb 10) a, chk (cx.x.mb 9) b with
  | some (c, v), _ => d.trap e cx c v
  | _, some (c, v) => d.trap e cx c v
  | none, none =>
    if (cx.x.mb 10 && ptrAddr a % 128 ≠ 0) || (cx.x.mb 9 && ptrAddr b % 128 ≠ 0) then d.illegal e cx
    else d.releaseOne e cx g (mopOf .ascl cx.fi [cx.fi] cx.x.m a b 0)

def insPlan : Ins where
  a := fun _ => opd 2
  feat := fun _ _ => featMatrix
  ok6 := fun l x => let s := l.slot x.slot; slotConvOk s && slFmt s ≠ 8 && slFmt s ≠ 9 && slRnd s ≠ 5
  inHandler := false

/-- Where several release checks fail, the space counts first, then the region or a rank beyond the cohort (VAULT_RANGE), then the rank and
the alignment (ILLEGAL_OPERAND): R289 gives no order. DESIGN CHOICE, log 25. -/
def bodyPlan : Body := fun e cx g f l d =>
  let p := srcA e.now g f cx.x 2
  let n := znN cx.x.m * planSrc (l.r.fmt.getD cx.x.slot 0#32)
  if ptrSpace p ≠ 1 then d.trap e cx cSpaceInvalid p
  else
    match resolve g { f with hnd := true } l cx.fi p n [1] 1 true true with
    | .error (c, v) => d.trap e cx c v
    | .ok _ =>
      if ptrAddr p / 2 ^ 52 ≠ g.rank || ptrAddr p % 128 ≠ 0 then d.illegal e cx
      else d.releaseOne e cx g (mopOf .plan cx.fi [cx.fi] cx.x.m p 0 0)

/-! ## Steps (R273, R281 to R289) -/

/-- Steps of an operation. -/
def MOp.steps (o : MOp) : Nat :=
  match o.kind with
  | .mma => kcN o.m * mtN o.m * ntN o.m
  | .ald => 32 * znN o.m
  | .ast => 32 * znN o.m
  | _ => znN o.m

/-- One block-chunk: the tile's elements after chunk c, or none where poison is read. -/
def mmaTile (g : WG) (l : Launch) (o : MOp) (k : Nat) : Option (Nat × List Word) :=
  let sa := l.r.fmt.getD (slotA o.m) 0#32
  let sb := l.r.fmt.getD (slotB o.m) 0#32
  let mt := mtN o.m
  let nt := ntN o.m
  let kc := kcN o.m
  let c := k / (mt * nt)
  let mb := k / nt % mt
  let nb := k % nt
  let z := zt o.m + mb * nt + nb
  let aOff := ptrAddr o.a % 2 ^ 22 + (mb * kc + c) * blockSize sa
  let bOff := ptrAddr o.b % 2 ^ 22 + (nb * kc + c) * blockSize sb
  let stripOff (s : Word) (base blk : Nat) : Nat := base + (if slScale s = 1 then blk * kc + c else blk) * 64
  let saOff := stripOff sa (o.c % 2 ^ 32) mb
  let sbOff := stripOff sb (o.c / 2 ^ 32) nb
  let strip (s : Word) (off : Nat) : List Byte := if slScale s = 0 then [] else g.vaultBytes off 64
  if g.vaultBad aOff (blockSize sa) || g.vaultBad bOff (blockSize sb) || (slScale sa ≠ 0 && g.vaultBad saOff 64) ||
      (slScale sb ≠ 0 && g.vaultBad sbOff 64) then none
  else
    let rows := blockRows sa (g.vaultBytes aOff (blockSize sa))
    let cols := blockCols sb (g.vaultBytes bOff (blockSize sb))
    let pa := strip sa saOff
    let pb := strip sb sbOff
    let fresh := o.m.getLsbD 3 && c = 0
    let rm : Rm := { code := slRnd sa }
    let elem (m n : Nat) : Word :=
      let old := if fresh then 0 else (g.tileWord z (32 * m + n)).toNat
      let ts := chunkTerms (rows.getD m []) (cols.getD n []) (scaleV pa m) (scaleV pb n)
      BitVec.ofNat 32 (if o.m.getLsbD 4 then accI (slSat sa) old ts else accF rm (slSat sa) (f32V old) ts)
    some (z, (List.range 1024).map fun i => elem (i / 32) (i % 32))

/-- A tile's elements written from index `i`. -/
def WG.setTile (g : WG) (z : Nat) (i : Nat) (ws : List Word) : WG :=
  ((List.range ws.length).zip ws).foldl (fun g p => g.setTileWord z (i + p.1) p.2) g

/-- The accumulator element that `ald` writes for a memory element (R285). -/
def aldElem (t v : Nat) : Nat :=
  if t ≥ 0x11 then (cvtF fF32 rne false ((tyF t).val v)).1
  else if tyS t then bitsOf (sNat (tyBits t) v) 32
  else v

/-- The memory element that `ast` writes (R285). -/
def astElem (m : Word) (v : Nat) : Nat :=
  let t := tyM m
  if t ≥ 0x11 then (cvtF (tyF t) (rmM m) (satM m) (f32V v)).1
  else if tyBits t = 32 then v
  else if tyS t then (narrowI (tyBits t) true (satM m) (sNat 32 v)).1
  else if tyZ t then (narrowI (tyBits t) false (satM m) (sNat 32 v)).1
  else v % 2 ^ tyBits t

/-- `acvt` of one element (R287). -/
def acvtElem (m : Word) (v : Nat) : Nat :=
  match bitsN m.toNat 4 0 with
  | 0 => (roundQ fF32 (rmM m) (satM m) false (Q.ofInt (sNat 32 v))).1
  | 0x10 => (roundQ fF32 (rmM m) (satM m) false (Q.ofInt (sNat 32 v))).1
  | 0x07 => bitsOf (cvtI 32 true (rmM m) (satM m) (f32V v)).1 32
  | t => (cvtF fF32 rne false ((tyF t).val (cvtF (tyF t) (rmM m) (satM m) (f32V v)).1)).1

/-- `ascl` of one element (R288). -/
def asclElem (m : Word) (x r c : FV) : Nat :=
  match mulV (mulV x r) c with
  | .nan _ => fF32.cnan
  | .inf n => (infTo fF32 (satM m) n).1
  | .fin n k e => (roundQ fF32 (rmM m) (satM m) n (FV.fin n k e).q).1

/-- The planar block of row-major element values (R112, R289): bit 32 n + k of `.b` is element (k, n), at index 32 k + n. -/
def planBytes (s : Word) (byCol : Bool) (src : List Byte) : List Byte :=
  let v := leNat src
  let bits := match slE s with
    | .int w _ => if w ≤ 8 then 8 else 16
    | .fp f => f.low + f.width
  let low := match slE s with
    | .int _ _ => 0
    | .fp f => f.low
  (List.range (planesOf s)).flatMap fun p =>
    bytesOfBits ((List.range 1024).map fun i =>
      v.testBit (bits * (if byCol then i % 32 * 32 + i / 32 else i) + low + p))

/-- The unit step cannot be made yet, or what it leaves. -/
inductive MStep where
  | wait
  | done

/-- Who asks for the bytes of an `ald` or `ast`. -/
def MOp.asker (_ : MOp) (g : WG) : Asker := { wg := g.id, core := g.core, unit := 4, fsvc := g.ctx.fsvc }

/-- The lines of a row are open to writing: none waits for a fill. -/
def Dev.rowOpen (e : Env) (g : WG) : List Nat → Dev → Bool × Dev
  | [], d => (true, d)
  | va :: r, d =>
    match rangeLookup g.rng va with
    | none => Dev.rowOpen e g r d
    | some ia =>
      match d.reach e ia .wr with
      | (.filling _, d) => (false, d)
      | (.at_ _, d) => Dev.rowOpen e g r d
      | (_, _) => Dev.rowOpen e g r d

def WG.modMop (g : WG) (id : Nat) (f : MOp → MOp) : WG := { g with mops := g.mops.map fun o => if o.id = id then f o else o }

/-- A matrix operation raises one ASYNC cause, with the first address given up (R274). -/
def Dev.asyncMop (d : Dev) (w : Nat) (o : MOp) (cause va : Nat) : Dev :=
  if o.lost then d
  else (d.async w o.fib cause (vaWide va)).modWg w fun g => g.modMop o.id fun o => { o with lost := true }

/-- Bytes of a row of `ast` written at their homes under the entry's tag; parked bytes count as performed (R270, R274).
DEDUCED, log 25. -/
def Dev.astRow (e : Env) (d : Dev) (g : WG) (o : MOp) (t : Tgt) (bs : List Byte) : MStep × Dev :=
  match t with
  | .glob va =>
    let n := bs.length
    match Dev.rowOpen e g [va, va + n - 1] d with
    | (false, d) => (.wait, d)
    | (true, d) =>
      let op : Op := { id := o.id, kind := .ast, wg := g.id, fib := o.fib, core := g.core, tag := o.tag, mark := o.mark }
      match Dev.writeG e g.rng (o.asker g) op 3 d va bs with
      | (.wait _, d) => (.wait, d)
      | (.lost c v, d) => (.done, d.asyncMop g.id o c v)
      | (_, d) => (.done, d)
  | .vault r off =>
    match d.member g r with
    | some h => (.done, d.vaultWrite h.id off bs)
    | none => (.done, d)
  | .acc _ => (.done, d)

/-- One step of an operation; poison raises HW_UNCORRECTABLE with `%tval` 0. DEDUCED, log 25; DESIGN CHOICE, log 48. -/
def Dev.matrixDo (e : Env) (d : Dev) (g : WG) (l : Launch) (o : MOp) : MStep × Dev :=
  let k := o.mark
  let bad (d : Dev) : MStep × Dev :=
    (.done, d.consume g.id o.fib 0)
  let tile := zt o.m + k
  let each (fn : Nat → Nat → Nat) : MStep × Dev :=
    (.done, d.modWg g.id (·.setTile tile 0 ((List.range 1024).map fun i => BitVec.ofNat 32 (fn i (g.tileWord tile i).toNat))))
  match o.kind with
  | .mma =>
    match mmaTile g l o k with
    | some (z, ws) => (.done, d.modWg g.id (·.setTile z 0 ws))
    | none => bad d
  | .aclr => each fun _ _ => o.b
  | .acvt => each fun _ v => acvtElem o.m v
  | .ascl =>
    let vec (i : Nat) : FV := f32V (o.vecs.getD i 0#32).toNat
    each fun i v => asclElem o.m (f32V v) (vec (i / 32)) (vec (32 + i % 32))
  | .ald =>
    let t := (tgtOf g l o.fib o.a).plus (k * sNat 32 o.b)
    let es := esM o.m
    match d.readT e g (o.asker g) t (32 * es) with
    | (.ok bs isBad, d) =>
      if isBad then bad d
      else
        let ws := (List.range 32).map fun i => BitVec.ofNat 32 (aldElem (tyM o.m) (leNat ((bs.drop (es * i)).take es)))
        (.done, d.modWg g.id (·.setTile (zt o.m + k / 32) (32 * (k % 32)) ws))
    | (.wait _, d) => (.wait, d)
    | (.lost c v, d) => (.done, d.asyncMop g.id o c v)
  | .ast =>
    let t := (tgtOf g l o.fib o.a).plus (k * sNat 32 o.b)
    let row := (List.range 32).flatMap fun i =>
      leBytes (esM o.m) (astElem o.m (g.tileWord (zt o.m + k / 32) (32 * (k % 32) + i)).toNat)
    d.astRow e g o t row
  | .plan =>
    let s := l.r.fmt.getD (slotA o.m) 0#32
    let p := ptrAddr o.a % 2 ^ 22
    let n := planSrc s
    if g.vaultBad (p + k * n) n then bad d
    else (.done, d.vaultWrite g.id (p + k * 128 * planesOf s) (planBytes s (o.m.getLsbD 10) (g.vaultBytes (p + k * n) n)))

/-- The engine of an operation set or freed. -/
def Dev.setEngine (d : Dev) (core : Nat) (arr : Bool) (v : Option Nat) : Dev :=
  d.modCore core fun k => if arr then { k with arrayBusy := v } else { k with accBusy := v }

/-- MATRIX_OP_START: work-group and operation. `ascl` reads its vectors now (R288). -/
def Dev.matrixStart (e : Env) (d : Dev) (w id : Nat) : Dev :=
  match d.wg? w with
  | none => d
  | some g =>
    match g.mops.find? fun o => o.id = id, d.launch? g.launch with
    | some o, some l =>
      if o.started || g.frozen || g.handling || g.stopping || d.mopNext g.core o.onArray ≠ some (w, id) then d
      else
        let vec (on : Bool) (q : Nat) : List Word :=
          if !on then List.replicate 32 0x3F800000#32
          else
            match tgtOf g l o.fib q with
            | .vault r off =>
              match d.member g r with
              | some h => wordsOfBytes (h.vaultBytes off 128)
              | none => List.replicate 32 0#32
            | _ => List.replicate 32 0#32
        let badVec (on : Bool) (q : Nat) : Bool := on &&
          match tgtOf g l o.fib q with
          | .vault r off => ((d.member g r).map fun h => h.vaultBad off 128).getD false
          | _ => false
        let isAscl := decide (o.kind = .ascl)
        let rv := o.m.getLsbD 10
        let cv := o.m.getLsbD 9
        let vs := if isAscl && o.vecs.isEmpty then vec rv o.a ++ vec cv o.b else o.vecs
        let d := if isAscl && o.vecs.isEmpty && (badVec rv o.a || badVec cv o.b) then d.consume w o.fib 0 else d
        (d.setEngine g.core o.onArray (some id)).modWg w fun g =>
          g.modMop id fun o => { o with started := true, startAt := e.now, mark0 := o.mark, vecs := vs }
    | _, _ => d

/-- The step that ran at the halt is over, or waits on a page and is abandoned (R273, R274). -/
def MOp.halted (o : MOp) : Bool :=
  match o.stopAt with
  | some m => decide (m ≤ o.mark)
  | none => false

/-- A halt lets the running step end (R273). -/
def MOp.stopNext (o : MOp) : MOp := if o.started && o.stopAt.isNone then { o with stopAt := some (o.mark + 1) } else o

/-- MATRIX_STEP_COMPLETE: work-group and operation. The last step ends the operation: its tiles and its engine are free.
DEDUCED, log 25. -/
def Dev.matrixStep (e : Env) (d : Dev) (w id : Nat) : Dev :=
  match d.wg? w with
  | none => d
  | some g =>
    match g.mops.find? fun o => o.id = id, d.launch? g.launch with
    | some o, some l =>
      if !o.started || g.frozen || g.handling || o.halted then d
      else
        match d.matrixDo e g l o with
        | (.wait, d) => d.modWg w fun g => g.modMop id fun o => { o with held := true }
        | (.done, d) =>
          if o.mark + 1 < o.steps then d.modWg w fun g => g.modMop id fun o => { o with mark := o.mark + 1, held := false }
          else
            ((d.setEngine g.core o.onArray none).modWg w fun g => { g with mops := g.mops.filter fun p => p.id ≠ id }).retireTag e g.core o.tag
    | _, _ => d

/-! ## When a step completes (R269, R282) -/

/-- Significand width read (R93). -/
def effSig (s : Word) : Nat := if slDprec s = 0 then (slE s).sig else slDprec s

/-- Products per tile and cc (R93, R95). -/
def pEff (sa sb : Word) : Nat :=
  let p := (16 / ((effSig sa + 1) / 2)) * (16 / ((effSig sb + 1) / 2))
  if slSparse sa = 0 then p else min (p * min (32 / keptOf (slSparse sa)) 4) 256

/-- Planes read of each element (R282). -/
def planesRead (s : Word) : Nat :=
  match slE s with
  | .int _ _ => effSig s
  | .fp f => if slDprec s = 0 then f.width else f.ew + slDprec s

/-- Bytes read from a block and its strip in each chunk. -/
def chunkBytes (s : Word) : Nat :=
  (if slSparse s = 0 then 128 * planesRead s else 128 + 4 * keptOf (slSparse s) * planesRead s) + if slScale s = 1 then 64 else 0

/-- cc from the start to the end of `k` further block-chunks of an `mma`. DESIGN CHOICE, log 14. -/
def mmaTime (l : Launch) (o : MOp) (k : Nat) : Nat :=
  let sa := l.r.fmt.getD (slotA o.m) 0#32
  let sb := l.r.fmt.getD (slotB o.m) 0#32
  let mt := mtN o.m
  let nt := ntN o.m
  let p := pEff sa sb
  let supply := mt * chunkBytes sa + nt * chunkBytes sb
  -- the greater of MT·NT·64/P and supply/2048, for k of MT·NT block-chunks
  let t1 := (k * 64 + p - 1) / p
  let t2 := (k * supply + 2048 * mt * nt - 1) / (2048 * mt * nt)
  12 + max t1 t2

/-- cc from the start to the end of step `k`, counted from the step the operation started with. -/
def stepTime (l : Launch) (o : MOp) (k : Nat) : Nat :=
  match o.kind with
  | .mma => mmaTime l o (k + 1)
  | .aclr => k + 1
  | .ald => ((k + 1) * 32 * esM o.m + 127) / 128
  | .ast => ((k + 1) * 32 * esM o.m + 127) / 128
  | .plan => 32 * (k + 1)
  | _ => 2 * (k + 1)

/-- Steps of a started operation that are due: several may end in one cc, and one that waits on a page keeps the rest back. -/
def MOp.dueSteps (o : MOp) (l : Launch) (now : Nat) : Nat :=
  if !o.started then 0
  else
    let n := ((upFrom o.mark (min 128 (o.steps - o.mark))).takeWhile fun k => decide (o.startAt + stepTime l o (k - o.mark0) ≤ now)).length
    if o.held then min n 1 else n

/-! ## Fragment mode (R286) -/

/-- A fragment transfer may run: its members have all arrived, no operation names its tile, and what they issued before has been
performed. -/
def Dev.fragReady (d : Dev) (g : WG) (r : Nat) : Bool :=
  let go (x : X) : Bool :=
    !(g.mops.any fun o => o.names (zt x.m) 1) && (latchParty g r).all (fun i => !d.olderOpen g.id i d.nextId) &&
    !d.viewOpen g (g.gang r) d.nextId
  match latchState g r with
  | .arrived (.aldFrag x) => go x
  | .arrived (.astFrag x) => go x
  | _ => false

/-- FRAGMENT_TRANSFER: work-group and gang register. -/
def Dev.fragment (e : Env) (d : Dev) (w r : Nat) : Dev :=
  match d.wg? w with
  | none => d
  | some g =>
    if g.halt ≠ .none || !d.fragReady g r then d
    else
      let is := latchParty g r
      let sq := g.gang r
      match latchState g r with
      | .arrived i =>
        match latchX i, (g.fib? (is.headD 0)) with
        | some x, some lead =>
          let nw := x.mf 17 13 + 1
          let c0 := srcB e.now g lead x 1
          let load := match i with
            | .aldFrag _ => true
            | _ => false
          if c0 + nw * sq.length > 32 then d.latchTrap e w is (is.headD 0) cIllegalOperand ((encode i).headD 0#32).toNat
          else
            let own := ((List.range sq.length).zip sq).flatMap fun p => (List.range 32).map fun q => (32 * p.2 + q, q, c0 + nw * p.1)
            let d := own.foldl (fun d t =>
              match d.fib? w t.1 with
              | none => d
              | some f =>
                if !f.live then d
                else if load then d.modWg w (·.setTile (zt x.m) (32 * t.2.1 + t.2.2) (f.words x.d.toNat nw))
                else d.modFib w t.1 (·.setWords x.d.toNat ((List.range nw).map fun u => g.tileWord (zt x.m) (32 * t.2.1 + t.2.2 + u)))) d
            let (n, d) := d.choose 8
            is.foldl (fun d i => d.modFib w i fun f => { (f.issued false).advance e.now x.len with readyAt := e.now + 1 + n }) d
        | _, _ => d
      | _ => d

/-! ## await (R290, R291) -/

def insAwait : Ins where
  wp := fun x => if x.mb 9 then [x.dx.toNat] else []
  feat := fun _ _ => featMatrix
  ok6 := fun l x => x.mb 10 || zt x.m + znN x.m ≤ l.a

/-- The operations an `await` speaks of. -/
def awaitSet (g : WG) (now fi : Nat) (x : X) : List Nat :=
  (g.mops.filter fun o => (o.relAt < now || o.fib = fi) && (x.mb 10 || o.names (zt x.m) (znN x.m))).map (·.id)

/-- An `await` that reports completion empties the core's L1 (R114). -/
def bodyAwait : Body := fun _ cx g _ _ d =>
  let s := awaitSet g cx.now cx.fi cx.x
  if s.isEmpty then (d.invalidateL1 g.core).advance cx else d.block cx (.mops s)

def bodyAwaitTest : Body := fun _ cx g _ _ d =>
  let s := awaitSet g cx.now cx.fi cx.x
  let d := if s.isEmpty then d.invalidateL1 g.core else d
  (d.modFib cx.wg cx.fi (·.setPred cx.x.dx.toNat s.isEmpty)).advance cx

/-! ## Meanings -/

def execGang (x : X) : State → Host.Outcome State Fault Refusal := issue insGang bodyGang (.gang x) x

def execMma (x : X) : State → Host.Outcome State Fault Refusal :=
  issue insMma (latchBody (.mma x) (x.mf 13 12)) (.mma x) x

def execAclr (x : X) : State → Host.Outcome State Fault Refusal := issue insAclr bodyAclr (.aclr x) x

def execAld (x : X) : State → Host.Outcome State Fault Refusal := issue (insAld false) (bodyAld false) (.ald x) x

def execAst (x : X) : State → Host.Outcome State Fault Refusal := issue (insAld true) (bodyAld true) (.ast x) x

def execAldFrag (x : X) : State → Host.Outcome State Fault Refusal :=
  issue insFrag (latchBody (.aldFrag x) (x.mf 19 18)) (.aldFrag x) x

def execAstFrag (x : X) : State → Host.Outcome State Fault Refusal :=
  issue insFrag (latchBody (.astFrag x) (x.mf 19 18)) (.astFrag x) x

def execAcvt (x : X) : State → Host.Outcome State Fault Refusal := issue insAcvt bodyAcvt (.acvt x) x

def execAscl (x : X) : State → Host.Outcome State Fault Refusal := issue insAscl bodyAscl (.ascl x) x

def execPlan (x : X) : State → Host.Outcome State Fault Refusal := issue insPlan bodyPlan (.plan x) x

def execAwait (x : X) : State → Host.Outcome State Fault Refusal := issue insAwait bodyAwait (.await x) x

def execAwaitTest (x : X) : State → Host.Outcome State Fault Refusal := issue insAwait bodyAwaitTest (.awaitTest x) x

def execMatrixOpStart : State → Host.Outcome State Fault Refusal := event fun e d => d.matrixStart e d.arg.a d.arg.b

def execMatrixStepComplete : State → Host.Outcome State Fault Refusal := event fun e d => d.matrixStep e d.arg.a d.arg.b

def execFragmentTransfer : State → Host.Outcome State Fault Refusal := event fun e d => d.fragment e d.arg.a d.arg.b

end Sys2Proof.Machine
end

