-- ==== Sys2Proof/Machine/Form.lean ====
section
/-! DEFINITION. Launch records and the state of new work-groups and fibres (R21, R25 to R27, R59 to R62, R73, R438). -/
namespace Sys2Proof.Machine

open Sys2Proof

/-! ## Launch records (R438) -/

/-- `n` bytes at offset `o` as a number. -/
def fieldN (bs : List Byte) (o n : Nat) : Nat := leNat ((bs.drop o).take n)

def parseRecord (bs : List Byte) : Record :=
  let f (o n : Nat) : Nat := fieldN bs o n
  { text := f 0 8, tsize := f 8 4, w := f 12 2, fcap := f 14 2, fstart := f 16 2, binage := f 18 2, coh := f 20 1 % 8,
    priv := (f 20 1).testBit 7, fpen := BitVec.ofNat 6 (f 21 1), a := f 22 2, v := f 24 4,
    wid := (List.range 6).map fun i => f (28 + i) 1, em1 := (List.range 6).map fun i => f (36 + 4 * i) 4,
    feat := BitVec.ofNat 32 (f 60 4), fmt := (List.range 8).map fun i => BitVec.ofNat 32 (f (64 + 4 * i) 4),
    argn := f 96 4, argp := f 104 8, pbase := f 112 8, psize := f 120 4, csize := f 124 4, cbase := f 128 8, pool := f 136 8,
    deadline := f 144 8, pred := f 152 4, nmod := f 156 2 }

/-- How the record is used: which of its limits count (R30, R438, R440). -/
inductive RUse where
  | grid | pool | pixel
  deriving DecidableEq, Repr

def Record.ext (r : Record) (i : Nat) : Nat := r.em1.getD i 0 + 1
def Record.width (r : Record) (i : Nat) : Nat := r.wid.getD i 0

/-- The limits of R438, R21 and R25. `coh20` is byte 20. -/
def Record.within (r : Record) (u : RUse) (coh20 : Nat) : Bool :=
  let base := r.tsize % 4 = 0 && 4 ≤ r.tsize && r.tsize ≤ 2 ^ 24 && r.w % 8 = 0 && 8 ≤ r.w && r.w ≤ 256 && r.a ≤ 512 &&
    r.v % 128 = 0 && r.v ≤ 2 ^ 22 && r.argn ≤ 64 && r.psize % 16 = 0 && r.psize ≤ 2 ^ 20 && r.csize ≤ 65536 &&
    1 ≤ r.nmod && r.nmod ≤ 128
  let ids := (List.range 6).all fun i => r.ext i ≤ 2 ^ r.width i
  base &&
  match u with
  | .pixel => true
  | _ =>
    bitsN coh20 6 3 = 0 && r.coh ≤ 4 && 1 ≤ r.fcap && r.fcap ≤ 1024 &&
    1 ≤ r.width 0 && r.width 0 ≤ 10 && (upFrom 1 4).all (fun i => r.width i ≤ 32) && r.width 5 ≤ 7 &&
    r.wid.foldl (· + ·) 0 ≤ 64 && ids && r.ext 0 = r.fcap && r.ext 5 = r.nmod && r.members ≤ 256 &&
    (match u with
     | .pool => r.fcap % 32 = 0 && r.coh = 0 && (upFrom 2 3).all (fun i => r.width i = 0) && 1 ≤ r.binage
     | _ => 1 ≤ r.fstart && r.fstart ≤ r.fcap)

/-- The refusal code of a record, if any (R437): alignment, privilege, domain, limits. DEDUCED, log 26. -/
def Record.refused (r : Record) (u : RUse) (coh20 : Nat) (sup : Bool) (h : Hub) : Option Nat :=
  if r.text % 4 ≠ 0 || r.pbase % 16 ≠ 0 then some 0x04
  else if r.priv && u ≠ .pixel && !sup then some 0x03
  else if r.nmod > h.maxRank + 1 || (r.nmod > 1 && h.rank ≠ 0) then some 0x07
  else if !r.within u coh20 then some 0x02
  else none

/-! ## Work identifiers (R25 to R27) -/

/-- Work-groups of a grid on one module. -/
def Record.groups (r : Record) : Nat := (upFrom 1 4).foldl (fun p i => p * r.ext i) 1

/-- The identifier of the work-group with linear index `n` on module `dev`, field 0 being zero. DEDUCED, log 27. -/
def Record.widOf (r : Record) (n dev : Nat) : Nat :=
  let step (s : Nat × Nat × Nat) (i : Nat) : Nat × Nat × Nat :=
    (s.1 + s.2.1 % r.ext i * 2 ^ s.2.2, s.2.1 / r.ext i, s.2.2 + r.width i)
  let s := (upFrom 1 4).foldl step (0, n, r.width 0)
  s.1 + dev % r.ext 5 * 2 ^ s.2.2

/-! ## New work-groups (R59 to R62, R73, R105) -/

/-- A fibre that starts at a text offset. -/
def newFib (r : Record) (pc : DWord) (priv : Bool) (ws : List Word) : Fib :=
  { live := true, pc := pc, priv := priv, win := ws.take r.w ++ List.replicate (r.w - ws.length) 0#32 }

/-- A residence that no fibre has taken yet. -/
def idleFib (r : Record) : Fib := { win := List.replicate r.w 0#32 }

/-- A work-group of a launch, with the fibres given and idle ones up to F_cap. -/
def newWg (l : Launch) (id gidx wid rank cohort : Nat) (fs : List Fib) : WG :=
  let k := List.replicate 64 0#32
  { id := id, launch := l.id, kind := l.kind, place := .waiting, gidx := gidx, wid := wid, rank := rank, cohort := cohort,
    fibs := fs ++ List.replicate (l.r.fcap - fs.length) (idleFib l.r), k := k, kOld := k, kp := k,
    bars := List.replicate 16 {}, ctx := l.ctx }

/-- The arguments, read from ARGP (R438). -/
def Dev.readArgs (e : Env) (d : Dev) (rs : List Range) (k : Asker) (r : Record) : Rd × Dev :=
  Dev.readG e rs k 4 d r.argp (4 * r.argn)

end Sys2Proof.Machine
end

