-- ==== Sys2Proof/Machine/Raster.lean ====
section
/-! DEFINITION. Render passes: primitive set-up, coverage, weights, quads and pixel work-groups, the k-buffer and the output
merger's memory (spec/12, R317 to R333). -/
namespace Sys2Proof.Machine

open Sys2Proof

/-! ## The pass block (R317, R318, R440) -/

def Pass.f (p : Pass) (o n : Nat) : Nat := fieldN p.blk o n
def Pass.binned (p : Pass) : Bool := p.f 0 1 = 1
def Pass.clu (p : Pass) : Nat := p.f 1 1
def Pass.samples (p : Pass) : Nat := p.f 2 1
def Pass.topo (p : Pass) : Nat := p.f 3 1
def Pass.vpX (p : Pass) : Nat := p.f 8 2
def Pass.vpY (p : Pass) : Nat := p.f 10 2
def Pass.vpW (p : Pass) : Nat := p.f 12 2
def Pass.vpH (p : Pass) : Nat := p.f 14 2
def Pass.fpix (p : Pass) : Nat := p.f 24 2
def Pass.kb (p : Pass) : Bool := (p.f 26 1).testBit 0
def Pass.kres (p : Pass) : Nat := bitsN (p.f 26 1) 3 1
def Pass.clear (p : Pass) : List Byte := (p.blk.drop 28).take 4
def Pass.kbase (p : Pass) : Nat := p.f 32 8
def Pass.arena (p : Pass) : Nat := p.f 40 8
def Pass.arenaSize (p : Pass) : Nat := p.f 48 4
def Pass.spill (p : Pass) : Nat := p.f 56 8

/-- A target descriptor. -/
structure Target where
  base : Nat
  pitch : Nat
  sstride : Nat
  tf : Nat
  comp : Nat
  fclr : Nat
  mbase : Nat

def Pass.target (p : Pass) (i : Nat) : Target :=
  let o := 96 + 32 * i
  { base := p.f o 8, pitch := p.f (o + 8) 4, sstride := p.f (o + 12) 4, tf := p.f (o + 16) 1, comp := p.f (o + 17) 1,
    fclr := p.f (o + 18) 1, mbase := p.f (o + 24) 8 }

/-- Bytes of a pixel: 4 or 8. -/
def Target.b (t : Target) : Nat := if t.tf = 2 || t.tf = 5 then 8 else 4

def Target.bound (t : Target) : Bool := t.tf ≠ 0

/-- The limits of R318 and R319; those on COMP and FCLR hold for an unbound target too. -/
def Target.ok (t : Target) (i : Nat) (p : Pass) : Bool :=
  t.comp ≤ 1 && t.fclr ≤ 1 && (t.comp = 0 || t.tf = 1 || t.tf = 4) && (t.fclr = 0 || t.tf = 1 || t.tf = 4) &&
  (!t.bound ||
    (t.tf ≤ 5 && (t.tf ≠ 3 || i = 8) && t.base % 256 = 0 && t.pitch % 16 = 0 && t.sstride % 256 = 0 &&
     (t.comp = 0 || (p.samples = 1 && t.pitch % 32 = 0 && p.vpX + p.vpW ≤ t.pitch / 4))))

/-- The limits of a pass block (R317, R440). -/
def Pass.ok (p : Pass) : Bool :=
  p.f 0 1 ≤ 1 && p.clu ≤ 1 && [1, 2, 4, 8].contains p.samples && p.topo ≤ 2 && 1 ≤ p.vpW && p.vpW ≤ 16384 && 1 ≤ p.vpH &&
  p.vpH ≤ 16384 && p.fpix % 32 = 0 && 32 ≤ p.fpix && p.fpix ≤ 1024 &&
  (!p.binned || (p.arenaSize % 65536 = 0 && 65536 ≤ p.arenaSize && p.arenaSize ≤ 2 ^ 30)) &&
  (List.range 9).all fun i => (p.target i).ok i p

/-! ## Memory of a pass -/

/-- Who asks for the raster engines' own accesses (R319). -/
def Pass.asker (p : Pass) : Asker :=
  { wg := 0, core := 256 * p.clu, unit := 5, own := some (p.ctx.ctxid, p.part), pass := some p.id, fsvc := p.ctx.fsvc }

/-- Who asks for a merger access of a fibre. DEDUCED, log 27. -/
def mergeAsker (p : Pass) (o : Op) : Asker := { p.asker with wg := o.wg, core := o.core }

/-- The operation whose tag an untagged write carries: none. -/
def noOp (k : Asker) : Op := { id := 0, kind := .omst, wg := k.wg, fib := 0, core := k.core }

/-- The first address of the k-buffer entries that a binned pass keeps in its tile stores. DEDUCED, log 27. -/
def kStore : Nat := 2 ^ 60

/-- Bytes of a target or of the k-buffer: the tile store of a binned pass lies over memory, and holds all of its k-buffer, whose entries
begin with COUNT 0 (R330). -/
def Dev.passRead (e : Env) (d : Dev) (p : Pass) (k : Asker) (va n : Nat) : Rd × Dev :=
  let laid (i : Nat) : Nat := Table.get 0 p.tileStore (va + i)
  if p.binned && (decide (va ≥ kStore) || (List.range n).all fun i => laid i ≠ 0) then
    (.ok ((List.range n).map fun i => BitVec.ofNat 8 (laid i - 1)) false, d)
  else
    match Dev.readG e p.rng k (linesOf n) d (va57 va) n with
    | (.ok bs bad, d) =>
      (.ok (((List.range n).zip bs).map fun q => if laid q.1 = 0 then q.2 else BitVec.ofNat 8 (laid q.1 - 1)) bad, d)
    | r => r

/-- Writes of the pass go to its tile stores (R327). -/
def Pass.inStore (p : Pass) (va : Nat) : Bool := p.binned && (decide (va ≥ kStore) || !p.stored)

/-- Bytes of a target or the k-buffer written, for access `o` of the merger, whose tag they carry (R390). -/
def Dev.passWrite (e : Env) (d : Dev) (p : Pass) (k : Asker) (o : Op) (va : Nat) (bs : List Byte) : Wr × Dev :=
  if p.inStore va then
    (.done, d.modPass p.id fun p =>
      { p with tileStore := ((List.range bs.length).zip bs).foldl (fun t q => Table.set 0 t (va + q.1) (q.2.toNat + 1)) p.tileStore })
  else Dev.writeG e p.rng k o (linesOf bs.length) d (va57 va) bs

/-- Whether `n` bytes of the pass can be written now, every line of them: nothing is written here. -/
def Dev.passProbe (e : Env) (d : Dev) (p : Pass) (k : Asker) (va n : Nat) : Wr × Dev :=
  if p.inStore va then (.done, d) else Dev.probeG e p.rng k (linesOf n) d (va57 va) n

/-- A fatal walk of a write of the pass's own (R319). -/
def Dev.passFatal (d : Dev) (pid cause : Nat) : Dev :=
  d.modPass pid fun p => if p.code = 0 then { p with code := 4, detail := cause } else p

/-- A write that the raster engines make on their own account, a line at a time: a line whose walk ends fatal is discarded, which the close
reports (R319). Answers what has to wait. -/
def Dev.ownWrite (e : Env) (pid : Nat) : Nat → Dev → Nat → List Byte → List Byte × Dev
  | 0, d, _, _ => ([], d)
  | fuel + 1, d, va, bs =>
    match bs, d.pass? pid with
    | [], _ => ([], d)
    | _, none => ([], d)
    | _, some p =>
      let m := min bs.length (128 - va % 128)
      match d.writeLine e p.rng p.asker (noOp p.asker) (va57 va) m (.write (bs.take m)) with
      | (.wait _, d) => (bs, d)
      | (.lost c _, d) => Dev.ownWrite e pid fuel (d.passFatal pid c) (va + m) (bs.drop m)
      | (_, d) => Dev.ownWrite e pid fuel d (va + m) (bs.drop m)

/-- Such a write, behind those that still wait: what cannot be written yet is owed. -/
def Dev.ownPut (e : Env) (d : Dev) (pid va : Nat) (bs : List Byte) : Dev :=
  let waits := ((d.pass? pid).map fun p => !p.owed.isEmpty).getD false
  let r := if waits then (bs, d) else Dev.ownWrite e pid (linesOf bs.length) d va bs
  if r.1.isEmpty then r.2
  else r.2.modPass pid fun p => { p with owed := p.owed ++ [(va + (bs.length - r.1.length), r.1)] }

/-- The writes that the pass owes go on. -/
def Dev.payOwed (e : Env) (d : Dev) (pid : Nat) : Dev :=
  match d.pass? pid with
  | none => d
  | some p => p.owed.foldl (fun d q => d.ownPut e pid q.1 q.2) (d.modPass pid fun p => { p with owed := [] })

/-- Device-owned bytes at a surface the device keeps for itself (R325, R327). DESIGN CHOICE, log 9. -/
def Dev.scribble (e : Env) (d : Dev) (pid va n : Nat) : Dev :=
  Dev.ownPut e { d with fresh := d.fresh + n } pid va ((List.range n).map fun i => Config.deviceByte (d.fresh + i))

/-! ## Colour targets (R318, R333) -/

/-- The address of a sample in an uncompressed target. -/
def Target.addr (t : Target) (x y s : Nat) : Nat := t.base + s * t.sstride + y * t.pitch + x * t.b

/-- The tile of a pixel in a compressed target. -/
def Target.tile (t : Target) (x y : Nat) : Nat := y / 8 * (t.pitch / 32) + x / 8

/-- A compressed tile, decoded: the 256 bytes of its pixels. Under mode 0x00 its bytes are not read (R332). -/
def Dev.tileRead (e : Env) (d : Dev) (p : Pass) (k : Asker) (t : Target) (i : Nat) : Rd × Dev :=
  match d.passRead e p k (t.mbase + i) 1 with
  | (.ok mb _, d) =>
    let mode := (mb.headD 0#8).toNat
    match if mode = 0 then (.ok [] false, d) else d.passRead e p k (t.base + 256 * i) 256 with
    | (.ok bs bad, d) => (.ok (decodeTile mode bs p.clear) bad, d)
    | r => r
  | r => r

/-- One sample of a target (R303). -/
def Dev.pixelRead (e : Env) (d : Dev) (p : Pass) (k : Asker) (t : Target) (x y s : Nat) : Rd × Dev :=
  if t.comp = 1 then
    match d.tileRead e p k t (t.tile x y) with
    | (.ok bs bad, d) => (.ok ((bs.drop (4 * (8 * (y % 8) + x % 8))).take 4) bad, d)
    | r => r
  else d.passRead e p k (t.addr x y s) t.b

/-- One sample of a target written. A compressed tile is read, decoded, updated, encoded and written with its mode byte in one action:
nothing of it is written before all of it can be (R333). -/
def Dev.pixelWrite (e : Env) (d : Dev) (p : Pass) (k : Asker) (o : Op) (t : Target) (x y s : Nat) (bs : List Byte) : Wr × Dev :=
  if t.comp = 1 then
    let i := t.tile x y
    match d.passProbe e p k (t.mbase + i) 1 with
    | (.done, d) =>
      match d.passProbe e p k (t.base + 256 * i) 256 with
      | (.done, d) =>
        match d.tileRead e p k t i with
        | (.ok old _, d) =>
          let at_ := 4 * (8 * (y % 8) + x % 8)
          let enc := encodeTile (old.take at_ ++ bs.take 4 ++ old.drop (at_ + 4))
          let d := (d.passWrite e p k { o with mark := 0 } (t.base + 256 * i) enc.2).2
          d.passWrite e p k { o with mark := 1 } (t.mbase + i) [BitVec.ofNat 8 enc.1]
        | (.wait q, d) => (.wait q, d)
        | (.lost c v, d) => (.lost c v, d)
      | r => r
    | r => r
  else d.passWrite e p k { o with mark := s } (t.addr x y s) (bs.take t.b)

/-- The same bytes written to each sample of a list. -/
def Dev.samplesWrite (e : Env) (pid : Nat) (k : Asker) (o : Op) (t : Target) (x y : Nat) (bs : List Byte) : List Nat → Dev → Wr × Dev
  | [], d => (.done, d)
  | s :: r, d =>
    match d.pass? pid with
    | none => (.done, d)
    | some p =>
      match d.pixelWrite e p k o t x y s bs with
      | (.wait q, d) => (.wait q, d)
      | (.lost c v, d) => (.lost c v, d)
      | (_, d) => Dev.samplesWrite e pid k o t x y bs r d

/-! ## The start of a pass (R319, R330) -/

/-- The address of a pixel's k-buffer entry: in the tile store of a binned pass it has a place of its own.
DEDUCED, log 27. -/
def Pass.kAddr (p : Pass) (x y : Nat) : Nat :=
  (if p.binned then kStore else p.kbase) + 128 * (y * p.vpW + x)

/-! ### Tiles of the viewport (R327) -/

/-- 32×32 tiles of the viewport across, and the tile of a region. -/
def Pass.tilesAcross (p : Pass) : Nat := (p.vpX + p.vpW - 1) / 32 - p.vpX / 32 + 1
def Pass.tileNo (p : Pass) (rx ry : Nat) : Nat := (ry - p.vpY / 32) * p.tilesAcross + (rx - p.vpX / 32)
def Pass.tiles (p : Pass) : Nat := p.tilesAcross * ((p.vpY + p.vpH - 1) / 32 - p.vpY / 32 + 1)

/-- The region of a tile. -/
def Pass.tileAt (p : Pass) (t : Nat) : Nat × Nat := (p.vpX / 32 + t % p.tilesAcross, p.vpY / 32 + t / p.tilesAcross)

/-- Bytes of a tile slot. -/
def Pass.slotSize (p : Pass) : Nat :=
  let n := (List.range 9).foldl (fun s i => if (p.target i).bound then s + 1024 * p.samples * (p.target i).b else s) 0
  (n + (if p.kb then 131072 else 0) + 64 + 255) / 256 * 256

/-- The reload bitmap: where it lies, and its bytes. -/
def Pass.bitmapAt (p : Pass) : Nat := p.spill + p.tiles * p.slotSize
def Pass.bitmap (p : Pass) (ts : List Nat) : List Byte :=
  (List.range ((p.tiles + 7) / 8)).map fun j =>
    BitVec.ofNat 8 ((List.range 8).foldl (fun s i => if ts.contains (8 * j + i) then s + 2 ^ i else s) 0)

/-- The engines write the state of tiles to their slots and set their reload bits (R326, R328). -/
def Dev.spillTiles (e : Env) (d : Dev) (pid : Nat) (ts : List Nat) : Dev :=
  match d.pass? pid with
  | none => d
  | some p =>
    let all := ts.foldl (fun l t => insNat t l) p.spilled
    let d := ts.foldl (fun d t => d.scribble e pid (p.spill + t * p.slotSize) p.slotSize) d
    (d.ownPut e pid p.bitmapAt (p.bitmap all)).modPass pid fun p => { p with spilled := all }

/-- The merger has written in the tile of a pixel. -/
def Pass.touch (p : Pass) (x y : Nat) : Pass :=
  if p.binned then { p with touched := insNat (p.tileNo (x / 32) (y / 32)) p.touched } else p

/-- Bytes cut at the lines that hold them. -/
def cutLines : Nat → Nat → List Byte → List (Nat × List Byte)
  | 0, _, _ => []
  | fuel + 1, va, bs =>
    if bs.isEmpty then []
    else
      let m := min bs.length (128 - va % 128)
      (va, bs.take m) :: cutLines fuel (va + m) (bs.drop m)

/-- The writes of the pass start, line by line: the fast clear, COUNT of an IMMEDIATE pass, the reload bitmap of a binned one. -/
def Pass.initWrites (p : Pass) : List (Nat × List Byte) :=
  let rows := upFrom p.vpY p.vpH
  let one (t : Target) : List (Nat × List Byte) :=
    if t.fclr = 0 || !t.bound then []
    else if t.comp = 1 then
      let n := (p.vpX + p.vpW - 1) / 8 - p.vpX / 8 + 1
      (upFrom (p.vpY / 8) ((p.vpY + p.vpH - 1) / 8 - p.vpY / 8 + 1)).map fun ty =>
        (t.mbase + ty * (t.pitch / 32) + p.vpX / 8, List.replicate n 0#8)
    else
      (List.range p.samples).flatMap fun s => rows.map fun y => (t.addr p.vpX y s, (List.replicate p.vpW p.clear).flatten)
  let counts := if p.kb && !p.binned then
      rows.flatMap fun y => (upFrom p.vpX p.vpW).map fun x => (p.kAddr x y + 96, [0#8])
    else []
  let reload := if p.binned then [(p.bitmapAt, p.bitmap [])] else []
  ((List.range 9).flatMap (fun i => one (p.target i)) ++ counts ++ reload).flatMap fun q => cutLines (linesOf q.2.length) q.1 q.2

def Dev.passInitGo (e : Env) (pid : Nat) : List (Nat × List Byte) → Dev → Dev
  | [], d => d
  | (va, bs) :: r, d =>
    match d.pass? pid with
    | none => d
    | some p =>
      match Dev.writeG e p.rng p.asker (noOp p.asker) (linesOf bs.length) d (va57 va) bs with
      | (.wait _, d) => d
      | (.lost c _, d) => Dev.passInitGo e pid r ((d.passFatal pid c).modPass pid fun p => { p with initAt := p.initAt + 1 })
      | (_, d) => Dev.passInitGo e pid r (d.modPass pid fun p => { p with initAt := p.initAt + 1 })

/-- The writes of the start still to be made. -/
def Dev.passInit (e : Env) (d : Dev) (p : Pass) : Dev := Dev.passInitGo e p.id (p.initWrites.drop p.initAt) d

/-- The writes of the start have all been made. -/
def Pass.begun (p : Pass) : Bool := p.initAt ≥ p.initWrites.length

/-! ## Primitive set-up (R321) -/

/-- A vertex: position and attribute words. -/
structure Vtx where
  pos : List Word
  attrs : List Word

def clipW : Q := ⟨1, 2 ^ 24⟩

def Vtx.w (v : Vtx) : Q := (f32V (v.pos.getD 3 0#32).toNat).q

def Vtx.inside (v : Vtx) : Bool := clipW.le v.w

/-- A rational times a value. -/
def scaleTerm (t : Q) (v : FV) : Term :=
  match v with
  | .nan _ => .bad
  | .inf n => if t.isZero then .bad else .inf (n != t.isNeg)
  | .fin n m e => .num (n != t.isNeg) (t.mul (FV.fin n m e).q)

/-- (1 - t) a + t b, exactly, rounded once. -/
def lerpWord (t : Q) (a b : Word) : Word :=
  BitVec.ofNat 32 (sumTo fF32 rne false [scaleTerm (Q.one.sub t) (f32V a.toNat), scaleTerm t (f32V b.toNat)]).1

/-- The vertex where an edge crosses the plane. -/
def clipEdge (a b : Vtx) : Vtx :=
  let t := (clipW.sub a.w).div (b.w.sub a.w)
  { pos := (a.pos.zip b.pos).map fun q => lerpWord t q.1 q.2, attrs := (a.attrs.zip b.attrs).map fun q => lerpWord t q.1 q.2 }

/-- What remains of a polygon; each vertex with whether it was there before. DEDUCED, log 27. -/
def clipPoly (vs : List Vtx) : List (Vtx × Bool) :=
  (vs.zip (vs.drop 1 ++ vs.take 1)).flatMap fun q =>
    let a := q.1
    let b := q.2
    (if a.inside then [(a, true)] else []) ++
    (if a.inside ≠ b.inside && !(a.w.eq clipW) && !(b.w.eq clipW) then [(clipEdge a b, false)] else [])

/-- The same polygon from its first vertex that was there before the clip. -/
def fromKept (l : List (Vtx × Bool)) : List Vtx :=
  let k := (l.takeWhile fun q => !q.2).length
  ((l.drop k) ++ l.take k).map (·.1)

/-- The parts of a clipped primitive. DEDUCED, log 27. -/
def partsOfPrim (topo : Nat) (vs : List Vtx) : List (List Vtx) :=
  match topo, vs with
  | 0, a :: _ => if a.inside then [[a]] else []
  | 1, a :: b :: _ =>
    if a.inside && b.inside then [[a, b]]
    else if a.inside then [[a, clipEdge a b]]
    else if b.inside then [[clipEdge a b, b]]
    else []
  | 2, _ =>
    match fromKept (clipPoly vs) with
    | v0 :: r => (r.zip (r.drop 1)).map fun q => [v0, q.1, q.2]
    | [] => []
  | _, _ => []

/-- A coordinate snapped to 1/256 pixel. -/
def snap (origin size : Nat) (x w : Q) : Int :=
  (roundInt rne ((((x.div w).add Q.one).mul ⟨size, 2⟩ |>.add (Q.ofInt origin)).mul (Q.ofInt 256))).1

/-- A part with its snapped positions. -/
def mkPrim (ps : Pass) (draw g p part : Nat) (flat : List Word) (vs : List Vtx) : Prim :=
  let q (v : Vtx) (i : Nat) : Q := (f32V (v.pos.getD i 0#32).toNat).q
  { draw := draw, g := g, p := p, part := part, front := false, topo := ps.topo,
    xs := vs.map fun v => snap ps.vpX ps.vpW (q v 0) v.w, ys := vs.map fun v => snap ps.vpY ps.vpH (q v 1) v.w,
    zs := vs.map fun v => BitVec.ofNat 32 (roundQ fF32 rne false (q v 2).isNeg ((q v 2).div v.w)).1,
    ws := vs.map fun v => v.pos.getD 3 0#32, attrs := vs.map (·.attrs), flat := flat }

def Prim.x (q : Prim) (i : Nat) : Int := q.xs.getD i 0
def Prim.y (q : Prim) (i : Nat) : Int := q.ys.getD i 0

/-- Twice the signed area of the snapped triangle. -/
def Prim.area (q : Prim) : Int := (q.x 1 - q.x 0) * (q.y 2 - q.y 0) - (q.x 2 - q.x 0) * (q.y 1 - q.y 0)

/-- Edge function i at a point. -/
def Prim.edge (q : Prim) (i : Nat) (px py : Int) : Int :=
  let j := (i + 1) % 3
  let k := (i + 2) % 3
  (q.x k - q.x j) * (py - q.y j) - (q.y k - q.y j) * (px - q.x j)

/-- The edge opposite vertex i is a top or left edge. -/
def Prim.topLeft (q : Prim) (i : Nat) : Bool :=
  let j := (i + 1) % 3
  let k := (i + 2) % 3
  if q.y j = q.y k then q.y i > q.y j
  else ((q.x i - q.x j) * (q.y k - q.y j) - (q.y i - q.y j) * (q.x k - q.x j)) * (q.y k - q.y j) > 0

/-- The x axis is the line's major axis; of two equal extents the spec does not say which is, and either may be. -/
def Prim.alongX (q : Prim) : Bool :=
  let dx := (q.x 1 - q.x 0).natAbs
  let dy := (q.y 1 - q.y 0).natAbs
  dx > dy || (dx = dy && Config.lineAlongX (q.x 0) (q.y 0) (q.x 1) (q.y 1))

/-- The parameter of a line along its major axis, as a fraction. -/
def Prim.lineS (q : Prim) (px py : Int) : Q :=
  let dx := q.x 1 - q.x 0
  let dy := q.y 1 - q.y 0
  if q.alongX then (Q.ofInt (px - q.x 0)).div (Q.ofInt dx) else (Q.ofInt (py - q.y 0)).div (Q.ofInt dy)

/-- The point is covered (R321). -/
def Prim.covers (q : Prim) (px py : Int) : Bool :=
  match q.topo with
  | 0 => px / 256 = q.x 0 / 256 && py / 256 = q.y 0 / 256
  | 1 =>
    let dx := q.x 1 - q.x 0
    let dy := q.y 1 - q.y 0
    if dx = 0 && dy = 0 then false
    else
      let s := q.lineS px py
      let dist := if q.alongX then (Q.ofInt (py - q.y 0)).sub (s.mul (Q.ofInt dy))
        else (Q.ofInt (px - q.x 0)).sub (s.mul (Q.ofInt dx))
      Q.zero.le s && s.lt Q.one && dist.abs.lt ⟨128, 1⟩
  | _ =>
    let a := q.area
    let sg : Int := if a > 0 then 1 else -1
    a ≠ 0 && (List.range 3).all fun i =>
      let v := q.edge i px py * sg
      v > 0 || (v = 0 && q.topLeft i)

/-- Sample positions in 1/16 pixel (R322). -/
def samplePos (s : Nat) : List (Nat × Nat) :=
  match s with
  | 1 => [(8, 8)]
  | 2 => [(12, 12), (4, 4)]
  | 4 => [(6, 2), (14, 6), (2, 10), (10, 14)]
  | _ => [(9, 5), (7, 11), (13, 9), (5, 3), (3, 13), (1, 7), (11, 15), (15, 1)]

/-- The point of sample i in 1/256 pixel. -/
def sampleAt (s x y i : Nat) : Int × Int :=
  let p := (samplePos s).getD i (8, 8)
  (256 * x + 16 * p.1, 256 * y + 16 * p.2)

/-- The mask of the samples of a pixel that a part covers. -/
def Prim.mask (q : Prim) (s x y : Nat) : Nat :=
  (List.range s).foldl (fun m i => let p := sampleAt s x y i; if q.covers p.1 p.2 then m + 2 ^ i else m) 0

/-- The exact screen-linear weights at a point (R322). DEDUCED, log 27. -/
def Prim.lambda (q : Prim) (px py : Int) : List Q :=
  match q.topo with
  | 0 => [Q.one]
  | 1 => let s := q.lineS px py; [Q.one.sub s, s]
  | _ => (List.range 3).map fun i => (Q.ofInt (q.edge i px py)).div (Q.ofInt q.area)

/-- And the perspective weights. -/
def Prim.persp (q : Prim) (px py : Int) : List Q :=
  let l := q.lambda px py
  let r := (l.zip q.ws).map fun v => v.1.div (f32V v.2.toNat).q
  let t := Q.sum r
  if t.isZero then l else r.map fun v => v.div t

/-- A weight rounded once to FP32. -/
def weightWord (x : Q) : Nat := (roundQ fF32 rne false false x).1

/-- Screen-linear z at a point, rounded once (R324). -/
def Prim.zAt (q : Prim) (px py : Int) : Word :=
  BitVec.ofNat 32 (sumTo fF32 rne false (((q.lambda px py).zip q.zs).map fun v => scaleTerm v.1 (f32V v.2.toNat))).1

/-! ## Quads (R321, R323) -/

def minI (l : List Int) : Int := l.foldl imin (l.headD 0)
def maxI (l : List Int) : Int := l.foldl imax (l.headD 0)

/-- First and number of the pixels from `lo` to `hi` (1/256 pixel) within a viewport span. -/
def pixelSpan (lo hi : Int) (o n : Nat) : Nat × Nat :=
  let a := imax (lo / 256) o
  let b := imin (hi / 256) (o + n - 1 : Nat)
  if b < a then (0, 0) else (a.toNat, (b - a).toNat + 1)

/-- Coverage of a pixel by the parts, inside the viewport. -/
def coverOf (ps : Pass) (qs : List Prim) (x y : Nat) : Nat :=
  if x < ps.vpX || x ≥ ps.vpX + ps.vpW || y < ps.vpY || y ≥ ps.vpY + ps.vpH then 0
  else qs.foldl (fun m q => m ||| q.mask ps.samples x y) 0

/-- The part that covers the lowest covered sample. -/
def partOf (ps : Pass) (qs : List Prim) (x y m : Nat) : Nat :=
  let s := ((List.range ps.samples).find? fun i => m.testBit i).getD 0
  match qs.find? fun q => (q.mask ps.samples x y).testBit s with
  | some q => q.part
  | none => 0

/-- The quads of a primitive in row-major order. DEDUCED, log 27. -/
def quadsOf (ps : Pass) (qs : List Prim) (now : Nat) : List Quad :=
  let pad : Int := if ps.topo = 1 then 128 else 0
  let xs := qs.flatMap (·.xs)
  let ys := qs.flatMap (·.ys)
  let sx := pixelSpan (minI xs - pad) (maxI xs + pad) ps.vpX ps.vpW
  let sy := pixelSpan (minI ys - pad) (maxI ys + pad) ps.vpY ps.vpH
  let firsts (s : Nat × Nat) : List Nat := if s.2 = 0 then [] else (upFrom (s.1 / 2) ((s.1 + s.2 - 1) / 2 - s.1 / 2 + 1)).map (2 * ·)
  (firsts sy).flatMap fun y => (firsts sx).filterMap fun x =>
    let px := [(x, y), (x + 1, y), (x, y + 1), (x + 1, y + 1)]
    let cov := px.map fun q => coverOf ps qs q.1 q.2
    if cov.all (· = 0) then none
    else
      let low := match qs.find? fun q => px.any fun v => coverOf ps [q] v.1 v.2 ≠ 0 with
        | some q => q.part
        | none => 0
      let parts := (px.zip cov).map fun v => if v.2 = 0 then low else partOf ps qs v.1.1 v.1.2 v.2
      let q0 := qs.headD (mkPrim ps 0 0 0 0 [] [])
      some { rx := x / 32, ry := y / 32, draw := q0.draw, g := q0.g, p := q0.p, x := x, y := y, cov := cov, parts := parts, since := now,
             open_ := !ps.binned }

/-! ## Bins (R325 to R327) -/

/-- The bins are rendered from now on (R323). -/
def Quad.render (q : Quad) (now : Nat) : Quad := if q.open_ then q else { q with open_ := true, since := now }

/-- A partial flush: every bin is rendered, touched tiles go to the spill surface. DEDUCED, log 27. -/
def Dev.flushPass (e : Env) (d : Dev) (pid : Nat) : Dev :=
  match d.pass? pid with
  | none => d
  | some p =>
    let ts := p.quads.foldl (fun l q => insNat (p.tileNo q.rx q.ry) l) p.touched
    (d.spillTiles e pid ts).modPass pid fun p => { p with quads := p.quads.map (·.render e.now), arenaUse := 0 }

/-- A primitive appended to the arena: its record, and an entry for each tile its bounding box meets.
DESIGN CHOICE, log 9. -/
def Dev.binPrim (e : Env) (d : Dev) (pid na : Nat) (qs : List Prim) : Dev :=
  match d.pass? pid with
  | none => d
  | some p =>
    let rec_ := (48 + 12 * na + 63) / 64 * 64
    let xs := qs.flatMap (·.xs)
    let ys := qs.flatMap (·.ys)
    let sx := pixelSpan (minI xs) (maxI xs) p.vpX p.vpW
    let sy := pixelSpan (minI ys) (maxI ys) p.vpY p.vpH
    let across (s : Nat × Nat) : Nat := if s.2 = 0 then 0 else (s.1 + s.2 - 1) / 32 - s.1 / 32 + 1
    let put (d : Dev) (n : Nat) (again : Nat) : Dev :=
      match d.pass? pid with
      | none => d
      | some p =>
        if p.arenaUse + n ≤ p.arenaSize then
          (d.scribble e pid (p.arena + p.arenaUse) n).modPass pid fun p => { p with arenaUse := p.arenaUse + n }
        else
          let d := d.flushPass e pid
          (d.scribble e pid p.arena (again + n)).modPass pid fun p => { p with arenaUse := again + n }
    (List.range (across sx * across sy)).foldl (fun d _ => put d 8 rec_) (put d rec_ 0)

/-! ## Set-up of a mesh work-group's output (R298, R321) -/

/-- Vertex `v` of a mesh output buffer. -/
def WG.vtx (g : WG) (na v : Nat) : Vtx :=
  let w (j : Nat) : Word := Table.get 0#32 g.mesh (36 * v + j)
  { pos := (List.range 4).map w, attrs := (List.range na).map fun j => w (4 + j) }

def Vtx.finite (v : Vtx) : Bool := v.pos.all fun w =>
  match f32V w.toNat with
  | .fin .. => true
  | _ => false

/-- The parts of primitive slot `p`, or none when it is dropped. -/
def setupPrim (ps : Pass) (g : WG) (na nv p : Nat) : List Prim :=
  let b := (Table.get 0#32 g.prims p).toNat
  let n := if ps.topo = 0 then 1 else if ps.topo = 1 then 2 else 3
  let is := (List.range n).map fun i => b / 256 ^ i % 256
  if b < 2 ^ 31 || is.any (fun i => i ≥ nv) then []
  else
    let vs := is.map (g.vtx na)
    if !vs.all Vtx.finite then []
    else
      let parts := partsOfPrim ps.topo vs
      let flat := (g.vtx na (is.headD 0)).attrs
      let qs := ((List.range parts.length).zip parts).map fun q => mkPrim ps g.launch g.gidx p q.1 flat q.2
      let front := match qs.find? fun q => q.topo = 2 && q.area ≠ 0 with
        | some q => decide (q.area < 0)
        | none => false
      qs.map fun q => { q with front := front }

/-- The counts of the lowest-indexed fibre that executed `mend`. DEDUCED, log 27. -/
def WG.mended (g : WG) : Option (Nat × Nat) := (minBy (·.1) g.mends).map (·.2)

/-- PRIMITIVE_SETUP: the writes of the pass start and those it owes, then the next mesh work-group in primitive order, once it has ended. -/
def Dev.primSetup (e : Env) (d : Dev) (pid : Nat) : Dev :=
  match d.pass? pid with
  | none => d
  | some p0 =>
    let d := if p0.begun then d.payOwed e pid else d.passInit e p0
    let p := (d.pass? pid).getD p0
    match p.draws with
    | [] => d
    | dr :: rest =>
      match d.launch? dr with
      | none => d.modPass pid fun p => { p with draws := rest, nextMesh := 0 }
      | some l =>
        if p.nextMesh ≥ l.r.groups then d.modPass pid fun p => { p with draws := rest, nextMesh := 0 }
        else
          match d.wgs.find? fun g => g.launch = dr && g.gidx = p.nextMesh with
          | none => if l.aborted then d.modPass pid fun p => { p with nextMesh := p.nextMesh + 1 } else d
          | some g =>
            if g.place = .waiting || g.fibs.any (·.live) then d
            else
              let d := { d with wgs := d.wgs.filter fun h => !(h.id = g.id && decide (h.place = Place.retired)) }
              let d := d.modPass pid fun p => { p with nextMesh := p.nextMesh + 1 }
              match g.mended with
              | none => d
              | some (nv, np) =>
                (List.range np).foldl (fun d s =>
                  let qs := setupPrim p g l.meshA nv s
                  if qs.isEmpty then d
                  else
                    let d := if p.binned then d.binPrim e pid l.meshA qs else d
                    d.modPass pid fun p => { p with prims := p.prims ++ qs, quads := p.quads ++ quadsOf p qs e.now }) d

/-! ## Pixel work-groups (R320, R323, R324) -/

def Pass.prim? (p : Pass) (x : Pixel) : Option Prim :=
  p.prims.find? fun q => q.draw = x.draw && q.g = x.g && q.p = x.p && q.part = x.part

/-- The four fibres of a quad. -/
def quadFibs (p : Pass) (r : Record) (q : Quad) (cover : Bool) : List Fib :=
  (List.range 4).map fun i =>
    let x := q.x + i % 2
    let y := q.y + i / 2
    let c := if cover then q.cov.getD i 0 else 0
    let px : Pixel := { x := x, y := y, s := p.samples, cov := c, draw := q.draw, g := q.g, p := q.p, part := q.parts.getD i 0, cov0 := c }
    let z := match p.prim? px with
      | some t => t.zAt (256 * x + 128) (256 * y + 128)
      | none => 0#32
    let front := match p.prim? px with
      | some t => t.front
      | none => false
    let w (n : Nat) : Word := BitVec.ofNat 32 n
    { newFib r 0#64 false [w x, w y, w c, w q.p, w q.g, z, if front then 1#32 else 0#32] with pixel := some px }

def regionOf (rx ry : Nat) : Nat := rx + 4096 * ry

/-- The engine that owns a region (R320). -/
def regionEngine (r : Nat) : Nat := (r % 4096 + r / 4096) % 8

/-- Quads of a region that may launch. -/
def Pass.ready (p : Pass) (region : Nat) : List Quad := p.quads.filter fun q => regionOf q.rx q.ry = region && q.open_

/-- A region's work-group launches now: F_pix fibres are filled, 256 cc have passed, or the pass renders its last bins. -/
def Pass.launchDue (p : Pass) (region now : Nat) : Bool :=
  let qs := p.ready region
  !qs.isEmpty && p.begun && (4 * qs.length ≥ p.fpix || qs.all fun q => q.since + 256 ≤ now)

/-- The lowest pixel work-group number that no live one holds. -/
def freeNumber (held : List Nat) : Nat → Nat → Option Nat
  | 0, _ => none
  | k + 1, n => if held.contains n then freeNumber held k (n + 1) else some n

/-- PIXEL_LAUNCH: pass and region. -/
def Dev.pixelLaunch (e : Env) (d : Dev) (pid region : Nat) : Dev :=
  match d.pass? pid with
  | none => d
  | some p =>
    if !p.launchDue region e.now then d
    else
      match d.launch? p.launch, freeNumber p.numbers 16384 0 with
      | some l, some n =>
        let qs := (p.ready region).take (p.fpix / 4)
        let last := qs.getLast?
        let r := l.r
        let pads := match last with
          | some q => List.replicate (p.fpix / 4 - qs.length) q
          | none => []
        let fs := qs.flatMap (quadFibs p r · true) ++ pads.flatMap (quadFibs p r · false)
        let (id, d) := d.takeId
        let eng := match last with
          | some q => 8 * p.clu + (q.rx + q.ry) % 8
          | none => 0
        let g : WG := { newWg l id n (r.widOf n 0) 0 0 fs with eng := some eng }
        let k := qs.length
        let rec drop (l : List Quad) (k : Nat) : List Quad :=
          match l, k with
          | [], _ => []
          | q :: t, 0 => q :: t
          | q :: t, k + 1 => if regionOf q.rx q.ry = region && q.open_ then drop t k else q :: drop t (k + 1)
        ({ d with wgs := d.wgs ++ [g] }.modPass pid fun p => { p with quads := drop p.quads k, numbers := insNat n p.numbers }).modLaunch l.id
          fun l => { l with formed := l.formed + 1 }
      | _, _ => d

/-! ## The k-buffer (R330, R331) -/

/-- 1 − a, as a term. -/
def oneMinus (a : FV) : Term :=
  match a with
  | .nan _ => .bad
  | .inf n => .inf !n
  | v => let x := Q.one.sub v.q; .num x.isNeg x

def termMul (a b : Term) : Term :=
  match a, b with
  | .bad, _ => .bad
  | _, .bad => .bad
  | .inf n, .inf k => .inf (n != k)
  | .inf n, .num k x => if x.isZero then .bad else .inf (n != k)
  | .num n x, .inf k => if x.isZero then .bad else .inf (n != k)
  | .num n x, .num k y => .num (n != k) (x.mul y)

/-- a + (1 − α) b in a format, rounded once. -/
def overTo (f : FFmt) (a alpha b : FV) : Nat := (sumTo f rne false [a.term, termMul (oneMinus alpha) b.term]).1

/-- Channel c of a layer's colour. -/
def chanF16 (col c : Nat) : FV := fF16.val (col / 2 ^ (16 * c) % 2 ^ 16)

def depthLe (a b : Nat) : Bool :=
  let x := f32V a
  let y := f32V b
  (x.isZero && y.isZero) || !fpLt y x

/-- A layer inserted: at most eight remain. -/
def kInsert (ls : List (Nat × Nat)) (depth col : Nat) : List (Nat × Nat) :=
  let n := (ls.takeWhile fun l => depthLe l.1 depth).length
  let ls := ls.take n ++ (depth, col) :: ls.drop n
  match ls.drop 7 with
  | [a, b] =>
    let merged := (List.range 4).foldl (fun s c => s + overTo fF16 (chanF16 a.2 c) (chanF16 a.2 3) (chanF16 b.2 c) * 2 ^ (16 * c)) 0
    ls.take 7 ++ [(a.1, merged)]
  | _ => ls

def kLayers (bs : List Byte) : List (Nat × Nat) :=
  (List.range (min (fieldN bs 96 1 % 16) 8)).map fun i => (fieldN bs (4 * i) 4, fieldN bs (32 + 8 * i) 8)

/-- An entry's bytes with its layers replaced. -/
def kBytes (old : List Byte) (ls : List (Nat × Nat)) : List Byte :=
  let col (f : Nat → Nat × Nat → List Byte) : List Byte :=
    (List.range 8).flatMap fun i => match ls[i]? with
      | some l => f i l
      | none => f i (fieldN old (4 * i) 4, fieldN old (32 + 8 * i) 8)
  col (fun _ l => leBytes 4 l.1) ++ col (fun _ l => leBytes 8 l.2) ++ leBytes 32 ls.length

/-- The resolved channels of an entry over the target's values (R331): the exact last sum is left to the target's format.
DEDUCED, log 27. -/
def kResolve (ls : List (Nat × Nat)) (t : List FV) : List (List Term) :=
  let accs := ls.foldl (fun acc l =>
    let a := f32V (acc.getD 3 0)
    (List.range 4).map fun c => overTo fF32 (f32V (acc.getD c 0)) a (chanF16 l.2 c)) [0, 0, 0, 0]
  let a := f32V (accs.getD 3 0)
  (List.range 4).map fun c => [(f32V (accs.getD c 0)).term, termMul (oneMinus a) (t.getD c (.fin false 0 0)).term]

/-- A sum of terms clamped to [0, 1] and scaled to 8 bits; for a NaN the spec states no byte: free value `n`. -/
def unorm8 (n : Nat) (ts : List Term) : Nat :=
  if ts.any Term.isBad then (Config.deviceByte n).toNat
  else
    let pos := ts.any (Term.isInf false)
    let neg := ts.any (Term.isInf true)
    if neg then 0
    else if pos then 255
    else
      let x := (Q.sum (ts.map Term.q)).max Q.zero |>.min Q.one
      (roundInt rne (x.mul (Q.ofInt 255))).1.toNat

/-- The values of a target's bytes: RGBA8 UNORM, or RGBA16F. -/
def targetVals (tf : Nat) (bs : List Byte) : List FV :=
  (List.range 4).map fun c => if tf = 5 then fF16.val (fieldN bs (2 * c) 2) else .fin false (fieldN bs c 1) 0

/-- Bytes of a resolved pixel; free values are numbered from `n`. DESIGN CHOICE, log 10. -/
def resolveBytes (n tf : Nat) (ls : List (Nat × Nat)) (bs : List Byte) : List Byte :=
  if tf = 5 then (kResolve ls (targetVals 5 bs)).flatMap fun ts => leBytes 2 (sumTo fF16 rne false ts).1
  else
    -- RGBA8: the target's value is n / 255
    let scaled (t : Term) : Term := match t with
      | .num n x => .num n (x.div (Q.ofInt 255))
      | v => v
    ((List.range 4).zip (kResolve ls (targetVals 4 bs))).flatMap fun q =>
      match q.2 with
      | [a, b] => leBytes 1 (unorm8 (n + q.1) [a, scaled b])
      | _ => [0#8]

/-- The pixels resolved from number `i` on. -/
def Dev.resolveGo (e : Env) (pid : Nat) : List (Nat × Nat) → Dev → Bool × Dev
  | [], d => (true, d)
  | (x, y) :: r, d =>
    match d.pass? pid with
    | none => (true, d)
    | some p =>
      let t := p.target p.kres
      let step (d : Dev) : Dev := d.modPass pid fun p => { p with endAt := p.endAt + 1 }
      match d.passRead e p p.asker (p.kAddr x y) 128 with
      | (.wait _, d) => (false, d)
      | (.lost c _, d) => Dev.resolveGo e pid r (step (d.passFatal pid c))
      | (.ok kb _, d) =>
        match d.pixelRead e p p.asker t x y 0 with
        | (.wait _, d) => (false, d)
        | (.lost c _, d) => Dev.resolveGo e pid r (step (d.passFatal pid c))
        | (.ok bs _, d) =>
          match Dev.samplesWrite e pid p.asker (noOp p.asker) t x y (resolveBytes d.fresh t.tf (kLayers kb) bs) (List.range p.samples)
              { d with fresh := d.fresh + 4 } with
          | (.wait _, d) => (false, d)
          | (.lost c _, d) => Dev.resolveGo e pid r (step (d.passFatal pid c))
          | (_, d) => Dev.resolveGo e pid r (step d)

/-- The runs of target bytes that the tiles with state cover, inside the viewport: address, and number of bytes. A compressed tile of
which nothing is in the store is left as it is. -/
def Pass.storeRuns (p : Pass) : List (Nat × Nat) :=
  (p.spilled.foldl (fun l t => insNat t l) p.touched).flatMap fun n =>
    let (rx, ry) := p.tileAt n
    let x0 := max (32 * rx) p.vpX
    let x1 := min (32 * rx + 32) (p.vpX + p.vpW)
    let y0 := max (32 * ry) p.vpY
    let y1 := min (32 * ry + 32) (p.vpY + p.vpH)
    (List.range 9).flatMap fun i =>
      let t := p.target i
      if !t.bound then []
      else if t.comp = 1 then
        (upFrom (y0 / 8) ((y1 - 1) / 8 - y0 / 8 + 1)).flatMap fun ty => (upFrom (x0 / 8) ((x1 - 1) / 8 - x0 / 8 + 1)).flatMap fun tx =>
          let c := t.tile (8 * tx) (8 * ty)
          if Table.get 0 p.tileStore (t.mbase + c) = 0 then [] else [(t.base + 256 * c, 256), (t.mbase + c, 1)]
      else
        (List.range p.samples).flatMap fun s => (upFrom y0 (y1 - y0)).map fun y => (t.addr x0 y s, (x1 - x0) * t.b)

/-- The tiles of a binned pass written to the targets, run by run (R327). -/
def Dev.storeTiles (e : Env) (pid : Nat) : List (Nat × Nat) → Dev → Bool × Dev
  | [], d => (true, d)
  | (va, n) :: r, d =>
    match d.pass? pid with
    | none => (true, d)
    | some p =>
      let next (d : Dev) : Dev := d.modPass pid fun p => { p with storeAt := p.storeAt + 1 }
      match d.passRead e p p.asker va n with
      | (.wait _, d) => (false, d)
      | (.lost c _, d) => Dev.storeTiles e pid r (next (d.passFatal pid c))
      | (.ok bs _, d) =>
        match Dev.ownWrite e pid (linesOf n) d va bs with
        | ([], d) => Dev.storeTiles e pid r (next d)
        | (_, d) => (false, d)

/-! ## The end of a pass (R329) -/

/-- Nothing of the pass is left to render. -/
def Dev.passDone (d : Dev) (p : Pass) : Bool :=
  let live (g : WG) : Bool := g.launch = p.launch && decide (g.place ≠ .retired)
  p.closePkt.isSome && p.begun && p.draws.isEmpty && p.quads.isEmpty && p.owed.isEmpty && !d.wgs.any live &&
  !(d.ops.any fun o => (o.kind = .omst || o.kind = .kbins || o.kind = .omld) && o.addr = p.id) &&
  !(d.eps.any fun q => q.log.any fun r => r.pass = some p.id || r.launch = p.launch)

/-- PASS_END: the tile stores are written, the k-buffer is resolved, and the pass has ended. -/
def Dev.passEnd (e : Env) (d : Dev) (pid : Nat) : Dev :=
  match d.pass? pid with
  | none => d
  | some p =>
    if p.binned && p.quads.any (fun q => !q.open_) && p.draws.isEmpty && p.closePkt.isSome then
      -- the remaining bins are rendered
      d.modPass pid fun p => { p with quads := p.quads.map (·.render e.now) }
    else if p.ended || !d.passDone p then d
    else
      let px := if p.kb && ((p.target p.kres).tf = 4 || (p.target p.kres).tf = 5) then
          (upFrom p.vpY p.vpH).flatMap fun y => (upFrom p.vpX p.vpW).map fun x => (x, y)
        else []
      match (if p.stored then (true, d) else Dev.storeTiles e pid (p.storeRuns.drop p.storeAt) d) with
      | (false, d) => d
      | (true, d) =>
        match Dev.resolveGo e pid (px.drop p.endAt)
            (d.modPass pid fun p => { p with stored := true, tileStore := p.tileStore.filter fun q => decide (kStore ≤ q.1) }) with
        | (false, d) => d
        | (true, d) =>
          if d.eps.any fun q => q.log.any fun r => r.pass = some pid then d
          else d.modPass pid fun p => { p with ended := true, tileStore := [] }

/-! ## The order of the merger (R301) -/

/-- Primitive order across the draws of a pass. -/
def keyLt (a b : Nat × Nat × Nat) : Bool :=
  a.1 < b.1 || (a.1 = b.1 && (a.2.1 < b.2.1 || (a.2.1 = b.2.1 && a.2.2 < b.2.2)))

def Pixel.key (x : Pixel) : Nat × Nat × Nat := (x.draw, x.g, x.p)
def Quad.key (q : Quad) : Nat × Nat × Nat := (q.draw, q.g, q.p)

/-- The pixel of a merger access: position, coverage at issue and key, kept in its operand words. -/
def Op.pix (o : Op) : Nat × Nat := ((o.st.getD 0 0#32).toNat, (o.st.getD 1 0#32).toNat)
def Op.cov (o : Op) : Nat := (o.st.getD 2 0#32).toNat
def Op.key (o : Op) : Nat × Nat × Nat := ((o.st.getD 3 0#32).toNat, (o.st.getD 4 0#32).toNat, (o.st.getD 5 0#32).toNat)

/-- Where a merger access lies in memory, in its pass: nothing of it in a tile store is a location of memory. -/
def Pass.mergeParts (p : Pass) (k : OpKind) (t : Target) (x y cov s : Nat) : List Part :=
  if p.binned then []
  else if k = .kbins then [{ va := va57 (p.kAddr x y), off := 0, len := 128 }]
  else if t.comp = 1 then
    [{ va := va57 (t.base + 256 * t.tile x y), off := 0, len := 256 }, { va := va57 (t.mbase + t.tile x y), off := 0, len := 1 }]
  else ((List.range p.samples).filter fun i => if k = .omld then decide (i = s) else cov.testBit i).map fun i =>
    { va := va57 (t.addr x y i), off := 0, len := t.b }

/-- The merger begins no further access of a halting work-group (R390). -/
def Dev.mergeHalts (d : Dev) (w : Nat) : Bool :=
  match d.wg? w with
  | some g => !(g.halt = .none || (g.halt = .trap && g.handling))
  | none => false

/-- The access may be performed now: in the order of R301 at its pixel, and after what its fibre still has to do there (R124). -/
def Dev.mergeReady (d : Dev) (p : Pass) (o : Op) : Bool :=
  let at_ := o.pix
  !o.frozen && !o.ready && !d.mergeHalts o.wg && o.parts.all (fun q => !d.bytesBusy o q) &&
  !(d.ops.any fun q => q.kind.merges && !q.ready && q.addr = o.addr && q.id ≠ o.id &&
      ((q.wg = o.wg && q.fib = o.fib && q.id < o.id) || (q.pix = at_ && keyLt q.key o.key))) &&
  !(d.wgs.any fun (g : WG) => g.launch = p.launch && decide (g.place ≠ .retired) && g.fibs.any fun f => f.live &&
      match f.pixel with
      | some x => (x.x, x.y) = at_ && x.cov ≠ 0 && keyLt x.key o.key
      | none => false) &&
  !(p.quads.any fun q => keyLt q.key o.key && (List.range 4).any fun i => (q.x + i % 2, q.y + i / 2) = at_ && q.cov.getD i 0 ≠ 0)

/-- MERGER_ACCESS_PERFORMED: operand a is the operation. DEDUCED, log 27. -/
def Dev.mergerPerform (e : Env) (d : Dev) (id : Nat) : Dev :=
  match d.op? id with
  | none => d
  | some o =>
    match d.pass? o.addr with
    | none => (d.dropOp id).retireTag e o.core o.tag
    | some p =>
      if !d.mergeReady p o then d
      else
        let k := mergeAsker p o
        let t := p.target (bitsN o.m.toNat 26 23)
        let px := o.pix
        let hold (d : Dev) (q : Nat) : Dev := d.modOp id fun o => { o with heldOn := some q }
        let gone (d : Dev) : Dev := (d.dropOp id).retireTag e o.core o.tag
        let lose (d : Dev) (c v : Nat) : Dev := gone (d.async o.wg o.fib c (vaWide v))
        match o.kind with
        | .omst =>
          match Dev.samplesWrite e p.id k o t px.1 px.2 (bytesOfWords (o.st.drop 6)) ((List.range p.samples).filter o.cov.testBit) d with
          | (.wait q, d) => hold d q
          | (.lost c v, d) => lose d c v
          | (_, d) => gone (d.modPass p.id (·.touch px.1 px.2))
        | .omld =>
          match d.pixelRead e p k t px.1 px.2 o.mark with
          | (.wait q, d) => hold d q
          | (.lost c v, d) => lose d c v
          | (.ok bs bad, d) =>
            let (n, d) := d.choose 64
            d.modOp id fun o =>
              { o with ready := true, res := wordsOfBytes bs, poisoned := bad, due := e.now + 1 + n }
        | _ =>
          match d.passProbe e p k (p.kAddr px.1 px.2) 128 with
          | (.wait q, d) => hold d q
          | (.lost c v, d) => lose d c v
          | (_, d) =>
            match d.passRead e p k (p.kAddr px.1 px.2) 128 with
            | (.wait q, d) => hold d q
            | (.lost c v, d) => lose d c v
            | (.ok bs _, d) =>
              let new := kBytes bs (kInsert (kLayers bs) (o.st.getD 6 0#32).toNat (wordsNat (o.st.drop 7)))
              gone ((d.passWrite e p k o (p.kAddr px.1 px.2) new).2.modPass p.id (·.touch px.1 px.2))

/-! ## Meanings -/

def execPrimitiveSetup : State → Host.Outcome State Fault Refusal := event fun e d => d.primSetup e d.arg.a

def execPixelLaunchTimeout : State → Host.Outcome State Fault Refusal := event fun e d => d.pixelLaunch e d.arg.a d.arg.b

def execPassEnd : State → Host.Outcome State Fault Refusal := event fun e d => d.passEnd e d.arg.a

def execMergerAccessPerformed : State → Host.Outcome State Fault Refusal := event fun e d => d.mergerPerform e d.arg.a

end Sys2Proof.Machine
end

