-- ==== Sys2Proof/Machine/Control.lean ====
section
/-! DEFINITION. Branches, calls, fibre creation and end, waiting, traps by instruction, `cont` (spec/07, R189 to R201; R37 to
R39; R265). -/
namespace Sys2Proof.Machine

open Sys2Proof

/-! ## Branches (R189 to R191) -/

/-- PC + 4·o. -/
def relTo (f : Fib) (o : Int) : DWord := f.pc + BitVec.ofInt 64 (4 * o)

/-- A register target is checked (R189). -/
def targetOk (t size : Nat) : Bool := t % 4 = 0 && t < size

/-- The link word of an instruction. -/
def linkOf (f : Fib) (x : X) : Word := (f.pc + BitVec.ofNat 64 x.len).setWidth 32

def insBra : Ins := {}

def bodyBra (o : Int) : Body := fun _ cx _ f _ d => d.modFib cx.wg cx.fi (·.jump cx.now (relTo f o))

def insCall : Ins where
  d := fun _ => opd 1

def bodyCall (o : Int) : Body := fun _ cx _ f _ d =>
  d.modFib cx.wg cx.fi fun g => (g.setWords cx.x.d.toNat [linkOf f cx.x]).jump cx.now (relTo f o)

def insRet : Ins where
  a := fun _ => opd 1

/-- The fibre goes on at a checked register target. -/
def goTo (e : Env) (cx : Cx) (g : WG) (f : Fib) (l : Launch) (d : Dev) (t : Nat) : Dev :=
  if targetOk t (textSize g f l) then d.modFib cx.wg cx.fi (·.jump cx.now (BitVec.ofNat 64 t)) else d.illegal e cx

def bodyRet : Body := fun e cx g f l d => goTo e cx g f l d (srcA e.now g f cx.x 1)

def insBrx : Ins where
  a := fun _ => opd 1
  b := fun _ => opd 1

def bodyBrx : Body := fun e cx g f l d =>
  goTo e cx g f l d (bitsOf ((srcA e.now g f cx.x 1 : Nat) + sNat 32 (srcB e.now g f cx.x 1)) 32)

/-! ## callx (R37 to R39, R192, R193) -/

def insCallx : Ins where
  a := fun _ => opd 1
  b := fun _ => opd 1
  d := fun _ => opd 1
  ok6 := fun l x => x.mf 31 23 ≤ l.w
  inHandler := false

/-- The open collection that a fibre of the quadrant joins. -/
def Dev.openColl (d : Dev) (now : Nat) (g : WG) (l : Launch) (quad : Nat) : Option Coll :=
  (d.core g.core).colls.find? fun c =>
    c.quad = quad && c.closed.isNone && c.ctx = g.ctx.ctxid && c.text = l.r.text && c.w = l.r.w && now ≤ c.opened + 16

def Dev.modColl (d : Dev) (core cid : Nat) (f : Coll → Coll) : Dev :=
  d.modCore core fun k => { k with colls := k.colls.map fun c => if c.id = cid then f c else c }

/-- It holds 32 fibres for each distinct key (R37). -/
def Coll.full (c : Coll) : Bool := c.members.all fun m => (c.members.filter fun n => n.key = m.key).length ≥ 32

/-- DEDUCED, log 20. -/
def bodyCallx : Body := fun e cx g f l d =>
  let t := srcA e.now g f cx.x 1
  if !targetOk t (textSize g f l) then d.illegal e cx
  else
    let quad := quadOf cx.fi
    let me : Caller :=
      { wg := cx.wg, fib := cx.fi, target := t, key := srcB e.now g f cx.x 1, live := cx.x.mf 31 23, d := cx.x.d.toNat,
        link := linkOf f cx.x }
    match d.openColl e.now g l quad with
    | some c =>
      let c := { c with members := c.members ++ [me] }
      (d.modColl g.core c.id fun _ => if c.full then { c with closed := some e.now } else c).block cx (.coll c.id)
    | none =>
      let (id, d) := d.takeId
      let c : Coll := { id := id, quad := quad, ctx := g.ctx.ctxid, text := l.r.text, w := l.r.w, opened := e.now, members := [me] }
      (d.modCore g.core fun k => { k with colls := k.colls ++ [c] }).block cx (.coll id)

/-- COLLECTION_CLOSE: core and collection, once 16 cc have passed. -/
def Dev.collClose (e : Env) (d : Dev) (core cid : Nat) : Dev :=
  d.modColl core cid fun c => if c.closed.isNone && c.opened + 16 < e.now then { c with closed := some e.now } else c

/-- cc that the moves of a closed collection take (R193). -/
def Coll.moveTime (c : Coll) : Nat :=
  let m := c.members.foldl (fun n x => max n x.live) 0
  (m + 7) / 8 + 4

def slotOf (d : Dev) (w : Nat) : Nat := ((d.wg? w).map (·.slot)).getD 0

/-- Members sorted by target, key, work-group slot and index, as one number. -/
def callerKey (d : Dev) (c : Caller) : Nat := ((c.target * 2 ^ 32 + c.key) * 64 + slotOf d c.wg) * 1024 + c.fib

/-- A pending result for words at or above `n` is discarded on arrival (R39); its flags still count (R70, R71). -/
def Op.cut (o : Op) (n : Nat) : Op :=
  if o.dst ≥ n then { o with dn := 0 } else { o with dn := min o.dn (n - o.dst) }

/-- One member takes its position, keeps w0 to w(L−1), and goes on at its target; its link is written once those words are
full. -/
def Dev.regroupOne (e : Env) (d : Dev) (m : Caller) (at_ : Nat × Nat) : Dev :=
  let d := { d with ops := d.ops.map fun (o : Op) => if o.wg = m.wg && o.fib = m.fib then o.cut m.live else o }
  d.modFib m.wg m.fib fun f =>
    let emp := f.emp.filter (· < m.live)
    let f := { f.issued false with
      pos := at_.1, lane := at_.2, win := f.win.take m.live ++ List.replicate (f.win.length - m.live) 0#32, emp := emp,
      pc := BitVec.ofNat 64 m.target, readyAt := e.now + 1 }
    if emp.isEmpty then { f.setWords m.d [m.link] with wait := .none } else { f with wait := .linkw emp m.d m.link }

/-- REGROUP_MOVE_COMPLETE: core and collection. DEDUCED, log 20. -/
def Dev.regroup (e : Env) (d : Dev) (core cid : Nat) : Dev :=
  match (d.core core).colls.find? fun c => c.id = cid with
  | none => d
  | some c =>
    match c.closed with
    | none => d
    | some _ =>
      let ms := sortBy (callerKey d) c.members
      let spots := sortBy (fun p => p.1 * 32 + p.2)
        (c.members.filterMap fun m => (d.fib? m.wg m.fib).map fun f => (f.pos, f.lane))
      let d := (ms.zip spots).foldl (fun d q => d.regroupOne e q.1 q.2) d
      d.modCore core fun k => { k with colls := k.colls.filter fun c => c.id ≠ cid }

/-- The fibres of a halting work-group leave the collections that have not closed (R193). -/
def Dev.withdraw (d : Dev) (w : Nat) : Dev :=
  match d.wg? w with
  | none => d
  | some g =>
    let opens := ((d.core g.core).colls.filter fun c => c.closed.isNone).map (·.id)
    let d := d.modCore g.core fun k =>
      { k with colls := (k.colls.map fun c =>
          if c.closed.isNone then { c with members := c.members.filter fun m => m.wg ≠ w } else c).filter fun c => !c.members.isEmpty }
    d.modWg w fun g =>
      { g with fibs := g.fibs.map fun f =>
          match f.wait with
          | .coll c => if opens.contains c then { f with wait := .none } else f
          | _ => f }

/-! ## spawn and exit (R194 to R196) -/

def insSpawn : Ins where
  a := fun _ => opd 1
  bL := fun _ x => run (x.mf 26 23)
  d := fun _ => opd 1
  wp := fun x => [x.dx.toNat]
  ok6 := fun l x => x.mf 26 23 ≤ 8 && x.b.toNat + x.mf 26 23 ≤ l.w
  inHandler := false

/-- The lowest index that no fibre holds and that was not freed in this cc. -/
def freeIndex (g : WG) (now : Nat) : Option Nat :=
  (List.range g.fibs.length).find? fun i =>
    match g.fib? i with
    | some f => !f.live && !f.unborn && f.readyAt ≤ now
    | none => false

/-- The new fibre counts as live from the next cc on (R195). It takes the home lane and window position that stand reserved for its
index: those of the former fibre, also where `callx` moved it (DEDUCED, log 20). -/
def bodySpawn : Body := fun e cx g f l d =>
  let x := cx.x
  let t := srcA e.now g f x 1
  if !targetOk t (textSize g f l) then d.illegal e cx
  else
    match freeIndex g e.now with
    | none => (d.modFib cx.wg cx.fi fun f => (f.setWords x.d.toNat [0xFFFFFFFF#32]).setPred x.dx.toNat false).advance cx
    | some i =>
      let n := newFib l.r (BitVec.ofNat 64 t) f.priv (f.words x.b.toNat (x.mf 26 23))
      let d := d.modFib cx.wg i fun h =>
        { n with live := false, unborn := true, lane := h.lane, pos := h.pos, fslot := h.fslot, readyAt := e.now + 1,
                 pixel := f.pixel.map fun p => { p with cov := 0, cov0 := 0 } }
      (d.modFib cx.wg cx.fi fun f => (f.setWords x.d.toNat [BitVec.ofNat 32 i]).setPred x.dx.toNat true).advance cx

/-- The fibre is exited: its pending results are discarded on landing, and what waited for it goes on (R41, R196).
DEDUCED, log 20. -/
def Dev.exitFib (e : Env) (d : Dev) (w i : Nat) : Dev :=
  let d := d.modFib w i fun f => { f with live := false, wait := .none, cand := false, trav := none, readyAt := e.now + 1 }
  let d := { d with ops := d.ops.map fun (o : Op) => if o.wg = w && o.fib = i then { o with discard := true } else o }
  (squadRecheck e d w (squadOf i)).latchRecheck e w

def insExit : Ins where
  inHandler := false

def bodyExit : Body := fun e cx _ _ _ d => d.exitFib e cx.wg cx.fi

/-! ## nop, yield, sleep (R197, R198) -/

def insNop : Ins := {}

def bodyNop : Body := fun _ cx _ _ _ d => d.advance cx

def bodyYield : Body := fun _ cx _ _ _ d => (d.advance cx).modFib cx.wg cx.fi fun f => { f with order := 1 }

def insSleep : Ins where
  b := fun _ => opd 1

def bodySleep : Body := fun e cx g f _ d =>
  let n := srcB e.now g f cx.x 1
  if n = 0 then d.advance cx else d.hold cx (.sleep (e.now + n))

/-- SLEEP_EXPIRY: work-group and fibre. -/
def Dev.sleepEnd (e : Env) (d : Dev) (w i : Nat) : Dev :=
  d.modFib w i fun f =>
    match f.wait with
    | .sleep t => if t ≤ e.now then { f with wait := .none, readyAt := e.now } else f
    | _ => f

/-! ## wait (R199, R200) -/

def insWait : Ins where
  a := fun _ => opd 2
  b := fun _ => opd 1
  ok6 := fun _ x => ordOk [0, 1] x

/-- The word at a target, the key under which a write to it is noticed, and its L1 line. DEDUCED, log 42. -/
def Dev.waitRead (e : Env) (d : Dev) (g : WG) (t : Tgt) : Rd × Nat × Dev :=
  let k : Asker := { wg := g.id, core := g.core, unit := 0, fsvc := g.ctx.fsvc }
  let r := d.readT e g k t 4
  match t with
  | .glob va =>
    match rangeLookup g.rng va with
    | some ia =>
      let key := match d.reachRaw e ia .rd with
        | (.at_ key, _) => key / 128
        | _ => 0
      -- what the core holds of the line may be older than the word read (R133)
      (r.1, key, r.2.forgetL1 g.core (ia / 128))
    | none => (r.1, 0, r.2)
  | .vault rank off =>
    (r.1, match d.member g rank with
      | some h => vaultRowKey h off
      | none => 0, r.2)
  | .acc _ => (r.1, 0, r.2)

/-- An older access of the fibre to the word is still on its way. -/
def Dev.ownOpen (d : Dev) (cx : Cx) (q : Nat) (t : Tgt) : Bool :=
  let va := match t with
    | .glob va => va
    | .vault _ off => off
    | .acc off => off
  d.bytesBusy { id := d.nextId, kind := .ld, wg := cx.wg, fib := cx.fi, addr := q } { va := va, off := 0, len := 4 }

/-- One read of a `wait` that compares with `v`: the fibre stays as `stay` says, or `go`es on (R199). DESIGN CHOICE, log 48. -/
def Dev.waitAt (e : Env) (d : Dev) (g : WG) (fi : Nat) (i : Instr) (x : X) (t : Tgt) (v : Nat) (stay : Wait → Dev → Dev)
    (go : Dev → Dev) : Dev :=
  match d.waitRead e g t with
  | (.wait p, _, d) => stay (.memp p v i) d
  | (.lost c va, _, d) => stay .none (d.async g.id fi c (vaWide va))
  | (.ok bs bad, key, d) =>
    if bad then stay .none (d.consume g.id fi 0)
    else if leNat bs ≠ v then go (if ordAcq x.ord && d.scopeWide e g x.scope x.grp then d.invalidateL1 g.core else d)
    else stay (.memw key e.now v false i) d

def waitTarget (g : WG) (f : Fib) (l : Launch) (fi : Nat) (x : X) : Except (Nat × Nat) Tgt :=
  resolve g f l fi (f.nat x.a.toNat 2) 4 [0, 1, 3, 4] 4 true false

def bodyWait (i : Instr) : Body := fun e cx g f l d =>
  let x := cx.x
  let q := f.nat x.a.toNat 2
  match waitTarget g f l cx.fi x with
  | .error (c, v) => d.trap e cx c v
  | .ok t =>
    if d.ownOpen cx q t then d.block cx (.ops d.nextId false)
    else if d.isDevice e g t && g.halt ≠ .none && !g.handling then d.block cx .device
    else d.waitAt e g cx.fi i x t (srcB e.now g f x 1) (fun w d => d.block cx w) fun d => d.advance cx

/-- The fields of a compact `wait` (R199). -/
def waitTwin (g : BitVec 2) (n : Bool) (a : BitVec 7) (b : BitVec 6) : X :=
  { twin g n with a := a.setWidth 8, b := b.setWidth 8 }

/-- The fields of a `wait`. -/
def waitX (i : Instr) : Option X :=
  match i with
  | .wait g n a b => some (waitTwin g n a b)
  | .waitExtended x => some x
  | _ => none

/-- What a fibre in `wait` compares with, and its instruction, once a recheck event has come (R199). -/
def Dev.recheckDue (d : Dev) (now : Nat) (f : Fib) : Option (Nat × Instr) :=
  if f.stuck then none
  else
    match f.wait with
    | .memw _ last v hit i => if hit || last + 4096 ≤ now then some (v, i) else none
    | .memp p v i => if d.pageFree p then some (v, i) else none
    | _ => none

/-- WAIT_RECHECK_TIMEOUT: work-group and fibre: the fibre reads its word again and stays blocked unless it changed (R199, R200). -/
def Dev.waitAgain (e : Env) (d : Dev) (w fi : Nat) : Dev :=
  match d.wg? w with
  | none => d
  | some g =>
    match g.fib? fi, d.launch? g.launch with
    | some f, some l =>
      match d.recheckDue e.now f with
      | none => d
      | some (v, i) =>
        match waitX i with
        | none => d
        | some x =>
          match waitTarget g f l fi x with
          | .error _ => d
          | .ok t =>
            d.waitAt e g fi i x t v (fun w d => d.modFib g.id fi fun f => { f with wait := w })
              fun d => d.modFib g.id fi fun f => (f.issued g.skids).advance e.now x.len
    | _, _ => d

/-! ## brk, trap (R201) -/

def bodyTrap (cause : Nat) : Body := fun e cx _ _ _ d => d.trap e cx cause (cx.x.mf 15 0)

/-! ## cont (R265) -/

def insCont : Ins where
  a := fun _ => run 7
  b := fun _ => opd 1

/-- Records the pool holds, those on their way counted. -/
def Dev.poolCount (d : Dev) (l : Launch) : Nat :=
  (l.initN - l.initGet) + (l.poolPut - l.poolGet) +
    (d.ops.filter fun o => o.kind = .cont && ((d.wg? o.wg).map (·.launch)) = some l.id).length

def bodyCont : Body := fun e cx g f l d =>
  if l.r.pool = 0 then d.trap e cx cAccessDenied 0
  else if d.poolCount l ≥ 2 ^ l.poolLog then d.block cx .pool
  else if d.tagBlocked g cx.fi f none (cx.instr f) then d.tagHold cx f none
  else
    let (tag, d) := d.takeTag g f
    let (id, d) := d.takeId
    let rec_ := BitVec.ofNat 32 (srcB e.now g f cx.x 1) :: f.words cx.x.a.toNat 7
    let o : Op :=
      { id := id, kind := .cont, wg := cx.wg, fib := cx.fi, ord := g.issue, grp := cx.instr f, tag := tag, core := g.core, m := cx.x.m,
        st := rec_, scope := 3, rel := true, deep := true, due := e.now + 1, sentAt := e.now, parts := [{ va := 2 ^ 60 + 128 * id, off := 0, len := 0 }] }
    ({ d with ops := d.ops ++ [o] }.modWg cx.wg fun g => { g with issue := g.issue + 1 }).advance cx

/-! ## Meanings -/

/-- Compact `bra`: off20 (R151). -/
def execBra (g : BitVec 2) (n : Bool) (o : BitVec 20) : State → Host.Outcome State Fault Refusal :=
  issue insBra (bodyBra o.toInt) (.bra g n o) (twin g n)

def execBraExtended (x : X) : State → Host.Outcome State Fault Refusal := issue insBra (bodyBra x.m.toInt) (.braExtended x) x

/-- Compact `call`: off13 (R151). -/
def execCall (g : BitVec 2) (n : Bool) (o : BitVec 13) (d : BitVec 7) : State → Host.Outcome State Fault Refusal :=
  issue insCall (bodyCall o.toInt) (.call g n o d) { twin g n with d := d.setWidth 8 }

def execCallExtended (x : X) : State → Host.Outcome State Fault Refusal := issue insCall (bodyCall x.m.toInt) (.callExtended x) x

def execRet (g : BitVec 2) (n : Bool) (a : BitVec 7) : State → Host.Outcome State Fault Refusal :=
  issue insRet bodyRet (.ret g n a) { twin g n with a := a.setWidth 8 }

def execRetExtended (x : X) : State → Host.Outcome State Fault Refusal := issue insRet bodyRet (.retExtended x) x

def execBrx (x : X) : State → Host.Outcome State Fault Refusal := issue insBrx bodyBrx (.brx x) x

def execCallx (x : X) : State → Host.Outcome State Fault Refusal := issue insCallx bodyCallx (.callx x) x

def execSpawn (x : X) : State → Host.Outcome State Fault Refusal := issue insSpawn bodySpawn (.spawn x) x

def execExit (g : BitVec 2) (n : Bool) : State → Host.Outcome State Fault Refusal := issue insExit bodyExit (.exit g n) (twin g n)

def execExitExtended (x : X) : State → Host.Outcome State Fault Refusal := issue insExit bodyExit (.exitExtended x) x

def execNop (g : BitVec 2) (n : Bool) : State → Host.Outcome State Fault Refusal := issue insNop bodyNop (.nop g n) (twin g n)

def execNopExtended (x : X) : State → Host.Outcome State Fault Refusal := issue insNop bodyNop (.nopExtended x) x

def execYield (g : BitVec 2) (n : Bool) : State → Host.Outcome State Fault Refusal := issue insNop bodyYield (.yield g n) (twin g n)

def execYieldExtended (x : X) : State → Host.Outcome State Fault Refusal := issue insNop bodyYield (.yieldExtended x) x

def execSleep (x : X) : State → Host.Outcome State Fault Refusal := issue insSleep bodySleep (.sleep x) x

/-- Compact `wait`: B6 is a window word (R199). -/
def execWait (g : BitVec 2) (n : Bool) (a : BitVec 7) (b : BitVec 6) : State → Host.Outcome State Fault Refusal :=
  issue insWait (bodyWait (.wait g n a b)) (.wait g n a b) (waitTwin g n a b)

def execWaitExtended (x : X) : State → Host.Outcome State Fault Refusal := issue insWait (bodyWait (.waitExtended x)) (.waitExtended x) x

def execBrk (x : X) : State → Host.Outcome State Fault Refusal := issue insNop (bodyTrap cBreak) (.brk x) x

def execTrap (x : X) : State → Host.Outcome State Fault Refusal := issue insNop (bodyTrap cSoftware) (.trap x) x

def execCont (x : X) : State → Host.Outcome State Fault Refusal := issue insCont bodyCont (.cont x) x

def execCollectionClose : State → Host.Outcome State Fault Refusal := event fun e d => d.collClose e d.arg.a d.arg.b

def execRegroupMoveComplete : State → Host.Outcome State Fault Refusal := event fun e d => d.regroup e d.arg.a d.arg.b

def execSleepExpiry : State → Host.Outcome State Fault Refusal := event fun e d => d.sleepEnd e d.arg.a d.arg.b

def execWaitRecheckTimeout : State → Host.Outcome State Fault Refusal := event fun e d => d.waitAgain e d.arg.a d.arg.b

end Sys2Proof.Machine
end

