-- ==== Sys2Proof/Machine/Graphics.lean ====
section
/-! DEFINITION. Mesh output, interpolation and the output merger's instructions (spec/11, R292 to R304). -/
namespace Sys2Proof.Machine

open Sys2Proof

/-- The RASTER feature bit (R49). -/
def featRaster : Word := 16#32

/-- The next free value. DESIGN CHOICE, log 2; DESIGN CHOICE, log 10. -/
def Dev.freeWord (d : Dev) : Word × Dev := (Config.freeWord d.fresh, { d with fresh := d.fresh + 1 })

/-- An open pass of a launch. -/
def Dev.passOf (d : Dev) (l : Launch) : Option Pass := d.pass? l.pass

/-! ## mvtx, mprim, mend (R296 to R298) -/

def insMvtx : Ins where
  a := fun _ => opd 1
  b := fun _ => opd 4
  feat := fun _ _ => featRaster
  ok6 := fun l x => l.kind = .mesh && x.mf 26 23 ≤ 8

def bodyMvtx : Body := fun e cx g f l d =>
  let v := srcA e.now g f cx.x 1
  if v ≥ l.meshV then d.illegal e cx
  else
    let vq := cx.x.mf 26 23
    let at_ := 36 * v + (if vq = 0 then 0 else 4 * vq)
    let ws := f.words cx.x.b.toNat 4
    (d.modWg cx.wg fun g =>
      { g with mesh := ((List.range 4).zip ws).foldl (fun t p => Table.set 0#32 t (at_ + p.1) p.2) g.mesh }).advance cx

def insMprim : Ins where
  a := fun _ => opd 1
  b := fun x => if x.mb 23 then {} else opd 1
  feat := fun _ _ => featRaster
  ok6 := fun l _ => l.kind = .mesh

def bodyMprim : Body := fun e cx g f l d =>
  let p := srcA e.now g f cx.x 1
  let b := srcB e.now g f cx.x 1
  let topo := ((d.passOf l).map Pass.topo).getD 2
  let used := 256 ^ (topo + 1)
  if p ≥ l.meshP then d.illegal e cx
  else if cx.x.mb 23 then (d.modWg cx.wg fun g => { g with prims := Table.set 0#32 g.prims p 0#32 }).advance cx
  else if b ≥ used then d.illegal e cx
  else (d.modWg cx.wg fun g => { g with prims := Table.set 0#32 g.prims p (BitVec.ofNat 32 (2 ^ 31 + b)) }).advance cx

def insMend : Ins where
  a := fun _ => opd 1
  b := fun _ => opd 1
  feat := fun _ _ => featRaster
  ok6 := fun l _ => l.kind = .mesh

def bodyMend : Body := fun e cx g f l d =>
  let nv := srcA e.now g f cx.x 1
  let np := srcB e.now g f cx.x 1
  if nv > l.meshV || np > l.meshP then d.illegal e cx
  else (d.modWg cx.wg fun g => { g with mends := g.mends ++ [(cx.fi, nv, np)] }).exitFib e cx.wg cx.fi

/-! ## attr (R299) -/

def insAttr : Ins where
  b := fun x => if x.mf 26 25 = 2 then opd 1 else {}
  d := fun _ => opd 1
  feat := fun _ _ => featRaster
  ok6 := fun l x => l.kind = .pixel && x.mf 26 25 ≤ 2 && x.mf 24 23 ≤ 2

/-- Where the weights are taken (R322). -/
def attrPoint (p : Pixel) (loc s : Nat) : Int × Int :=
  let low := ((List.range p.s).find? fun i => p.cov0.testBit i).getD 0
  if loc = 2 then sampleAt p.s p.x p.y s
  else if loc = 1 && p.cov0 ≠ 0 && p.cov0 ≠ 2 ^ p.s - 1 then sampleAt p.s p.x p.y low
  else (256 * p.x + 128, 256 * p.y + 128)

/-- The interpolated word. DESIGN CHOICE, log 10. -/
def attrWord (q : Prim) (x : X) (p : Pixel) (s : Nat) : Word :=
  let j := x.mf 31 27
  if x.mf 24 23 = 2 then q.flat.getD j 0#32
  else
    let at_ := attrPoint p (x.mf 26 25) s
    let ws := if x.mf 24 23 = 0 then q.persp at_.1 at_.2 else q.lambda at_.1 at_.2
    let term (v : Q × List Word) : Term := (mulTerm (f32V (weightWord v.1)) (f32V (v.2.getD j 0#32).toNat)).1
    BitVec.ofNat 32 (sumTo fF32 rne false ((ws.zip q.attrs).map term)).1

def bodyAttr : Body := fun e cx g f l d =>
  let s := srcB e.now g f cx.x 1
  let put (d : Dev) (w : Word) : Dev := (d.modFib cx.wg cx.fi (·.setWords cx.x.d.toNat [w])).advance cx
  match f.pixel with
  | none => let r := d.freeWord; put r.2 r.1
  | some p =>
    if cx.x.mf 26 25 = 2 && s ≥ p.s then d.illegal e cx
    else
      match (d.passOf l).bind (·.prim? p) with
      | some q =>
        if cx.x.mf 31 27 < q.flat.length then put d (attrWord q cx.x p s) else (let r := d.freeWord; put r.2 r.1)
      | none => let r := d.freeWord; put r.2 r.1

/-! ## pxdisc (R300) -/

def insPxdisc : Ins where
  b := fun _ => opd 1
  feat := fun _ _ => featRaster
  ok6 := fun l _ => l.kind = .pixel

def bodyPxdisc : Body := fun e cx g f _ d =>
  let m := srcB e.now g f cx.x 1
  (d.modFib cx.wg cx.fi fun f => { f with pixel := f.pixel.map fun p => { p with cov := p.cov &&& (2 ^ p.s - 1 - m % 2 ^ p.s) } }).advance cx

/-! ## omst, omld, kbins (R301 to R304) -/

/-- The engine that owns a pixel. -/
def engineOf (p : Pass) (x y : Nat) : Nat := 8 * p.clu + (x / 32 + y / 32) % 8

/-- Accepted accesses not yet performed on an engine. -/
def Dev.mergerLoad (d : Dev) (eng : Nat) : Nat :=
  (d.ops.filter fun o => o.kind.merges && !o.ready && !o.frozen &&
    match d.pass? o.addr with
    | some p => engineOf p o.pix.1 o.pix.2 = eng
    | none => false).length

def targetOf (x : X) : Nat := x.mf 26 23

def insOmst : Ins where
  a := fun _ => opd 1
  feat := fun _ _ => featRaster
  ok6 := fun l x => l.kind = .pixel && targetOf x ≤ 8

/-- The access joins the merger's queue, a write with a tag (R391). -/
def mergeSend (e : Env) (cx : Cx) (g : WG) (f : Fib) (ps : Pass) (p : Pixel) (k : OpKind) (s : Nat) (data : List Word) (d : Dev) : Nat × Dev :=
  let (tag, d) := if k = .omld then (0, d) else d.takeTag g f
  let (id, d) := d.takeId
  let w (n : Nat) : Word := BitVec.ofNat 32 n
  let (n, d) := d.choose 64
  let o : Op :=
    { id := id, kind := k, wg := cx.wg, fib := cx.fi, ord := g.issue, grp := cx.instr f, tag := tag, core := g.core, addr := ps.id, m := cx.x.m,
      act := if k = .omld then .read else .write [], parts := ps.mergeParts k (ps.target (targetOf cx.x)) p.x p.y p.cov s,
      st := [w p.x, w p.y, w p.cov, w p.draw, w p.g, w p.p] ++ data, due := e.now + 1 + n, sentAt := e.now }
  (id, { d with ops := d.ops ++ [o] }.modWg cx.wg fun g => { g with issue := g.issue + 1 })

/-- Why the merger does not accept the access now: its queue is full (R301), or a write's tag may not be taken (R392, R395). -/
def Dev.mergeBlock (d : Dev) (cx : Cx) (g : WG) (f : Fib) (ps : Pass) (p : Pixel) (k : OpKind) : Option Dev :=
  if d.mergerLoad (engineOf ps p.x p.y) ≥ 1024 then some (d.block cx (.merger (engineOf ps p.x p.y)))
  else if k ≠ .omld && d.tagBlocked g cx.fi f none (cx.instr f) then some (d.tagHold cx f none)
  else none

/-- The second word of an 8-byte access: misplaced, empty, or nothing against it. -/
def secondWord (l : Launch) (f : Fib) (r : Nat) (b8 : Bool) : Option (Option Nat) :=
  if !b8 then none
  else if r % 2 = 1 || r + 1 ≥ l.r.w then some none
  else if f.emp.contains (r + 1) && !f.hnd then some (some (r + 1))
  else none

def bodyOmst : Body := fun e cx g f l d =>
  match f.pixel, d.passOf l with
  | some p, some ps =>
    let t := ps.target (targetOf cx.x)
    let b8 := t.b = 8
    if !t.bound then d.illegal e cx
    else
      match (if cx.x.ak then none else secondWord l f cx.x.a.toNat b8) with
      | some none => d.illegal e cx
      | some (some k) => if cx.x.fa then d.trap e cx cFeEmpty k else d.block cx (.words [k] [])
      | none =>
        if p.cov = 0 then d.advance cx
        else
          match d.mergeBlock cx g f ps p .omst with
          | some d => d
          | none =>
            let n := if b8 then 2 else 1
            (mergeSend e cx g f ps p .omst 0 (natWords n (srcA e.now g f cx.x n)) d).2.advance cx
  | _, _ => d.illegal e cx

def insOmld : Ins where
  b := fun _ => opd 1
  d := fun _ => opd 1
  feat := fun _ _ => featRaster
  ok6 := fun l x => l.kind = .pixel && targetOf x ≤ 8

def bodyOmld : Body := fun e cx g f l d =>
  match f.pixel, d.passOf l with
  | some p, some ps =>
    let t := ps.target (targetOf cx.x)
    let s := srcB e.now g f cx.x 1
    let b8 := t.b = 8
    if s ≥ p.s || !t.bound then d.illegal e cx
    else
      match secondWord l f cx.x.d.toNat b8 with
      | some none => d.illegal e cx
      | some (some k) => d.block cx (.words [k] [])
      | none =>
        match d.mergeBlock cx g f ps p .omld with
        | some d => d
        | none =>
          let n := if b8 then 2 else 1
          let r := mergeSend e cx g f ps p .omld s [] d
          let d := r.2.modOp r.1 fun o => { o with dst := cx.x.d.toNat, dn := n, mark := s }
          (d.modFib cx.wg cx.fi (·.empty cx.x.d.toNat n)).advance cx
  | _, _ => d.illegal e cx

def insKbins : Ins where
  a := fun _ => opd 1
  b := fun _ => opd 2
  feat := fun _ _ => featRaster
  ok6 := fun l _ => l.kind = .pixel

/-- DEDUCED, log 27. -/
def bodyKbins : Body := fun e cx g f l d =>
  match f.pixel, d.passOf l with
  | some p, some ps =>
    let depth := srcA e.now g f cx.x 1
    if p.cov = 0 || !ps.kb || (f32V depth).isNaN then d.advance cx
    else
      match d.mergeBlock cx g f ps p .kbins with
      | some d => d
      | none => (mergeSend e cx g f ps p .kbins 0 (BitVec.ofNat 32 depth :: natWords 2 (srcB e.now g f cx.x 2)) d).2.advance cx
  | _, _ => d.illegal e cx

/-! ## Meanings -/

def execMvtx (x : X) : State → Host.Outcome State Fault Refusal := issue insMvtx bodyMvtx (.mvtx x) x

def execMprim (x : X) : State → Host.Outcome State Fault Refusal := issue insMprim bodyMprim (.mprim x) x

def execMend (x : X) : State → Host.Outcome State Fault Refusal := issue insMend bodyMend (.mend x) x

def execAttr (x : X) : State → Host.Outcome State Fault Refusal := issue insAttr bodyAttr (.attr x) x

def execPxdisc (x : X) : State → Host.Outcome State Fault Refusal := issue insPxdisc bodyPxdisc (.pxdisc x) x

def execOmst (x : X) : State → Host.Outcome State Fault Refusal := issue insOmst bodyOmst (.omst x) x

def execOmld (x : X) : State → Host.Outcome State Fault Refusal := issue insOmld bodyOmld (.omld x) x

def execKbins (x : X) : State → Host.Outcome State Fault Refusal := issue insKbins bodyKbins (.kbins x) x

end Sys2Proof.Machine
end

