-- ==== Sys2Proof/Machine/Sampler.lean ====
section
/-! DEFINITION. Sampling and texel loads: descriptors, filters, formats, the latent decoder (spec/11, R306 to R312; spec/12,
R334 to R339). -/
namespace Sys2Proof.Machine

open Sys2Proof

/-! ## Reads of a unit, one after another -/

/-- What a run of reads gives: a value and whether poison was read, a page it waits on, or a fatal end. -/
inductive Got (α : Type) where
  | ok (v : α) (bad : Bool)
  | wait (page : Nat)
  | lost (cause va : Nat)

/-- Reads that end in a value. -/
abbrev Rdr (α : Type) := Dev → Got α × Dev

def rdPure {α : Type} (v : α) : Rdr α := fun d => (.ok v false, d)

def rdThen {α β : Type} (m : Rdr α) (f : α → Rdr β) : Rdr β := fun d =>
  match m d with
  | (.ok v b, d) =>
    match f v d with
    | (.ok w c, d) => (.ok w (b || c), d)
    | r => r
  | (.wait p, d) => (.wait p, d)
  | (.lost c v, d) => (.lost c v, d)

def rdEach {α β : Type} (f : α → Rdr β) : List α → Rdr (List β)
  | [] => rdPure []
  | x :: r => rdThen (f x) fun y => rdThen (rdEach f r) fun ys => rdPure (y :: ys)

/-- Bytes of a work-group's memory. -/
def rdBytes (e : Env) (g : WG) (k : Asker) (va n : Nat) : Rdr (List Byte) := fun d =>
  match Dev.readG e g.rng k (linesOf n) d (va57 va) n with
  | (.ok bs bad, d) => (.ok bs bad, d)
  | (.wait p, d) => (.wait p, d)
  | (.lost c v, d) => (.lost c v, d)

/-! ## Descriptors (R334 to R336) -/

structure Tex where
  base : Nat
  wtab : Nat
  w : Nat
  h : Nat
  fmt : Nat
  levels : Nat
  au : Nat
  av : Nat
  kind : Nat
  layers : Nat
  c : Nat
  lstride : Nat

/-- DEDUCED, log 28. -/
def texOf (bs : List Byte) : Tex where
  base := fieldN bs 0 8
  wtab := fieldN bs 8 8
  w := fieldN bs 16 2 % 2 ^ 14 + 1
  h := fieldN bs 18 2 % 2 ^ 14 + 1
  fmt := fieldN bs 20 1
  levels := fieldN bs 21 1 % 16 + 1
  au := fieldN bs 22 1 % 4
  av := fieldN bs 22 1 / 4 % 4
  kind := fieldN bs 23 1
  layers := fieldN bs 24 2 + 1
  c := fieldN bs 26 1 % 8 + 1
  lstride := fieldN bs 32 8

/-- Bytes of a texel of an uncompressed format, if it is one. -/
def fmtBytes (f : Nat) : Option Nat :=
  match f with
  | 0x01 => some 1
  | 0x02 => some 2
  | 0x03 => some 4
  | 0x04 => some 4
  | 0x05 => some 2
  | 0x06 => some 8
  | 0x07 => some 4
  | 0x08 => some 16
  | _ => none

/-- The block of a block-compressed format: width and height. -/
def fmtBlock (f : Nat) : Option (Nat × Nat) :=
  match f with
  | 0x10 => some (4, 4)
  | 0x11 => some (4, 4)
  | 0x12 => some (4, 4)
  | 0x13 => some (4, 4)
  | 0x14 => some (4, 4)
  | 0x16 => some (4, 4)
  | _ =>
    if f < 0x20 then none
    else [(4, 4), (5, 4), (5, 5), (6, 5), (6, 6), (8, 5), (8, 6), (8, 8), (10, 5), (10, 6), (10, 8), (10, 10), (12, 10), (12, 12)][f - 0x20]?

/-- R335. -/
def Tex.ok (t : Tex) (latent : Bool) : Bool :=
  t.kind = (if latent then 2 else 1) &&
  (if latent then t.fmt = 0 else (fmtBytes t.fmt).isSome || (fmtBlock t.fmt).isSome) &&
  t.levels ≤ 1 + Nat.log2 (max t.w t.h) && t.base % 128 = 0 && t.wtab % 256 = 0 && ptrSpace t.base = 0 && ptrSpace t.wtab = 0

def Tex.lw (t : Tex) (l : Nat) : Nat := max 1 (t.w / 2 ^ l)
def Tex.lh (t : Tex) (l : Nat) : Nat := max 1 (t.h / 2 ^ l)

def upTo (n m : Nat) : Nat := (n + m - 1) / m * m
def cdiv (n m : Nat) : Nat := (n + m - 1) / m

/-- Bytes of a row of a latent grid of cells of `s` texels. -/
def Tex.gridRow (t : Tex) (l s : Nat) : Nat := upTo (6 * cdiv (t.lw l) s) 16

/-- Bytes of a row of texels or blocks. A BC1 or BC4 block too has 16 bytes here (R336). -/
def Tex.row (t : Tex) (l : Nat) : Nat :=
  match fmtBytes t.fmt, fmtBlock t.fmt with
  | some b, _ => upTo (t.lw l * b) 16
  | _, some (bw, _) => 16 * cdiv (t.lw l) bw
  | _, _ => 0

/-- Where the coarse grid of a level starts in it. -/
def Tex.coarse (t : Tex) (l : Nat) : Nat := upTo (t.gridRow l 4 * cdiv (t.lh l) 4) 128

/-- Bytes of a level. -/
def Tex.size (t : Tex) (l : Nat) : Nat :=
  if t.kind = 2 then t.coarse l + t.gridRow l 16 * cdiv (t.lh l) 16
  else
    match fmtBlock t.fmt with
    | some (_, bh) => t.row l * cdiv (t.lh l) bh
    | none => t.row l * t.lh l

/-- The address of a level of a layer. -/
def Tex.levelAt (t : Tex) (l n : Nat) : Nat :=
  t.base + n * t.lstride + (List.range l).foldl (fun s i => s + upTo (t.size i) 128) 0

/-! ## Texel values (R309) -/

/-- A channel: its exact value, and the word that `tld` returns for it (R311). -/
structure Chan where
  v : Term
  w : Word

/-- A value that is rounded once. -/
def chanOf (v : Term) : Chan := { v := v, w := BitVec.ofNat 32 (sumTo fF32 rne false [v]).1 }

def unorm (n b : Nat) : Chan := chanOf (.num false ⟨n, 2 ^ b - 1⟩)

def snorm8 (n : Nat) : Chan :=
  let i := sNat 8 n
  chanOf (.num (decide (i < 0)) (if i < -127 then ⟨-1, 1⟩ else ⟨i, 127⟩))

def chanZero : Chan := { v := .num false Q.zero, w := 0#32 }
def chanOne : Chan := { v := .num false Q.one, w := 0x3F800000#32 }

/-- Channels of an uncompressed texel. -/
def texelChans (f : Nat) (bs : List Byte) : List Chan :=
  let b (i : Nat) : Nat := fieldN bs i 1
  let h (i : Nat) : Chan := chanOf (fF16.val (fieldN bs (2 * i) 2)).term
  let s (i : Nat) : Chan := { v := (f32V (fieldN bs (4 * i) 4)).term, w := BitVec.ofNat 32 (fieldN bs (4 * i) 4) }
  match f with
  | 0x01 => [unorm (b 0) 8]
  | 0x02 => [unorm (b 0) 8, unorm (b 1) 8]
  | 0x03 => (List.range 4).map fun i => unorm (b i) 8
  | 0x04 => (List.range 4).map fun i => snorm8 (b i)
  | 0x05 => [h 0]
  | 0x06 => (List.range 4).map h
  | 0x07 => [s 0]
  | 0x08 => (List.range 4).map s
  | _ => []

/-- Channels that a block format has. DESIGN CHOICE, log 6. -/
def blockChans (f : Nat) : Nat := if f = 0x13 then 1 else if f = 0x14 then 2 else 4

/-- The eight channels of a standard texel: a lacking one reads 0, alpha 1, and 4 to 7 read 0. -/
def eight (cs : List Chan) : List Chan :=
  (List.range 8).map fun i => if i < 4 then cs.getD i (if i = 3 then chanOne else chanZero) else chanZero

/-! ## The latent decoder (R337, R338) -/

/-- A product of terms; 0 times infinity is no number. -/
def tMul (a b : Term) : Term :=
  match a, b with
  | .bad, _ => .bad
  | _, .bad => .bad
  | .inf n, .inf k => .inf (n != k)
  | .inf n, .num k x => if x.n = 0 then .bad else .inf (n != k)
  | .num n x, .inf k => if x.n = 0 then .bad else .inf (n != k)
  | .num n x, .num k y => .num (n != k) (Q.mul x y).norm

/-- The exact sum of terms. -/
def tSum (ts : List Term) : Term :=
  if ts.any Term.isBad || (ts.any (Term.isInf true) && ts.any (Term.isInf false)) then .bad
  else if ts.any (Term.isInf true) then .inf true
  else if ts.any (Term.isInf false) then .inf false
  else
    let q := (Q.sum (ts.map Term.q)).norm
    .num (if q.n = 0 then zeroSign rne ts else q.isNeg) q

/-- One layer: rows of `n` weights at `w`, biases at `b`, the scale at `s`. -/
def latentLayer (tab : List Byte) (w n out b s : Nat) (last : Bool) (xs : List Term) : List Nat :=
  let sc := (fBF16.val (fieldN tab s 2)).term
  (List.range out).map fun o =>
    let ws := ((tab.drop (w + n * o)).take n).map fun v => (fE4M3.val v.toNat).term
    let sum := tSum ((ws.zip xs).map fun p => tMul p.1 p.2)
    let y := (sumTo fBF16 rne false [tMul sc sum, (fBF16.val (fieldN tab (b + 2 * o) 2)).term]).1
    if last then y else (fpMinMax fBF16 true y 0).1

/-- The `c` channels decoded from the two entries, as BF16. DEDUCED, log 28. -/
def latentDecode (tab : List Byte) (c fine coarse : Nat) : List Nat :=
  let inp (v : Nat) : List Term := (List.range 12).map fun i =>
    let q : Int := 2 * (v / 16 ^ i % 16 : Nat) - 15
    .num (decide (q < 0)) ⟨q, 15⟩
  let term (y : Nat) : Term := (fBF16.val y).term
  let h1 := latentLayer tab 0 24 32 2048 2192 false (inp fine ++ inp coarse)
  let h2 := latentLayer tab 768 32 32 2112 2194 false (h1.map term)
  latentLayer tab 1792 32 c 2176 2196 true (h2.map term)

/-! ## Texels of a level -/

/-- The eight channels of texel (i, j). -/
def Tex.texel (t : Tex) (e : Env) (g : WG) (k : Asker) (tab : List Byte) (l n i j : Nat) : Rdr (List Chan) :=
  let at_ := t.levelAt l n
  if t.kind = 2 then
    let entry (a s row : Nat) : Rdr (List Byte) := rdBytes e g k (a + j / s * row + 6 * (i / s)) 6
    rdThen (entry at_ 4 (t.gridRow l 4)) fun fine =>
    rdThen (entry (at_ + t.coarse l) 16 (t.gridRow l 16)) fun coarse =>
      let ys := latentDecode tab t.c (leNat fine) (leNat coarse)
      rdPure ((List.range 8).map fun c =>
        if c < t.c then { v := (fBF16.val (ys.getD c 0)).term, w := BitVec.ofNat 32 (ys.getD c 0 * 2 ^ 16) } else chanZero)
  else
    match fmtBytes t.fmt, fmtBlock t.fmt with
    | some b, _ =>
      rdThen (rdBytes e g k (at_ + j * t.row l + i * b) b) fun bs => rdPure (eight (texelChans t.fmt bs))
    | _, some (bw, bh) =>
      rdThen (rdBytes e g k (at_ + j / bh * t.row l + 16 * (i / bw)) 16) fun bs =>
        rdPure (eight ((List.range (blockChans t.fmt)).map fun c =>
          unorm (Config.blockTexel t.fmt (BitVec.ofNat 128 (leNat bs)) (i % bw) (j % bh) c).toNat 8))
    | _, _ => rdPure []

/-! ## Filters (R307, R308) -/

/-- A multiple of 2^-8, ties to even. -/
def to256 (x : Q) : Int := (roundInt rne (x.mul (Q.ofInt 256))).1

/-- 256 log₂ √r for a positive r, rounded to an integer: never a tie. -/
def logHalf256 (r : Q) : Int :=
  let k := floorLog2 (r.n.natAbs ^ 128) (r.d ^ 128)
  if floorLog2 (r.n.natAbs ^ 256) (r.d ^ 256) ≥ 2 * k + 1 then k + 1 else k

/-- λ of a gradient pair, in 256ths; `top` stands for +∞ and `-1` for −∞. A NaN decides before an infinity: R307 states both cases and not
which comes first. DESIGN CHOICE, log 28. -/
def gradLevel (w h top : Int) (c : List Word) : Int :=
  let v (i : Nat) : FV := f32V (c.getD i 0#32).toNat
  let all := [v 0, v 1, v 2, v 3]
  if all.any FV.isNaN then 0
  else if all.any FV.isInf then top
  else
    let sq (x y : FV) : Q :=
      let a := x.q.mul (Q.ofInt w)
      let b := y.q.mul (Q.ofInt h)
      (a.mul a).add (b.mul b)
    let r := ((sq (v 0) (v 1)).max (sq (v 2) (v 3))).norm
    if r.isZero then -1 else logHalf256 r

/-- λ_q in 256ths (R307). -/
def Tex.level (t : Tex) (lodm : Nat) (c : List Word) : Nat :=
  let top : Int := 256 * (t.levels - 1 : Nat)
  let l : Int :=
    match lodm with
    | 0 =>
      match f32V (c.headD 0#32).toNat with
      | .nan _ => 0
      | .inf n => if n then -1 else top
      | x => to256 x.q
    | 1 => gradLevel t.w t.h top c
    | _ => 0
  (clampInt l 0 top).toNat

/-- A coordinate clamped; NaN is 0. -/
def coordQ (w : Word) : Q :=
  let lim : Q := ⟨2 ^ 20, 1⟩
  match f32V w.toNat with
  | .nan _ => Q.zero
  | .inf n => if n then lim.neg else lim
  | x => (x.q.max lim.neg).min lim

/-- ⌊x⌋ and the weight of the next texel in 256ths, carried (R308). -/
def split256 (x : Q) : Int × Nat :=
  let i := x.floor
  let a := to256 (x.sub (Q.ofInt i))
  if a ≥ 256 then (i + 1, 0) else (i, a.toNat)

/-- Taps of one level: weight (over `s`), position. -/
def Tex.taps (t : Tex) (point : Bool) (l s : Nat) (u v : Word) : List (Q × Nat × Int × Int) :=
  let x := (coordQ u).mul (Q.ofInt (t.lw l))
  let y := (coordQ v).mul (Q.ofInt (t.lh l))
  if point then [(⟨s, 256⟩, l, x.floor, y.floor)]
  else
    let a := split256 (x.sub ⟨1, 2⟩)
    let b := split256 (y.sub ⟨1, 2⟩)
    let w (p q : Nat) : Q := ⟨s * p * q, 256 ^ 3⟩
    [(w (256 - a.2) (256 - b.2), l, a.1, b.1), (w a.2 (256 - b.2), l, a.1 + 1, b.1),
     (w (256 - a.2) b.2, l, a.1, b.1 + 1), (w a.2 b.2, l, a.1 + 1, b.1 + 1)]

/-- The taps of a sample with a weight that is not zero. -/
def Tex.sampleTaps (t : Tex) (mode lodm : Nat) (u v : Word) (c : List Word) : List (Q × Nat × Int × Int) :=
  let lq := t.level lodm c
  let l := if mode % 3 = 2 then
      let l0 := lq / 256
      t.taps false l0 (256 - lq % 256) u v ++ t.taps false (min (l0 + 1) (t.levels - 1)) (lq % 256) u v
    else t.taps (mode % 3 = 0) ((lq + 128) / 256) 256 u v
  l.filter fun p => !p.1.isZero

/-- A tap coordinate under an address mode; none in the border. -/
def wrapCoord (mode : Nat) (i : Int) (n : Nat) : Option Nat :=
  match mode with
  | 0 => some (i % n).toNat
  | 1 => some (clampInt i 0 (n - 1 : Nat)).toNat
  | 2 => let m := (i % (2 * n : Nat)).toNat; some (if m < n then m else 2 * n - 1 - m)
  | _ => if 0 ≤ i ∧ i < n then some i.toNat else none

/-- Channels of a tap. -/
def Tex.tap (t : Tex) (e : Env) (g : WG) (k : Asker) (tab : List Byte) (n : Nat) (p : Q × Nat × Int × Int) : Rdr (Q × List Chan) :=
  let l := p.2.1
  match wrapCoord t.au p.2.2.1 (t.lw l), wrapCoord t.av p.2.2.2 (t.lh l) with
  | some i, some j => rdThen (t.texel e g k tab l n i j) fun cs => rdPure (p.1, cs)
  | _, _ => rdPure (p.1, List.replicate 8 chanZero)

def scaleT (w : Q) (t : Term) : Term :=
  match t with
  | .num n x => .num n (w.mul x).norm
  | t => t

/-- The exact weighted sum of a channel, rounded once. -/
def filterChan (ts : List (Q × List Chan)) (c : Nat) : Word :=
  BitVec.ofNat 32 (sumTo fF32 rne false (ts.map fun p => scaleT p.1 (p.2.getD c chanZero).v)).1

/-! ## Results (R310, R311) -/

/-- The result words and the status. -/
abbrev TexOut := List Word × Bool

def texBad (n : Nat) : TexOut := (List.replicate n 0x7FC00000#32, false)

/-- The weight table of a latent texture. -/
def Tex.table (t : Tex) (e : Env) (g : WG) (k : Asker) : Rdr (List Byte) :=
  if t.kind = 2 then rdBytes e g k t.wtab 2304 else rdPure []

/-- `smp`: `b` holds B to B + 2, `c` the words of C. DEDUCED, log 28. -/
def sampleRun (e : Env) (g : WG) (k : Asker) (desc : Nat) (x : X) (b c : List Word) : Rdr TexOut :=
  let n := x.mf 25 24 + 1
  rdThen (rdBytes e g k desc 64) fun ds =>
    let t := texOf ds
    if !t.ok (decide (x.mf 31 29 ≥ 3)) then rdPure (texBad n)
    else
      let layer := min (b.getD 2 0#32).toNat (t.layers - 1)
      rdThen (t.table e g k) fun tab =>
      rdThen (rdEach (t.tap e g k tab layer) (t.sampleTaps (x.mf 31 29) (x.mf 28 27) (b.getD 0 0#32) (b.getD 1 0#32) c)) fun ts =>
        rdPure ((List.range n).map fun i => filterChan ts (i + if x.mb 26 then 4 else 0), true)

/-- `tld`: `b` holds i, j, level and layer. -/
def texelRun (e : Env) (g : WG) (k : Asker) (desc : Nat) (x : X) (b : List Word) : Rdr TexOut :=
  let n := x.mf 25 24 + 1
  let v (i : Nat) : Int := (b.getD i 0#32).toInt
  rdThen (rdBytes e g k desc 64) fun ds =>
    let t := texOf ds
    if !t.ok (x.mb 23) then rdPure (texBad n)
    else
      let inside (i : Int) (m : Nat) : Bool := decide (0 ≤ i) && decide (i < m)
      let l := (v 2).toNat
      if !inside (v 2) t.levels || !inside (v 0) (t.lw l) || !inside (v 1) (t.lh l) || !inside (v 3) t.layers then
        rdPure (List.replicate n 0#32, false)
      else
        rdThen (t.table e g k) fun tab =>
        rdThen (t.texel e g k tab l (v 3).toNat (v 0).toNat (v 1).toNat) fun cs =>
          rdPure ((List.range n).map fun i => (cs.getD (i + if x.mb 26 then 4 else 0) chanZero).w, true)

/-! ## Issue -/

def featSampler : Word := 64#32
def featLatent : Word := 128#32

/-- A descriptor or root pointer: global, private or launch-constant, as an access of 64 bytes (R306). -/
def unitPtr (g : WG) (f : Fib) (l : Launch) (i q : Nat) : Except (Nat × Nat) Tgt :=
  resolve g { f with hnd := true } l i q 64 [0, 3, 4] 1 true false

/-- DEDUCED, log 28. -/
def insSmp : Ins where
  a := fun _ => opd 2
  b := fun _ => run 3
  c := fun x => if x.mf 28 27 = 0 then opd 1 else if x.mf 28 27 = 1 then opd 4 else {}
  d := fun x => run (x.mf 25 24 + 1)
  wp := fun x => [x.dx.toNat]
  feat := fun _ x => if x.mf 31 29 ≥ 3 then featSampler ||| featLatent else featSampler
  ok6 := fun _ x => x.mf 31 29 ≤ 5 && x.mf 28 27 ≤ 2

/-- The operation goes to the sampler: D and DX wait for its result. -/
def texSend (e : Env) (k : OpKind) (cx : Cx) (g : WG) (q va : Nat) (st : List Word) (d : Dev) : Dev :=
  let x := cx.x
  let n := x.mf 25 24 + 1
  let (id, d) := d.takeId
  let (lat, d) := d.choose 64
  let o : Op :=
    { id := id, kind := k, wg := cx.wg, fib := cx.fi, ord := g.issue, grp := cx.grp, dst := x.d.toNat, dn := n,
      dxp := some x.dx.toNat, core := g.core, addr := q, size := va, m := x.m, st := st, due := e.now + 1 + lat, sentAt := e.now }
  let d := { d with ops := d.ops ++ [o] }.modWg cx.wg fun g => { g with issue := g.issue + 1 }
  (d.modFib cx.wg cx.fi fun f => (f.empty x.d.toNat n).pendPred x.dx.toNat).advance cx

def bodySmp : Body := fun e cx g f l d =>
  let x := cx.x
  let q := f.nat x.a.toNat 2
  match unitPtr g f l cx.fi q with
  | .error (c, v) => d.trap e cx c v
  | .ok (.glob va) =>
    let nc := if x.mf 28 27 = 0 then 1 else if x.mf 28 27 = 1 then 4 else 0
    texSend e .smp cx g q va (f.words x.b.toNat 3 ++ f.words x.c.toNat nc) d
  | .ok _ => d.trap e cx cSpaceInvalid q

def insTld : Ins where
  a := fun _ => opd 2
  b := fun _ => opd 4
  d := fun x => run (x.mf 25 24 + 1)
  wp := fun x => [x.dx.toNat]
  feat := fun _ x => if x.mb 23 then featSampler ||| featLatent else featSampler

def bodyTld : Body := fun e cx g f l d =>
  let x := cx.x
  let q := f.nat x.a.toNat 2
  match unitPtr g f l cx.fi q with
  | .error (c, v) => d.trap e cx c v
  | .ok (.glob va) => texSend e .tld cx g q va (f.words x.b.toNat 4) d
  | .ok _ => d.trap e cx cSpaceInvalid q

/-! ## Landing -/

/-- The table at an intermediate address is bound to the context of the sampling launch: the least recently used of 64 gives way (R339).
DEDUCED, log 28. -/
def Dev.bindTable (d : Dev) (core ctx ia : Nat) : Dev :=
  d.modCore core fun k => { k with wtabs := ((ia, ctx) :: k.wtabs.filter fun p => p ≠ (ia, ctx)).take 64 }

/-- An operation of a unit is lost: its words stay empty (R420). -/
def Dev.loseOp (d : Dev) (o : Op) (cause va : Nat) : Dev := (d.dropOp o.id).async o.wg o.fib cause (vaWide va)

/-- A sample or texel lands, once the fibre's earlier writes are performed (R312). DEDUCED, log 28. -/
def Dev.texLand (e : Env) (d : Dev) (id : Nat) (k : OpKind) : Dev :=
  match d.op? id with
  | none => d
  | some o =>
    match d.wg? o.wg with
    | none => d.dropOp id
    | some g =>
      if o.kind ≠ k || o.frozen || d.unitWaits o then d
      else
        let x : X := { twin 0#2 false with m := o.m }
        let ask : Asker := { wg := o.wg, core := o.core, unit := 2, fsvc := g.ctx.fsvc }
        let run_ := if k = .smp then sampleRun e g ask o.size x (o.st.take 3) (o.st.drop 3) else texelRun e g ask o.size x o.st
        match run_ d with
        | (.ok v bad, d) =>
          let latent := if k = .smp then decide (x.mf 31 29 ≥ 3) else x.mb 23
          let d := if latent && v.2 then
              (match rdBytes e g ask (o.size + 8) 8 d with
               | (.ok bs _, d) =>
                 match rangeLookup g.rng (va57 (leNat bs)) with
                 | some ia => d.bindTable o.core g.ctx.ctxid ia
                 | none => d
               | _ => d)
            else d
          d.land e { o with res := v.1, mark := if v.2 then 1 else 0, poisoned := bad }
        | (.wait p, d) => d.modOp id fun o => { o with heldOn := some p }
        | (.lost c v, d) => d.loseOp o c v

/-! ## Meanings -/

def execSmp (x : X) : State → Host.Outcome State Fault Refusal := issue insSmp bodySmp (.smp x) x

def execTld (x : X) : State → Host.Outcome State Fault Refusal := issue insTld bodyTld (.tld x) x

/-- SAMPLE_LANDS: operand a is the operation. -/
def execSampleLands : State → Host.Outcome State Fault Refusal := event fun e d => d.texLand e d.arg.a .smp

/-- TEXEL_LANDS: operand a is the operation. -/
def execTexelLands : State → Host.Outcome State Fault Refusal := event fun e d => d.texLand e d.arg.a .tld

end Sys2Proof.Machine
end

