-- ==== Sys2Proof/Machine/Trace.lean ====
section
/-! DEFINITION. Ray traversal (spec/11, R313 to R316; spec/12, R340 to R343; spec/17, R399). -/
namespace Sys2Proof.Machine

open Sys2Proof

/-! ## References (R399) -/

/-- A reference to a node: its address, the children still to visit, and whether it lies below an instance. -/
def mkRef (va mask : Nat) (below : Bool) : Nat :=
  va57 va / 64 % 2 ^ 51 + mask % 256 * 2 ^ 51 + if below then 2 ^ 59 else 0

/-- DEDUCED, log 29. -/
def refVa (r : Nat) : Nat := r % 2 ^ 51 * 64
def refMask (r : Nat) : Nat := r / 2 ^ 51 % 256
def refBelow (r : Nat) : Bool := r.testBit 59

/-- The reference at the head with the children of `m` still to visit; it is dropped when none is left. -/
def Trav.leave (t : Trav) (m : Nat) : Trav :=
  match t.refs with
  | [] => t
  | r :: rest => { t with par := 0, refs := if m = 0 then rest else mkRef (refVa r) m (refBelow r) :: rest }

/-! ## Vectors -/

structure V3 where
  x : FV
  y : FV
  z : FV

def V3.all (v : V3) : List FV := [v.x, v.y, v.z]

def FV.finite : FV → Bool
  | .fin .. => true
  | _ => false

def v3Of (ws : List Word) (i : Nat) : V3 :=
  let f (j : Nat) : FV := f32V (ws.getD (i + j) 0#32).toNat
  ⟨f 0, f 1, f 2⟩

/-- Exact vectors. -/
abbrev QV := Q × Q × Q

def V3.q (v : V3) : QV := (v.x.q, v.y.q, v.z.q)
def qvSub (a b : QV) : QV := (a.1.sub b.1, a.2.1.sub b.2.1, a.2.2.sub b.2.2)
def qvDot (a b : QV) : Q := ((a.1.mul b.1).add (a.2.1.mul b.2.1)).add (a.2.2.mul b.2.2)
def qvCross (a b : QV) : QV :=
  ((a.2.1.mul b.2.2).sub (a.2.2.mul b.2.1), (a.2.2.mul b.1).sub (a.1.mul b.2.2), (a.1.mul b.2.1).sub (a.2.1.mul b.1))

/-! ## The ray in the space of a node (R314, R342) -/

/-- Origin and direction, as words. -/
structure Ray where
  o : List Word
  d : List Word

/-- A row of the transform applied: rounded once. -/
def rowTimes (m : List Word) (r : Nat) (v : List Word) (point : Bool) : Word :=
  let f (w : Word) : FV := f32V w.toNat
  let p (c : Nat) : Term := (mulTerm (f (m.getD (4 * r + c) 0#32)) (f (v.getD c 0#32))).1
  BitVec.ofNat 32 (sumTo fF32 rne false ([p 0, p 1, p 2] ++ if point then [(f (m.getD (4 * r + 3) 0#32)).term] else [])).1

/-- The ray as the current instance sees it; `node` holds the instance node's bytes. -/
def Trav.rayIn (t : Trav) (node : List Byte) : Ray :=
  let o := t.ray.take 3
  let d := (t.ray.drop 4).take 3
  if t.inst = 0 then ⟨o, d⟩
  else
    let m := wordsOfBytes ((node.drop 16).take 48)
    ⟨(List.range 3).map fun r => rowTimes m r o true, (List.range 3).map fun r => rowTimes m r d false⟩

def Trav.tmin (t : Trav) : FV := f32V (t.ray.getD 3 0#32).toNat
def Trav.tmax (t : Trav) : Word := t.ray.getD 7 0#32
def Trav.mask (t : Trav) : Nat := t.flags.toNat % 256
def Trav.cbf (t : Trav) : Bool := t.flags.getLsbD 8
def Trav.cff (t : Trav) : Bool := t.flags.getLsbD 9
def Trav.opq (t : Trav) : Bool := t.flags.getLsbD 10
def Trav.first (t : Trav) : Bool := t.flags.getLsbD 11

/-- a ≤ b, by value; false for a NaN. -/
def fvLe (a b : FV) : Bool :=
  !a.isNaN && !b.isNaN &&
  match a, b with
  | .inf n, .inf k => n || !k
  | .inf n, _ => n
  | _, .inf k => !k
  | _, _ => a.q.le b.q

/-- a rounded t lies in [t_min, t_cur]. -/
def Trav.within (t : Trav) (w : Word) : Bool :=
  let v := f32V w.toNat
  fvLe t.tmin v && fvLe v (f32V t.tcur.toNat)

/-! ## Boxes (R340) -/

/-- The interval of the line's parameter in one slab; none where the line misses it. An end that is none is unbounded. -/
def slab (o d lo hi : Q) : Option (Option Q × Option Q) :=
  if d.isZero then (if lo.le o && o.le hi then some (none, none) else none)
  else
    let a := ((lo.sub o).div d)
    let b := ((hi.sub o).div d)
    if a.le b then some (some a, some b) else some (some b, some a)

/-- The greatest lower end and the least upper end met so far. -/
def narrowTo (r s : Option Q × Option Q) : Option Q × Option Q :=
  let pick (f : Q → Q → Q) (a b : Option Q) : Option Q :=
    match a, b with
    | some x, some y => some (f x y)
    | none, y => y
    | x, none => x
  (pick Q.max r.1 s.1, pick Q.min r.2 s.2)

/-- An end of [t_min, t_cur]: none where it is infinite on its own side. -/
def endOf (v : FV) : Option Q := match v with
  | .fin .. => some v.q
  | _ => none

/-- The ray meets child `i` of a box node. -/
def boxMeets (t : Trav) (ray : Ray) (node : List Byte) (i : Nat) : Bool :=
  let tc := f32V t.tcur.toNat
  if t.tmin.isNaN || tc.isNaN || t.tmin = .inf false || tc = .inf true then false
  else
    let axis (a : Nat) : Option (Option Q × Option Q) :=
      let e := sNat 8 (fieldN node (2 + a) 1)
      let org := (f32V (fieldN node (16 + 4 * a) 4)).q
      let at_ (q : Nat) : Q := org.add (Q.scale (q : Nat) e)
      slab (f32V (ray.o.getD a 0#32).toNat).q (f32V (ray.d.getD a 0#32).toNat).q
        (at_ (fieldN node (32 + 6 * i + a) 1)) (at_ (fieldN node (35 + 6 * i + a) 1 + 1))
    match axis 0, axis 1, axis 2 with
    | some x, some y, some z =>
      let r := narrowTo (narrowTo x y) (narrowTo z (endOf t.tmin, endOf tc))
      match r with
      | (some lo, some hi) => lo.le hi
      | _ => true
    | _, _, _ => false

/-- Every number that a box test uses is finite. -/
def boxFinite (ray : Ray) (node : List Byte) : Bool :=
  ((ray.o ++ ray.d).all fun w => (f32V w.toNat).finite) &&
  (List.range 3).all fun a => (f32V (fieldN node (16 + 4 * a) 4)).finite

/-! ## Triangles (R314, R341) -/

/-- What a triangle test finds: t, u and v as rounded words, and the facing. -/
structure TriHit where
  t : Word
  u : Word
  v : Word
  front : Bool

def fpWord (x : Q) : Word := BitVec.ofNat 32 (roundQ fF32 rne false x.isNeg x.norm).1

/-- The line of a finite ray against triangle (a, b, c). -/
def triTest (ray : Ray) (a b c : V3) : Option TriHit :=
  let o := (v3Of ray.o 0).q
  let d := (v3Of ray.d 0).q
  let e1 := qvSub b.q a.q
  let e2 := qvSub c.q a.q
  let p := qvCross d e2
  let det := qvDot e1 p
  if det.isZero then none
  else
    let s := qvSub o a.q
    let u := (qvDot s p).div det
    let q := qvCross s e1
    let v := (qvDot d q).div det
    if u.isNeg || v.isNeg || Q.one.lt (u.add v) then none
    else some { t := fpWord ((qvDot e2 q).div det), u := fpWord u, v := fpWord v, front := Q.zero.lt det }

def triVerts (node : List Byte) (k : Nat) : V3 × V3 × V3 :=
  let ws := wordsOfBytes ((node.drop 16).take 48)
  let v (i : Nat) : V3 := v3Of ws (3 * i)
  if k = 0 then (v 0, v 1, v 2) else (v 2, v 1, v 3)

/-- The outcome of a test on numbers that are not finite is a free value: whether the line meets the triangle, where, and
its facing. DESIGN CHOICE, log 10. -/
def Dev.freeHit (d : Dev) : Option TriHit × Dev :=
  let (h, d) := d.freeWord
  let (t, d) := d.freeWord
  let (u, d) := d.freeWord
  let (v, d) := d.freeWord
  (if h.getLsbD 0 then some { t := t, u := u, v := v, front := h.getLsbD 1 } else none, d)

/-! ## Records (R343) -/

/-- The record of a hit: block address, instance node bytes when below one. DEDUCED, log 29. -/
def hitRecord (status : Nat) (h : TriHit) (prim ord udata va : Nat) : List Word :=
  let w (n : Nat) : Word := BitVec.ofNat 32 n
  [w (status + if h.front then 16 else 0), h.t, h.u, h.v, w prim, w ord, w udata, w (va / 64)]

/-- Status and t, the rest zero. -/
def shortRecord (status : Nat) (t : Word) : List Word := [BitVec.ofNat 32 status, t] ++ List.replicate 6 0#32

def keysLt : List Nat → List Nat → Bool
  | [], _ => false
  | _, [] => false
  | a :: r, b :: s => a < b || (a = b && keysLt r s)

/-- The status of a record. -/
def withStatus (s : Nat) (r : List Word) : List Word :=
  match r with
  | w :: rest => (BitVec.ofNat 32 (w.toNat / 16 * 16 + s)) :: rest
  | [] => []

/-- A hit committed, unless a lower key holds the same t (R314). -/
def Trav.commitHit (t : Trav) (r : List Word) (key : List Nat) : Trav :=
  let nt := f32V (r.getD 1 0#32).toNat
  let same := !t.commit.isEmpty && fvLe (f32V t.tcur.toNat) nt && fvLe nt (f32V t.tcur.toNat)
  if same && keysLt t.commitKey key then t
  else { t with commit := withStatus 1 r, commitKey := key, tcur := r.getD 1 0#32, refs := if t.first then [] else t.refs }

/-! ## The traversal (R314) -/

/-- How one visit ends. -/
inductive Visit where
  | more (t : Trav)
  /-- A candidate is found. -/
  | found (t : Trav)
  | done (record : List Word)
  | wait (t : Trav) (page : Nat)
  | lost (cause va : Nat)
  | poison

/-- The final record. -/
def Trav.final (t : Trav) : List Word := if t.commit.isEmpty then shortRecord 0 t.tmax else t.commit

/-- A structure that is not valid: its t is a free value. DESIGN CHOICE, log 10. -/
def Dev.invalidRecord (d : Dev) : Visit × Dev :=
  let r := d.freeWord
  (.done (shortRecord 3 r.1), r.2)

/-- The children or triangles of a mask, ascending. -/
def maskBits (m : Nat) : List Nat := (List.range 8).filter m.testBit

/-- The pending list holds at most 40 references (R399). -/
def pendingMax : Nat := 40

/-- A box node: one of its children left, in any order, is met or not (R340); references are taken depth first. A structure so deep that the
pending list would overflow is not valid. DESIGN CHOICE, log 29. -/
def visitBox (t : Trav) (ray : Ray) (r : Nat) (node : List Byte) (d : Dev) : Visit × Dev :=
  let n := fieldN node 1 1
  if n = 0 || n > 8 then d.invalidRecord
  else
    let left := maskBits (refMask r % 2 ^ n)
    let (c, d) := d.choose left.length
    match left[c]? with
    | none => (.more { t with par := 0, refs := t.refs.drop 1 }, d)
    | some i =>
      let (meets, d) :=
        if boxFinite ray node then (boxMeets t ray node i, d)
        else
          let w := d.freeWord
          (w.1.getLsbD 0, w.2)
      let t := t.leave (clearBit (refMask r % 2 ^ n) i)
      let child := bitsOf ((refVa r : Int) + 64 * sNat 32 (fieldN node (80 + 4 * i) 4)) 57
      if meets && decide (t.refs.length ≥ pendingMax) then d.invalidRecord
      else (.more (if meets then { t with par := refVa r, refs := mkRef child 255 (refBelow r) :: t.refs } else t), d)

/-- A triangle block: one of its triangles left, in any order (R315). -/
def visitTri (t : Trav) (ray : Ray) (r : Nat) (node inst : List Byte) (d : Dev) : Visit × Dev :=
  let n := fieldN node 1 1
  if n = 0 || n > 2 then d.invalidRecord
  else
    let left := maskBits (refMask r % 2 ^ n)
    let (c, d) := d.choose left.length
    match left[c]? with
    | none => (.more { t with par := 0, refs := t.refs.drop 1 }, d)
    | some k =>
      let t := t.leave (clearBit (refMask r % 2 ^ n) k)
      let vs := triVerts node k
      let fin := ((ray.o ++ ray.d).all fun w => (f32V w.toNat).finite) && (vs.1.all ++ vs.2.1.all ++ vs.2.2.all).all FV.finite
      let (h, d) := if fin then (triTest ray vs.1 vs.2.1 vs.2.2, d) else d.freeHit
      match h with
      | none => (.more t, d)
      | some h =>
        let iflg := if t.inst = 0 then 0 else fieldN inst 2 1
        let h := if iflg.testBit 2 then { h with front := !h.front } else h
        let culled := !iflg.testBit 1 && ((h.front && t.cff) || (!h.front && t.cbf))
        if culled || !t.within h.t then (.more t, d)
        else
          let ord := if t.inst = 0 then 0 else fieldN inst 4 4
          let ud := if t.inst = 0 then 0 else fieldN inst 64 4
          let prim := (fieldN node 4 4 + k) % 2 ^ 32
          let key := [ord, refVa r, k]
          if t.opq || iflg.testBit 0 || (fieldN node 2 1).testBit k then
            (.more (t.commitHit (hitRecord 1 h prim ord ud (refVa r)) key), d)
          else
            (.found { t with cand := hitRecord 2 h prim ord ud (refVa r), candKey := key, stage := 2 }, d)

/-- An instance node: entered when the masks meet. DEDUCED, log 29. -/
def visitInst (t : Trav) (r : Nat) (node : List Byte) (d : Dev) : Visit × Dev :=
  let root := fieldN node 8 8
  if refBelow r then d.invalidRecord
  else if (fieldN node 1 1) &&& t.mask = 0 then (.more { t with par := 0, refs := t.refs.drop 1 }, d)
  else if ptrSpace root ≠ 0 then d.invalidRecord
  else (.more { t with par := 0, inst := refVa r, refs := mkRef root 255 true :: t.refs.drop 1 }, d)

/-- One visit: the node of the reference at the head. DEDUCED, log 29. -/
def visit (e : Env) (g : WG) (k : Asker) (t : Trav) (d : Dev) : Visit × Dev :=
  match t.refs with
  | [] => (.done t.final, d)
  | r :: _ =>
    let t := if refBelow r then t else { t with inst := 0 }
    let k := { k with h0 := vaWide t.par }
    let read : Rdr (List Byte × List Byte) :=
      rdThen (rdBytes e g k (refVa r) 64) fun head =>
      rdThen (if fieldN head 0 1 = 2 then rdPure [] else rdBytes e g k (refVa r + 64) 64) fun rest =>
      rdThen (if t.inst = 0 then rdPure [] else rdBytes e g k t.inst 128) fun inst => rdPure (head ++ rest, inst)
    match read d with
    | (.wait p, d) => (.wait t p, d)
    | (.lost c v, d) => (.lost c v, d)
    | (.ok _ true, d) => (.poison, d)
    | (.ok (node, inst) false, d) =>
      let ray := t.rayIn inst
      match fieldN node 0 1 with
      | 1 => visitBox t ray r node d
      | 2 => visitTri t ray r node inst d
      | 3 => visitInst t r node d
      | _ => d.invalidRecord

/-- At most `n` visits. -/
def visits (e : Env) (g : WG) (k : Asker) : Nat → Trav → Dev → Visit × Dev
  | 0, t, d => (.more t, d)
  | n + 1, t, d =>
    match visit e g k t d with
    | (.more t, d) => visits e g k n t d
    | r => r

/-! ## trace, trcont (R313, R315) -/

def featTraverse : Word := 32#32

/-- DEDUCED, log 29. -/
def insTrace : Ins where
  a := fun _ => { n := 8, al := 4 }
  b := fun _ => opd 2
  c := fun _ => opd 1
  d := fun _ => { n := 8, al := 4 }
  feat := fun _ _ => featTraverse

/-- A record that has not landed: its words are waited for. -/
def Dev.traceOpen (d : Dev) (w i : Nat) : Option Op := d.ops.find? fun o => o.wg = w && o.fib = i && o.kind = .trav

/-- The traversal runs toward the words at D. -/
def travSend (e : Env) (cx : Cx) (g : WG) (f : Fib) (q : Nat) (t : Trav) (d : Dev) : Dev :=
  let (id, d) := d.takeId
  let (lat, d) := d.choose 64
  let o : Op :=
    { id := id, kind := .trav, wg := cx.wg, fib := cx.fi, ord := g.issue, grp := cx.instr f, dst := cx.x.d.toNat, dn := 8,
      core := g.core, addr := q, m := cx.x.m, due := e.now + 1 + lat, sentAt := e.now }
  let d := { d with ops := d.ops ++ [o] }.modWg cx.wg fun g => { g with issue := g.issue + 1 }
  (d.modFib cx.wg cx.fi fun f => { f.empty cx.x.d.toNat 8 with trav := some t }).advance cx

def bodyTrace : Body := fun e cx g f l d =>
  let x := cx.x
  let q := f.nat x.b.toNat 2
  let fl := f.word x.c.toNat
  match d.traceOpen cx.wg cx.fi with
  | some o => d.block cx (.words (upFrom o.dst 8) [])
  | none =>
    if bitsN fl.toNat 31 12 ≠ 0 then d.illegal e cx
    else
      match unitPtr g f l cx.fi q with
      | .error (c, v) => d.trap e cx c v
      | .ok (.glob va) =>
        let ray := f.words x.a.toNat 8
        travSend e cx g f q
          { ptr := q, ord := g.issue, ray := ray, flags := fl, root := va, inst := 0, refs := [mkRef va 255 false], commit := [], commitKey := [], cand := [],
            candKey := [], tcur := ray.getD 7 0#32, stage := 0 } d
      | .ok _ => d.trap e cx cSpaceInvalid q

def insTrcont : Ins where
  b := fun _ => opd 1
  d := fun _ => { n := 8, al := 4 }
  feat := fun _ _ => featTraverse

def bodyTrcont : Body := fun e cx g f _ d =>
  let b := srcB e.now g f cx.x 1
  match f.trav with
  | none => d.illegal e cx
  | some t =>
    if t.stage ≠ 1 || (d.traceOpen cx.wg cx.fi).isSome || b > 2 then d.illegal e cx
    else
      let t0 : Trav := { t with stage := 0, cand := [], candKey := [] }
      let t' : Trav :=
        if b = 0 then t0
        else if b = 1 then t0.commitHit t.cand t.candKey
        else { t0 with commit := withStatus 1 t.cand, commitKey := t.candKey, tcur := t.cand.getD 1 0#32, refs := [] }
      travSend e cx g f t.ptr t' d

/-! ## Landing -/

/-- TRAVERSAL_RECORD_LANDS: the traversal goes on, and its next record, candidate or final, lands. DEDUCED, log 29. -/
def Dev.traceLand (e : Env) (d : Dev) (id : Nat) : Dev :=
  match d.op? id with
  | none => d
  | some o =>
    match d.wg? o.wg with
    | none => d.dropOp id
    | some g =>
      match (g.fib? o.fib).bind (·.trav) with
      | none => d.dropOp id
      | some t =>
        if o.kind ≠ .trav || o.frozen || d.unitWaits o then d
        else if t.stage = 2 then (d.modFib o.wg o.fib fun f => { f with trav := some { t with stage := 1 } }).land e { o with res := t.cand }
        else
          let k : Asker := { wg := o.wg, core := o.core, unit := 3, fsvc := g.ctx.fsvc }
          let keep (d : Dev) (t : Option Trav) : Dev := d.modFib o.wg o.fib fun f => { f with trav := t }
          match visits e g k 256 t d with
          | (.more t, d) => keep d (some t)
          | (.found t, d) =>
            let (n, d) := d.choose 16
            (keep d (some t)).modOp id fun o => { o with due := e.now + 1 + n }
          | (.done r, d) => (keep d none).land e { o with res := r }
          | (.wait t p, d) => (keep d (some t)).modOp id fun o => { o with heldOn := some p }
          | (.lost c v, d) => (keep d none).loseOp o c v
          | (.poison, d) => (keep d none).land e { o with poisoned := true }

/-! ## Meanings -/

def execTrace (x : X) : State → Host.Outcome State Fault Refusal := issue insTrace bodyTrace (.trace x) x

def execTrcont (x : X) : State → Host.Outcome State Fault Refusal := issue insTrcont bodyTrcont (.trcont x) x

def execTraversalRecordLands : State → Host.Outcome State Fault Refusal := event fun e d => d.traceLand e d.arg.a

end Sys2Proof.Machine
end

