-- ==== Sys2Proof/Machine/Fetch.lean ====
section
/-! DEFINITION. Fetching and decoding an instruction, of a rope and of a firmware hart (spec/06, R154, R156; spec/01, R31;
spec/19, R452, R453). -/
namespace Sys2Proof.Machine

open Sys2Proof

/-! ## The words of an instruction (R156) -/

/-- What a fetch finds. -/
inductive FetchWord where
  | ok (w : Word)
  /-- Outside the text: the word's virtual address. -/
  | outside (va : Nat)
  | wait (page : Nat)
  /-- An ASYNC cause with its value. -/
  | lost (cause va : Nat)
  deriving DecidableEq, Repr

/-- Where the text of a fibre begins: the kernel's, or the handler's (R379). -/
def textBase (g : WG) (f : Fib) (l : Launch) : Nat := if f.hnd then g.ctx.tbase else l.r.text

/-- The fetch path does not observe stores: a word whose value has changed since the work-group first fetched it is its old or its new one,
until the next placement (R156). Which of them, and that a word not fetched yet has its new value: DESIGN CHOICE, log 42. -/
def Dev.textWord (d : Dev) (g : WG) (va w : Nat) : Word × Dev :=
  match Table.get 0 g.fetched va with
  | 0 => (BitVec.ofNat 32 w, d.modWg g.id fun g => { g with fetched := Table.set 0 g.fetched va (w + 1) })
  | old + 1 =>
    if old = w then (BitVec.ofNat 32 w, d)
    else
      let (n, d) := d.choose 2
      (BitVec.ofNat 32 (if n = 0 then w else old), d)

/-- The word at a text offset. DEDUCED, log 42. -/
def Dev.fetchWord (e : Env) (d : Dev) (g : WG) (f : Fib) (l : Launch) (off : Nat) : FetchWord × Dev :=
  let va := va57 (textBase g f l + off)
  if off + 4 > textSize g f l then (.outside (vaWide va), d)
  else
    match rangeLookup g.rng va with
    | none => (.lost cUnmapped (vaWide va), d)
    | some ia =>
      match d.reach e ia .fetch with
      | (.at_ k, d) =>
        if d.poisoned k 4 then (.lost cUncorrectable (vaWide va), d)
        else
          let r := d.textWord g va (d.nat e k 4)
          (.ok r.1, r.2)
      | (.bad, d) => (.lost cUncorrectable (vaWide va), d)
      | (.filling p, d) => (.wait p, d)
      | (.pend p, d) => (.wait p, d)
      | (.fault r lg, d) =>
        if g.ctx.fsvc then (.lost cPageFatal (vaWide va), d)
        else (.wait (ia / 2 ^ 16), d.openEpisode (d.faultBy g.id g.core 3 6 va ia) r lg)
      | (.fatal c, d) => (.lost c (vaWide va), d)

/-- The words from a text offset, as many as `n` says. -/
def Dev.fetchWords (e : Env) (g : WG) (f : Fib) (l : Launch) : Nat → Nat → Dev → Except FetchWord (List Word) × Dev
  | 0, _, d => (.ok [], d)
  | n + 1, off, d =>
    match d.fetchWord e g f l off with
    | (.ok w, d) =>
      match Dev.fetchWords e g f l n (off + 4) d with
      | (.ok ws, d) => (.ok (w :: ws), d)
      | r => r
    | (x, d) => (.error x, d)

/-- Every word of the instruction at a text offset: LEN of word 0 gives their number (R143). -/
def Dev.fetchAt (e : Env) (d : Dev) (g : WG) (f : Fib) (l : Launch) (off : Nat) : Except FetchWord (List Word) × Dev :=
  match d.fetchWord e g f l off with
  | (.ok w, d) =>
    match Dev.fetchWords e g f l (lenWords w - 1) (off + 4) d with
    | (.ok ws, d) => (.ok (w :: ws), d)
    | r => r
  | (x, d) => (.error x, d)

/-! ## The rope that stands first -/

/-- The outcome of steps 1 and 2 for the rope that stands first: an instruction it executes, or its end. -/
inductive Fetched where
  | run (i : Instr)
  | stop
  deriving DecidableEq, Repr

/-- Every fibre of the rope, at its PC. -/
def Dev.eachFib (d : Dev) (fs : List (Nat × Nat)) (h : Fib → Fib) : Dev := fs.foldl (fun d p => d.modFib p.1 p.2 h) d

/-- A trap of every work-group of the rope (R154). DEDUCED, log 17. -/
def Dev.ropeTrap (e : Env) (d : Dev) (fs : List (Nat × Nat)) (cause tval : Nat) : Dev :=
  (firsts fs).foldl (fun d p => d.raise e p.1 p.2 cause tval) d

/-- A fibre from a record begins at a PCOFF that is no place of an instruction (R31). -/
def badStart (g : WG) (f : Fib) (l : Launch) : Bool :=
  g.kind = .pool && !f.started && !f.hnd && !targetOk f.pc.toNat (textSize g f l)

/-- Fetch and decode of the rope that stands first. -/
def fetchRope (e : Env) (d : Dev) : Fetched × Dev :=
  match d.ropes with
  | [] => (.stop, d)
  | r :: rest =>
    let off (d : Dev) : Dev := { d with ropes := rest }
    match r.fibs with
    | [] => (.stop, off d)
    | (w, k) :: _ =>
      match d.wg? w with
      | none => (.stop, off d)
      | some g =>
        match g.fib? k, d.launch? g.launch with
        | some f, some l =>
          if badStart g f l then
            let v := d.freeWord
            (.stop, (off v.2).ropeTrap e r.fibs cIllegalOperand v.1.toNat)
          else
            match d.fetchAt e g f l f.pc.toNat with
            | (.error (.outside va), d) => (.stop, (off d).ropeTrap e r.fibs cAccessDenied va)
            | (.error (.wait p), d) =>
              (.stop, (off d).eachFib r.fibs fun f => { f with wait := .page p, cand := false })
            | (.error (.lost c va), d) =>
              (.stop, (firsts r.fibs).foldl (fun d p => if c = cUncorrectable then d.consume p.1 p.2 va else d.async p.1 p.2 c va)
                ((off d).eachFib r.fibs fun f => { f with cand := false, readyAt := e.now + 1 }))
            | (.error (.ok _), d) => (.stop, off d)
            | (.ok ws, d) =>
              match (decode ws).1 with
              | .ok i => (.run i, d)
              | .badField priv =>
                if priv && !f.priv then (.stop, (off d).ropeTrap e r.fibs cAccessDenied 0)
                else (.stop, (off d).ropeTrap e r.fibs cIllegalEncoding (ws.headD 0#32).toNat)
              | _ => (.stop, (off d).ropeTrap e r.fibs cIllegalEncoding (ws.headD 0#32).toNat)
        | _, _ => (.stop, off d)

/-- The fetch as a step of the machine. -/
def fetchOn (s : State) : Fetched × State :=
  let r := fetchRope s.env s.d
  (r.1, s.put r.2)

/-! ## Firmware harts (R452, R453) -/

/-- Registers of a hart: x0 reads zero and discards writes (R452). PRESUMED, log 43. -/
def Hart.get (h : Hart) (r : Nat) : DWord := if r = 0 then 0#64 else h.x.getD r 0#64
/-- PRESUMED, log 43. -/
def Hart.set (h : Hart) (r : Nat) (v : DWord) : Hart := if r = 0 then h else { h with x := putAt v h.x r }

def Dev.hart (d : Dev) (h : Nat) : Hart := d.harts.getD h {}
def Dev.modHart (d : Dev) (h : Nat) (f : Hart → Hart) : Dev := { d with harts := modAt f d.harts h }

/-- Taking an exception on a hart: mcause, mepc and mtval are set (R453); M-mode goes on at mtvec, and mstatus keeps the mode and the
interrupt enable (PRESUMED, log 38). -/
def Hart.take (h : Hart) (cause : Nat) (tval : DWord) : Hart :=
  { h with mcause := BitVec.ofNat 64 cause, mepc := h.pc, mtval := tval, mode := 3, pc := h.mtvec, waiting := none, asking := none,
           mstatus := BitVec.ofNat 64 (bitsN h.mstatus.toNat 3 3 * 2 ^ 7 + h.mode % 4 * 2 ^ 11) }

/-- The word at a hart's pc, in the memory of the firmware complex. -/
def Dev.hartWord (e : Env) (d : Dev) (h : Nat) : Word := BitVec.ofNat 32 (d.nat e (hartKey (d.hart h).pc.toNat) 4)

/-- The custom-0 opcode. -/
def isRinsar (w : Word) : Bool := w.extractLsb' 0 7 = 0x0B#7

/-- What a hart finds at its pc. -/
inductive HartFetch where
  | run (i : Instr)
  /-- A custom-0 word that names no instruction: the exception of R453. -/
  | bad
  /-- A word of the base set, or none. -/
  | base
  deriving DecidableEq, Repr

/-- PRESUMED, log 38. -/
def Dev.hartFetch (e : Env) (d : Dev) (h : Nat) : HartFetch :=
  let w := d.hartWord e h
  if isRinsar w then
    match decodeRinsar w with
    | some i => .run i
    | none => .bad
  else .base

/-- The exception of a malformed Rinsar word: in U-mode that of R453's mode check. -/
def Dev.hartBad (d : Dev) (h : Nat) : Dev :=
  d.modHart h fun t => t.take (if t.mode = 0 then 28 else 29) 0#64

/-! ## A program placed from outside (log 12) -/

/-- The launch of one supervisor fibre whose text begins at virtual address 0. DESIGN CHOICE, log 12. -/
def loadedLaunch (id : Nat) : Launch :=
  { id := id, kind := .grid, r := { tsize := 64, w := 256, a := 64, v := 4096, priv := true }, ctx := { sup := true, fsvc := true },
    total := 1, next := 1, formed := 1 }

/-- Its work-group on core 0, with the text at the start of local GDDR 7. DESIGN CHOICE, log 12. -/
def loadedWg (id launch : Nat) : WG :=
  { newWg (loadedLaunch launch) id 0 0 0 0 [newFib (loadedLaunch launch).r 0#64 true []] with
    place := .resident, rng := [{ vbase := 0, vsize := 2 ^ 30, iabase := 0xFF * 2 ^ 44, on := true }] }

/-- Bytes put where a fetch finds them: the memory is the home's latest, and they are no poison. -/
def State.place (s : State) (k : Nat) (bs : List Byte) : State :=
  { s with
    mem := Memory.writes ((upFrom k bs.length).zip bs) s.mem,
    d := { s.d with poison := s.d.poison.filter fun p => !(decide (k ≤ p) && decide (p < k + bs.length)),
                    dir := s.d.dir.drop (k / 128), wb := [] } }

/-- The words of an Orier instruction placed as the whole text of a launch whose fibre forms the rope that stands first.
DESIGN CHOICE, log 12. -/
def State.withText (s : State) (ws : List Word) : State :=
  let t := s.place (storeKey 0 0) (bytesOfWords ws)
  let n := t.d.nextId
  { t with d := { t.d with
      nextId := n + 2, launches := loadedLaunch n :: t.d.launches.filter fun l => l.id ≠ n, wgs := loadedWg (n + 1) n :: t.d.wgs.filter fun g => g.id ≠ n + 1,
      ropes := { core := 0, quad := 0, fibs := [(n + 1, 0)] } :: t.d.ropes } }

/-- A Rinsar word placed at the pc of hart 0, whose turn comes next. DESIGN CHOICE, log 12. -/
def State.withHartWord (s : State) (w : Word) : State :=
  let t := s.place (hartKey (s.d.hart 0).pc.toNat) (leBytes 4 w.toNat)
  { t with d := { t.d with ropes := [], agenda := .hart 0 :: t.d.agenda }.modHart 0 fun h => { h with running := true } }

end Sys2Proof.Machine
end

