-- ==== Sys2Proof/Machine/Preempt.lean ====
section
/-! DEFINITION. Stopping a work-group, the freeze, the in-flight record, handler entry, pre-emption, the save image and
resumption (spec/16, R376 to R387; spec/17, R388 to R403; spec/19, R447 to R449). -/
namespace Sys2Proof.Machine

open Sys2Proof

/-! ## Events to the host (R448, R449) -/

/-- Bytes written at intermediate addresses, line by line (R364). DEDUCED, log 34. -/
def Dev.iaWrite (e : Env) : Nat → Nat → List Byte → Dev → Bool × Dev
  | 0, _, _, d => (true, d)
  | fuel + 1, ia, bs, d =>
    match bs with
    | [] => (true, d)
    | _ =>
      let m := min bs.length (128 - ia % 128)
      match d.reachRaw e ia .wr with
      | (.at_ k, d') => Dev.iaWrite e fuel (ia + m) (bs.drop m) ((d'.recallNow (k / 128)).write k (bs.take m))
      | _ => (false, d)

/-- Bytes read at intermediate addresses, with the offsets of poisoned ones; none where an access does not succeed.
DEDUCED, log 34. -/
def Dev.iaRead (e : Env) : Nat → Nat → Nat → Dev → Option (List Byte × List Nat) × Dev
  | 0, _, _, d => (some ([], []), d)
  | fuel + 1, ia, n, d =>
    if n = 0 then (some ([], []), d)
    else
      let m := min n (128 - ia % 128)
      match d.reachRaw e ia .rd with
      | (.at_ k, d') =>
        let bs := d'.homeBytes e k m
        let bad := (List.range m).filter fun i => d'.poison.contains (k + i)
        match Dev.iaRead e fuel (ia + m) (n - m) d' with
        | (some (cs, b2), d) => (some (bs ++ cs, bad ++ b2.map (· + m)), d)
        | (none, d) => (none, d)
      | _ => (none, d)

/-- `n` bytes at an intermediate address, poison counted as a failure. -/
def Dev.iaBytes (e : Env) (d : Dev) (ia n : Nat) : Option (List Byte) :=
  match (Dev.iaRead e (linesOf n) ia n d).1 with
  | some (bs, []) => some bs
  | _ => none

/-- A record of the event ring: kind, partition, context, data; `EVPUT` and the partition's MSI-X vector follow.
DEDUCED, log 32. -/
def Dev.postEvent (e : Env) (d : Dev) (kind part ctx : Nat) (data : List Byte) : Dev :=
  let (seq, d) := d.stamp
  let bs := leBytes 8 seq ++ leBytes 1 kind ++ leBytes 1 part ++ leBytes 2 (ctx % 4096) ++ leBytes 4 0 ++
    (data ++ List.replicate (16 - data.length) 0#8).take 16
  let h := d.hub
  let base := bitsN h.evbase.toNat 51 12 * 2 ^ 12
  let slot := h.evput % 2 ^ (bitsN h.evbase.toNat 3 0 + 8)
  let d := (Dev.iaWrite e 2 (base + 32 * slot) bs d).2
  { d.modHub (fun h => { h with evput := (h.evput + 1) % 2 ^ 64 }) with msix := d.msix ++ [part] }

/-- The partition of a work-group's launch. -/
def Dev.partOf (d : Dev) (g : WG) : Nat := ((d.launch? g.launch).map (·.part)).getD 0

/-! ## Completing a halt (R377, R383, R404) -/

/-- The operation stays within vaults or tiles (R234). -/
def Op.isLocal (o : Op) : Bool :=
  match o.kind with
  | .local_ => true
  | .ld | .st | .atom | .red | .atomf | .atomfx => ptrSpace o.addr = 1 || ptrSpace o.addr = 2
  | _ => false

/-- What a halt waits for: special-function results (R215), vault and accumulator accesses, and accesses to uncached pages (R234).
DEDUCED, log 19. -/
def Dev.haltWaits (e : Env) (d : Dev) (w : Nat) : Bool :=
  d.ops.any fun o => o.wg = w && !o.frozen &&
    (o.kind = .sfu || o.isLocal || o.uncached || !o.kind.merges && o.parts.any fun p => !p.st.over && d.deviceBound e o p)

/-- The fibre has stopped: it is the trapping fibre, blocked, before a pending cause, at its last skid, or out of time.
DEDUCED, log 19. -/
def fibStopped (g : WG) (now i : Nat) (f : Fib) : Bool :=
  !f.live || f.stuck || (g.handling && !f.hnd) || (g.trap.map (·.fib)) = some i || f.wait ≠ .none || f.pcause ≠ 0 || f.skid ≥ g.skidMax || g.haltAt + 15 ≤ now

/-- Nothing keeps the halt from being complete. -/
def Dev.haltReady (e : Env) (d : Dev) (g : WG) : Bool :=
  let stop :=
    match g.halt with
    | .none => false
    | .trap => !g.handling && ((List.range g.fibs.length).zip g.fibs).all fun p => fibStopped g e.now p.1 p.2
    | .preempt => g.fibs.all fun f => !f.live || f.critn = 0
    | .debug => ((List.range g.fibs.length).zip g.fibs).all fun p => fibStopped g e.now p.1 p.2
  let moving := (d.core g.core).colls.any fun c => c.closed.isSome && c.members.any fun m => m.wg = g.id
  let acks := g.fibs.any fun f => f.live &&
    match f.wait with
    | .ack _ => true
    | _ => false
  let stepping := g.mops.any fun o => o.started && !o.halted && !o.held
  stop && !g.stopped && !moving && !acks && !stepping && !d.haltWaits e g.id

/-- A wait that is saved as an instruction not yet issued; `sleep` ends with the halt (R42, R193, R198, R200, R291). -/
def Wait.stopped (w : Wait) : Wait :=
  match w with
  | .op i => .op i
  | .linkw ws d l => .linkw ws d l
  | _ => .none

/-- HALT_COMPLETE: every fibre stands at an instruction. -/
def Dev.haltComplete (e : Env) (d : Dev) (w : Nat) : Dev :=
  match d.wg? w with
  | none => d
  | some g =>
    if !d.haltReady e g then d
    else
      (d.withdraw w).modWg w fun g =>
        { g with stopped := true, frozenAt := e.now, blockedAt := none, faultAt := none,
                 fibs := g.fibs.map fun f => { f with wait := f.wait.stopped, cand := false, tagGrp := 0 } }

/-! ## Freezing (R401) -/

/-- The result is all that is outstanding of the operation. -/
def OpKind.pure_ : OpKind → Bool
  | .ld | .ldc | .smp | .tld | .omld | .trav => true
  | _ => false

/-- 20 cc have passed since the last request of the work-group left the core: none leaves it after its halt is complete. -/
def Dev.freezeReady (e : Env) (d : Dev) (g : WG) : Bool :=
  g.stopped && g.ending.isNone && (g.halt = .trap && !g.handling || g.halt = .preempt && g.image.isSome || g.halt = .debug) &&
  g.frozenAt + 20 ≤ e.now && !d.haltWaits e g.id

/-- How long ago a tag was taken: the numbers its residence has counted since (R392). -/
def Dev.tagAge (d : Dev) (t : Nat) : Nat := (Table.get 0 (d.core (tagCore t)).seqs (tagFslot t) + 65535 - tagSeq t) % 65535

/-- Tags of a fibre's parked operations, oldest first. -/
def Dev.parkedTags (d : Dev) (w i : Nat) : List Nat :=
  (sortBy (fun t => 65535 - d.tagAge t) (((d.eps.flatMap (·.log)).filter fun q => q.wg = w && q.fib = i && q.tag ≠ 0).map (·.tag)))

/-- A parked marker of R400: fibre, CORE, FSLOT, SEQLO, SEQHI. -/
abbrev Marker := Nat × Nat × Nat × Nat × Nat

/-- The parked operations that a marker stands for. -/
def Dev.markerCount (d : Dev) (ctx : Nat) (m : Marker) : Nat :=
  let (_, c, s, lo, hi) := m
  ((d.eps.flatMap (·.log)).filter fun q => tagCtx q.tag = ctx % 4096 && tagCore q.tag = c && tagFslot q.tag = s &&
    (if lo ≤ hi then lo ≤ tagSeq q.tag && tagSeq q.tag ≤ hi else lo ≤ tagSeq q.tag || tagSeq q.tag ≤ hi)).length

/-- Markers of fibre `i`, one for each core and residence. -/
def Dev.markersOf (d : Dev) (g : WG) (i : Nat) : List Marker :=
  let ts := d.parkedTags g.id i
  let homes := ts.foldl (fun l t => if l.contains (tagCore t, tagFslot t) then l else l ++ [(tagCore t, tagFslot t)]) []
  let new := homes.map fun h =>
    let qs := (ts.filter fun t => (tagCore t, tagFslot t) = h).map tagSeq
    ((i, h.1, h.2, qs.headD 0, qs.getLastD 0) : Marker)
  let old := g.markers.filter fun m => m.1 = i && d.markerCount g.ctx.ctxid m ≠ 0 && !homes.contains (m.2.1, m.2.2.1)
  new ++ old

/-- An acquire that has parked makes no entry: its marker stands for it (R389). -/
def Op.onlyParked (o : Op) : Bool := o.acq && o.performed && o.parts.any fun p => p.st = .parked

/-- Every operation still outstanding is frozen; results of exited fibres go; a running matrix operation keeps its mark. -/
def Dev.freeze (e : Env) (d : Dev) (w : Nat) : Dev :=
  match d.wg? w with
  | none => d
  | some g =>
    let mids := g.mops.map (·.id)
    let free (b : Option Nat) : Option Nat := b.filter fun i => !mids.contains i
    let past := d.ops.filter fun (o : Op) => o.wg = w && o.onlyParked
    let d := past.foldl (fun d o => (d.retireTag e o.core o.tag).modFib w o.fib fun f => if f.wait = .op o.id then { f with wait := .none } else f) d
    let d := { d with ops := (d.ops.filter fun (o : Op) => !(o.wg = w && (o.onlyParked || (o.discard && o.kind.pure_)))).map fun (o : Op) =>
                if o.wg = w then { o with frozen := true, ready := false, heldOn := none } else o }
    let ms := (List.range g.fibs.length).flatMap fun i => d.markersOf g i
    let d := d.modCore g.core fun k => { k with arrayBusy := free k.arrayBusy, accBusy := free k.accBusy }
    d.modWg w fun g =>
      { g with frozen := true, frozenAt := e.now, markers := ms, mops := g.mops.map fun (o : MOp) => { o with started := false, stopAt := none, held := false } }

/-! ## Replay (R402, R403) -/

/-- A frozen operation sent again with its original tag. -/
def Op.resend (o : Op) (core now : Nat) : Op :=
  { o with frozen := false, ready := false, heldOn := none, poisoned := false, core := core, due := now + 1, sentAt := now,
           again := true, res := if o.kind = .omld then [] else o.res, bytes := o.bytes.map fun _ => 0#8,
           parts := o.parts.map fun p => if p.st = .parked || p.st = .given then p else { p with st := .sent } }

/-- The operation belongs to the handler that runs. -/
def WG.ofHandler (g : WG) (ord : Nat) : Bool := g.handling && (ord + 2 ^ 16 - g.trapIssue % 2 ^ 16) % 2 ^ 16 < 2 ^ 15

/-- No wait, or the wait for an operation's result. -/
def Wait.ofResult (w : Wait) : Bool :=
  match w with
  | .none => true
  | .op _ => true
  | _ => false

/-- Frozen operations go on: all, or while a handler runs the handler's own; a fibre waits for its acquires.
DEDUCED, log 41. -/
def Dev.replay (e : Env) (d : Dev) (w : Nat) : Dev :=
  match d.wg? w with
  | none => d
  | some g =>
    let go (o : Op) : Bool := o.wg = w && o.frozen && (!g.handling || g.ofHandler o.ord)
    let acqs := (d.ops.filter fun o => go o && !o.discard && (o.acq || o.kind = .tcpyc)).map fun o => (o.fib, o.id)
    let d := { d with ops := d.ops.map fun o => if go o then o.resend g.core e.now else o }
    acqs.foldl (fun d p => d.modFib w p.1 fun f => if f.wait.ofResult then { f with wait := .op p.2 } else f) d

/-! ## Pre-emption requests (R383, R447) -/

/-- In-flight entries of an operation: a traversal's are counted by `travEntries`. -/
def travEntries (t : Trav) : Nat := 3 + (t.refs.length + 4) / 5

/-- Entries the record of a work-group would hold now. -/
def Dev.entryCount (d : Dev) (g : WG) : Nat :=
  let ops := (d.ops.filter fun o => o.wg = g.id && o.kind ≠ .trav && o.kind ≠ .sfu && !o.onlyParked).length
  let travs := g.fibs.foldl (fun n f => n + match f.trav with
    | some t => travEntries t
    | none => 0) 0
  ops + travs + g.mops.length + (List.range g.fibs.length).foldl (fun n i => n + (d.markersOf g i).length) 0

/-- S_wg of R385 with `n` entries. -/
def swg (l : Launch) (extra n : Nat) : Nat :=
  4 * l.r.fcap * l.r.w + 4 * l.r.fcap + (l.r.v + extra) + 4096 * l.r.a + 64 * n

/-- Bytes of a mesh work-group's output buffer (R297). -/
def Launch.meshBytes (l : Launch) : Nat := if l.kind = .mesh then 4 * (36 * l.meshV + l.meshP) else 0

/-- Bytes of a save image with room for `n` entries (R384). DEDUCED, log 41. -/
def imageLen (l : Launch) (n : Nat) : Nat := 1024 + 32 * l.r.fcap + l.r.v / 128 + swg l l.meshBytes n

/-- Every 64 KiB page that `n` bytes at an intermediate address touch can be written, over `k` pages. -/
def Dev.pagesOpen (e : Env) (ia n : Nat) : Nat → Dev → Bool
  | 0, _ => true
  | k + 1, d =>
    if k * 65536 ≥ (ia + n + 65535) / 65536 * 65536 - ia / 65536 * 65536 then Dev.pagesOpen e ia n k d
    else
      match (d.reachRaw e ((ia / 65536 + k) * 65536) .wr).1 with
      | .at_ _ => Dev.pagesOpen e ia n k d
      | _ => false

/-- First fit in the context's save pool. A run that cannot be written is not taken (R364, R447). -/
def Dev.takeRun (e : Env) (d : Dev) (savep len : Nat) : Option Nat × Dev :=
  match d.iaBytes e savep 16 with
  | none => (none, d)
  | some bs =>
    let base := fieldN bs 0 8
    let size := fieldN bs 8 8
    let n := (len + 4095) / 4096 * 4096
    let used := d.saveRuns.filter fun r => r.1 = savep
    let starts := sortBy (fun s => s) (base :: used.map fun r => r.2.1 + r.2.2)
    let fits (s : Nat) : Bool :=
      decide (base ≤ s) && decide (s + n ≤ base + size) && used.all fun r => decide (s + n ≤ r.2.1) || decide (r.2.1 + r.2.2 ≤ s)
    match starts.find? fits with
    | none => (none, d)
    | some s =>
      if Dev.pagesOpen e s n (n / 65536 + 2) d then (some s, { d with saveRuns := (savep, s, n) :: d.saveRuns }) else (none, d)

def Dev.freeRun (d : Dev) (savep base : Nat) : Dev :=
  { d with saveRuns := d.saveRuns.filter fun r => !(r.1 = savep && r.2.1 = base) }

/-- The cohort of a work-group, or a pass's pixel work-groups on its engine: what is suspended and resumed together (R22, R305). -/
def WG.joined (g h : WG) : Bool := h.launch = g.launch && (if g.kind = .pixel then h.eng = g.eng else h.cohort = g.cohort)

/-- The work-groups that one request stops: the cohort (R22), or a pass's pixel work-groups on one engine (R305). -/
def Dev.stopsWith (d : Dev) (g : WG) : List WG := d.wgs.filter fun h => h.place = .resident && g.joined h

/-- Runs for every work-group of a request, or none. DEDUCED, log 41. -/
def Dev.takeRuns (e : Env) : List WG → Dev → Option (List (Nat × Nat)) × Dev
  | [], d => (some [], d)
  | g :: r, d =>
    match d.launch? g.launch with
    | none => Dev.takeRuns e r d
    | some l =>
      let crit := g.fibs.any fun f => f.critn ≠ 0
      let n := d.entryCount g + 8 * g.fibs.length + if crit then 256 * g.fibs.length else 0
      match d.takeRun e g.ctx.savep (imageLen l n) with
      | (none, d) => (none, d)
      | (some s, d') =>
        match Dev.takeRuns e r d' with
        | (some rs, d) => (some ((g.id, s) :: rs), d)
        | (none, _) => (none, d)

/-- The stop of one work-group begins, or waits for another halt to end (R386, R405). -/
def WG.beginPreempt (g : WG) (now : Nat) : WG :=
  if g.halt = .none || (g.halt = .trap && g.handling) then
    { g with halt := .preempt, haltAt := now, stopped := false, frozen := false, wantPreempt := false }
  else { g with wantPreempt := true }

/-- PREEMPT_REQUEST: work-group. A request for one that is stopping already has no effect. -/
def Dev.preemptRequest (e : Env) (d : Dev) (w : Nat) : Dev :=
  match d.wg? w with
  | none => d
  | some g =>
    let gs := d.stopsWith g
    if g.place ≠ .resident || gs.any fun h => h.image.isSome then d
    else
      match Dev.takeRuns e gs d with
      | (none, _) => d.postEvent e 4 (d.partOf g) g.ctx.ctxid []
      | (some rs, d) =>
        rs.foldl (fun d p => d.modWg p.1 fun g => { g.beginPreempt e.now with image := some (p.2, 0) }) d

/-! ## After the freeze -/

/-- FLAGS of a trap record (R382). -/
def trapFlags (c : Cause) (noHandler : Bool) : Nat :=
  (if c.async then 2 else 0) + (if noHandler then 8 else 0) + if c.cause ≥ 0x20 then 16 else 0

/-- The request of the debugger is done (R428). DEDUCED, log 39. -/
def Dev.debugDone (e : Env) (d : Dev) (g : WG) (stat : Nat) : Dev :=
  let d := d.modHub fun h => { h with dbgreq := BitVec.ofNat 64 (h.dbgreq.toNat % 2 ^ 62 + stat * 2 ^ 62) }
  d.postEvent e 5 (d.partOf g) g.ctx.ctxid []

/-- Handler entry, or the end of the work-group under R380; a pre-emption that waited goes on. DEDUCED, log 19. -/
def Dev.enterTrap (e : Env) (d : Dev) (g : WG) (c : Cause) : Dev :=
  let none_ := g.ctx.tbase = 0
  if none_ || c.cause = cUncorrectable || c.cause = cTimeout then d.endWg g.id c (trapFlags c none_)
  else
    d.modWg g.id fun g =>
      let g := { takeTrap g c with trapIssue := g.issue, stopped := false }
      let g := g.modFib c.fib fun f => { f with readyAt := e.now + 1 }
      if g.wantPreempt then { g with halt := .preempt, haltAt := e.now, stopped := false, frozen := false, wantPreempt := false } else g

/-- FREEZE_COMPLETE: work-group. -/
def Dev.freezeComplete (e : Env) (d : Dev) (w : Nat) : Dev :=
  match d.wg? w with
  | none => d
  | some g =>
    if !d.freezeReady e g then d
    else
      let d := d.freeze e w
      match g.halt, g.trap with
      | .trap, some c => d.enterTrap e g c
      | .preempt, _ => { d with agenda := d.agenda ++ [.ev .saveComplete w 0 0 []] }
      | .debug, _ => d.debugDone e g 2
      | _, _ => d

/-- ASYNC_TRAP_TAKEN: the first pending cause of a work-group, at the boundary of its fibre, or of the lowest live one where
that fibre has exited (R375). A link that `callx` still owes is written first. DEDUCED, log 18. -/
def Dev.asyncTrap (e : Env) (d : Dev) (w : Nat) : Dev :=
  match d.wg? w with
  | none => d
  | some g =>
    match g.asyncs with
    | [] => d
    | c :: rest =>
      let live (i : Nat) : Bool := ((g.fib? i).map (·.live)).getD false
      let who := if live c.fib then some c.fib else (List.range g.fibs.length).find? live
      let drop (d : Dev) : Dev := d.modWg w fun g => { g with asyncs := rest }
      match who with
      | none =>
        let d := drop d
        if c.cause = cUncorrectable || c.cause = cTimeout then d.endWg w c (trapFlags c false)
        else if c.cause = cUnmapped || c.cause = cPageFatal then
          d.modLaunch g.launch fun l => if l.fatal = 0 then { l with fatal := c.cause } else l
        else d
      | some i =>
        let c := { c with fib := i }
        let hnd := ((g.fib? i).map (·.hnd)).getD false
        -- an ARITH that lands while the debugger's halt is not yet complete turns it into a trap halt (R215)
        if g.stopped || (g.halt = .debug && c.cause ≠ cArith) then d
        else if hnd then (drop d).endWg w c (1 + trapFlags c false)
        else if g.handling || g.halt = .trap then d
        else
          let (n, d) := (drop d).choose 5
          d.modWg w fun g =>
            (g.modFib i fun f =>
              match f.wait with
              | .linkw _ r l => { f.setWords r [l] with wait := .none }
              | .op _ => { f with wait := .none }
              | _ => f).trapHalt e.now n c

/-- CRITICAL_REGION_TIMEOUT: work-group and fibre, 4,096 cc after the region opened (R371). -/
def Dev.critEnd (e : Env) (d : Dev) (w i : Nat) : Dev :=
  d.modFib w i fun f => if f.critn ≠ 0 && f.critAt + 4096 ≤ e.now then { f with critn := 0 } else f

/-! ## Record entries (R396 to R400) -/

/-- What an entry says of its operation before STATE. -/
structure EntryHead where
  kind : Nat
  flg : Nat
  fib : Nat
  ord : Nat := 0
  dst : Nat := 0
  dxp : Option Nat := none
  tag : Nat := 0
  dn : Nat := 0
  scp : Nat := 0
  addr : Nat := 0

/-- The 64 bytes of an entry. -/
def entryBytes (h : EntryHead) (st : List Byte) : List Byte :=
  leBytes 1 h.kind ++ leBytes 1 h.flg ++ leBytes 2 (h.fib % 1024) ++ leBytes 2 h.ord ++ leBytes 1 h.dst ++
  leBytes 1 (match h.dxp with
    | some p => p + 32
    | none => 0) ++ leBytes 6 h.tag ++ leBytes 1 h.dn ++ leBytes 1 h.scp ++ leBytes 8 h.addr ++
  (st ++ List.replicate 40 0#8).take 40

/-- CLASS of a kind (R388). -/
def kindClass (k : Nat) : Nat :=
  if [0x01, 0x0A, 0x0B, 0x0C, 0x0D, 0x0E, 0x12].contains k then 0
  else if [0x03, 0x04, 0x05, 0x08].contains k then 2
  else if k = 0x1F then 7
  else 1

/-- KIND of an operation. DEDUCED, log 41. -/
def OpKind.code : OpKind → Nat
  | .ld => 0x01
  | .ldc => 0x01
  | .st => 0x02
  | .atom => 0x03
  | .red => 0x03
  | .atomf => 0x04
  | .atomfx => 0x05
  | .cpy => 0x06
  | .tcpy => 0x07
  | .tcpyc => 0x08
  | .cont => 0x09
  | .smp => 0x0A
  | .tld => 0x0B
  | .omld => 0x0C
  | .trav => 0x0D
  | .omst => 0x14
  | .kbins => 0x15
  | .local_ => 0x01
  | .sfu => 0x01
  | .ast => 0x13

def Op.head (o : Op) : EntryHead :=
  let k := o.kind.code
  { kind := k, flg := kindClass k + (if o.acq then 8 else 0) + (if o.rel then 16 else 0), fib := o.fib, ord := o.ord, dst := o.dst,
    dxp := o.dxp, tag := o.tag, dn := o.dn, scp := o.scope + 8 * o.sgrp,
    addr := match o.kind with
      | .cont | .omld | .omst | .kbins => 0
      | _ => o.addr }

/-- The words of an operation as bytes. -/
def stBytes (ws : List Word) : List Byte := bytesOfWords ws

/-- Pixel, coverage and key of a merger access, 16 bytes (R397). -/
def pixBytes (ws : List Word) : List Byte :=
  let n (i : Nat) : Nat := (ws.getD i 0#32).toNat
  leBytes 2 (n 0) ++ leBytes 2 (n 1) ++ leBytes 4 (n 2) ++ leBytes 4 (n 5) ++ leBytes 4 (n 4)

/-- `n` bytes, padded with zeros. -/
def padTo (n : Nat) (bs : List Byte) : List Byte := (bs ++ List.replicate n 0#8).take n

/-- STATE of an operation. -/
def Op.stateBytes (o : Op) : List Byte :=
  let md := leBytes 4 o.m.toNat
  let ty := if o.m.toNat % 32 = 0 then 0x09 else o.m.toNat % 32
  match o.kind, o.act with
  | .st, .write bs => leBytes 4 o.size ++ padTo 16 bs
  | .ldc, _ => leBytes 1 o.size ++ leBytes 1 ((if tyS ty then 1 else 0) + 2)
  | _, .int op t b c => leBytes 1 op ++ leBytes 1 t ++ leBytes 6 0 ++ leBytes 8 b ++ leBytes 8 c
  | _, .flt fop t r b => leBytes 1 fop ++ leBytes 1 t ++ leBytes 1 r ++ leBytes 1 (if o.dn = 0 then 1 else 0) ++ leBytes 4 0 ++ leBytes 4 b
  | _, .fx p b => leBytes 1 p ++ leBytes 2 0 ++ leBytes 1 (if o.dn = 0 then 1 else 0) ++ leBytes 4 0 ++ leBytes 4 b
  | .cpy, _ => stBytes o.st ++ leBytes 1 o.size ++ leBytes 1 (bitsN o.m.toNat 14 12) ++ leBytes 1 (o.mark % 4)
  | .tcpy, _ => stBytes (o.st.take 2) ++ stBytes ((o.st.drop 4).take 4) ++ md ++ leBytes 4 o.mark ++ leBytes 8 o.win
  | .tcpyc, _ => stBytes (o.st.take 2) ++ stBytes ((o.st.drop 4).take 3) ++ leBytes 4 0 ++ stBytes ((o.st.drop 8).take 2)
  | .cont, _ => stBytes o.st
  | .smp, _ => padTo 28 (stBytes o.st) ++ md
  | .tld, _ => padTo 16 (stBytes o.st) ++ md
  | .omld, _ => leBytes 4 o.mark ++ md
  | .omst, _ => pixBytes o.st ++ padTo 8 (stBytes (o.st.drop 6)) ++ md
  | .kbins, _ => pixBytes o.st ++ padTo 12 (stBytes (o.st.drop 6)) ++ md
  | _, _ => leBytes 1 o.size ++ leBytes 1 (if tyS ty then 1 else 0)

/-- The group of a traversal (R399). -/
def travGroup (h : EntryHead) (t : Trav) : List (List Byte) :=
  let n := t.refs.length
  let rec8 (ws : List Word) : List Byte := padTo 32 (stBytes ws)
  let head := entryBytes { h with kind := 0x0D, flg := 0, addr := t.ptr }
    (rec8 t.ray ++ leBytes 4 t.flags.toNat ++ leBytes 4 (t.stage % 4 + n % 64 * 256))
  let more (a : Nat) (st : List Byte) : List Byte := entryBytes { kind := 0x0E, flg := 32, fib := h.fib, ord := h.ord, addr := a } st
  [head, more t.inst (rec8 t.commit ++ leBytes 4 t.tcur.toNat), more 0 (rec8 t.cand)] ++
  (List.range ((n + 4) / 5)).map fun i => more 0 (((t.refs.drop (5 * i)).take 5).flatMap (leBytes 8))

/-- A matrix operation as an entry. DEDUCED, log 41. -/
def MOp.entry (o : MOp) : List Byte :=
  let k := match o.kind with
    | .mma => 0x10
    | .ald => 0x12
    | .ast => 0x13
    | _ => 0x11
  let tail := leBytes 4 o.m.toNat ++ leBytes 4 o.mark
  let st := match o.kind with
    | .mma => leBytes 8 o.b ++ leBytes 8 o.c ++ tail
    | .ald | .ast => leBytes 4 o.b ++ leBytes 12 0 ++ tail
    | _ => leBytes 8 o.b ++ leBytes 8 0 ++ tail
  entryBytes { kind := k, flg := kindClass k, fib := o.fib, ord := o.ord, tag := o.tag, addr := o.a } st

/-- The entry of a marker. -/
def Dev.markerEntry (d : Dev) (ctx : Nat) (m : Marker) : List Byte :=
  entryBytes { kind := 0x1F, flg := 7, fib := m.1 }
    (leBytes 2 m.2.1 ++ leBytes 2 m.2.2.1 ++ leBytes 2 m.2.2.2.1 ++ leBytes 2 m.2.2.2.2 ++ leBytes 4 (d.markerCount ctx m))

/-- The in-flight record of a frozen work-group: markers, then every other entry in issue order (R401). -/
def Dev.record (d : Dev) (g : WG) : List (List Byte) :=
  let ms := g.markers.map (d.markerEntry g.ctx.ctxid)
  let ops := (d.ops.filter fun o => o.wg = g.id && o.kind ≠ .trav).map fun o => (o.ord, [entryBytes o.head o.stateBytes])
  let mops := g.mops.map fun o => (o.ord, [o.entry])
  let travs := ((List.range g.fibs.length).zip g.fibs).filterMap fun p =>
    p.2.trav.map fun t =>
      let h := match d.traceOpen g.id p.1 with
        | some o => o.head
        | none => { kind := 0x0D, flg := 0, fib := p.1 }
      (t.ord, travGroup { h with ord := t.ord } t)
  ms ++ (sortBy (fun q => q.1) (ops ++ mops ++ travs)).flatMap (·.2)

/-! ## The save image (R384) -/

/-- The words of a table, from 0. -/
def tableBytes (t : Table Word) (n : Nat) : List Byte := bytesOfWords ((List.range n).map fun i => Table.get 0#32 t i)

/-- The sections from the predicates to the tiles. -/
def WG.saved (g : WG) (l : Launch) : List Byte :=
  bytesOfWords (g.fibs.map (·.preds)) ++ g.fibs.flatMap (fun f => bytesOfWords (f.words 0 l.r.w)) ++ g.vaultBytes 0 l.r.v ++
  (if l.kind = .mesh then tableBytes g.mesh (36 * l.meshV) ++ tableBytes g.prims l.meshP else []) ++ g.tileBytes 0 (4096 * l.r.a)

/-- Granule bits, bit i of byte i / 8 for granule i. -/
def WG.granBytes (g : WG) (v : Nat) : List Byte :=
  (List.range (v / 128)).map fun j =>
    BitVec.ofNat 8 ((List.range 8).foldl (fun s i => if g.granFull (8 * j + i) then s + 2 ^ i else s) 0)

/-- Offset of the vault section. -/
def vaultOff (l : Launch) : Nat := 1024 + 32 * l.r.fcap + l.r.v / 128 + 4 * l.r.fcap + 4 * l.r.fcap * l.r.w

/-- Poison at intermediate addresses. -/
def Dev.iaPoison (e : Env) (d : Dev) (ia : Nat) : Dev :=
  match d.reachRaw e ia .wr with
  | (.at_ k, d) => d.poisonAt k 1
  | _ => d

/-- SAVE_COMPLETE: the image is written and the core's resources are free. DEDUCED, log 41. -/
def Dev.saveComplete (e : Env) (d : Dev) (w : Nat) : Dev :=
  match d.wg? w with
  | none => d
  | some g =>
    match d.launch? g.launch, g.image with
    | some l, some (ia, _) =>
      if !(g.halt = .preempt && g.stopped && g.frozen) then d
      else
        let n := 1024 + 32 * l.r.fcap
        let rec_ := d.record g
        let bs := hdrBytes d.fresh n ++ g.granBytes l.r.v ++ g.saved l ++ rec_.flatMap id
        let hdr := d.fresh
        let kept := (d.ops.filter fun o => o.wg = w).map fun o => (o.ord, o.grp, o.discard)
        let d := { d with fresh := d.fresh + n }
        let d := (Dev.iaWrite e (linesOf bs.length) ia bs d).2
        -- the engine's tile stores go to the spill surface, as in a partial flush (R328)
        let d := match (if g.kind = .pixel then d.pass? l.pass else none), g.eng with
          | some p, some eng =>
            if p.binned then d.spillTiles e p.id (p.touched.filter fun t => ((p.tileAt t).1 + (p.tileAt t).2) % 8 = eng % 8) else d
          | _, _ => d
        let d := g.vbad.foldl (fun d b => d.iaPoison e (ia + vaultOff l + b)) d
        let d := { d with ops := d.ops.filter fun o => o.wg ≠ w }
        d.modWg w fun g =>
          { g with place := .suspended, suspendedAt := e.now, hdr := hdr, kept := kept, entries := rec_.length, image := some (ia, bs.length),
                   halt := if g.handling then .trap else .none, stopped := false, frozen := g.handling,
                   fibs := g.fibs.map fun f => { f with win := [], emp := [], pend := [], preds := 1#32, stuck := false, cand := false } }
    | _, _ => d

/-! ## Resumption (R387, R68, R402) -/

/-- Words of a byte list. -/
def wordsAt (bs : List Byte) (o n : Nat) : List Word := wordsOfBytes ((bs.drop o).take (4 * n))

/-- The type that a load's entry stands for: its size and sign. -/
def loadTy (size : Nat) (s : Bool) : Nat :=
  match size with
  | 1 => if s then 0x01 else 0x02
  | 2 => if s then 0x04 else 0x05
  | 4 => if s then 0x07 else 0x08
  | 8 => if s then 0x0A else 0x0B
  | _ => if s then 0x0E else 0x0F

/-- The halves of an access of `n` bytes at a pointer. -/
def partsAt (g : WG) (l : Launch) (i q n : Nat) : List Part :=
  match tgtOf g l i q with
  | .glob va => partsOf 128 va n
  | .vault _ off => partsOf 16 off n
  | .acc off => partsOf 128 off n

/-- Pixel words of a merger access of a fibre. -/
def pixWords (f : Fib) (st : List Byte) : List Word :=
  let w (n : Nat) : Word := BitVec.ofNat 32 n
  [w (fieldN st 0 2), w (fieldN st 2 2), w (fieldN st 4 4), w ((f.pixel.map (·.draw)).getD 0), w (fieldN st 12 4), w (fieldN st 8 4)]

/-- Pixel words of a fibre itself, for `omld`. -/
def ownPix (f : Fib) : List Word :=
  let w (n : Nat) : Word := BitVec.ofNat 32 n
  match f.pixel with
  | some p => [w p.x, w p.y, w p.cov, w p.draw, w p.g, w p.p]
  | none => List.replicate 6 0#32

/-- The issue count whose low bits an entry holds (R396). -/
def WG.fullOrd (g : WG) (low : Nat) : Nat := g.issue - (g.issue % 2 ^ 16 + 2 ^ 16 - low) % 2 ^ 16

/-- The operation an entry stands for; `id` numbers it. Traversals and matrix operations stand apart.
DEDUCED, log 41. -/
def opOfEntry (ps : Option Pass) (g : WG) (l : Launch) (id core now : Nat) (bs : List Byte) : Option Op :=
  let n (o k : Nat) : Nat := fieldN bs o k
  let kind := n 0 1
  let flg := n 1 1
  let fib := n 2 2 % 1024
  let dx := n 7 1
  let addr := n 16 8
  let st := bs.drop 24
  let s (o k : Nat) : Nat := fieldN st o k
  let f := (g.fib? fib).getD {}
  let ord := g.fullOrd (n 4 2)
  let old := (g.kept.find? fun k => k.1 = ord).map (·.2)
  let base : Op :=
    { id := id, kind := .ld, wg := g.id, fib := fib, ord := ord, grp := (old.map (·.1)).getD id, again := true, dst := n 6 1, dn := n 14 1,
      dxp := if dx / 32 % 2 = 1 then some (dx % 32) else none, tag := n 8 6, scope := n 15 1 % 8, sgrp := n 15 1 / 8,
      acq := flg.testBit 3, rel := flg.testBit 4, core := core, addr := addr, due := now + 1, sentAt := now,
      discard := (old.map (·.2)).getD (!f.live) }
  let at_ (o : Op) (size : Nat) : Op :=
    { o with size := size, parts := partsAt g l fib addr size, bytes := List.replicate size 0#8 }
  let merge (o : Op) : Op :=
    { o with
      addr := l.pass
      parts := match ps with
        | some p => p.mergeParts o.kind (p.target (bitsN o.m.toNat 26 23)) o.pix.1 o.pix.2 o.cov o.mark
        | none => [] }
  match kind with
  | 0x01 =>
    some (at_ { base with kind := if s 1 1 / 2 % 2 = 1 then .ldc else .ld, m := BitVec.ofNat 32 (loadTy (s 0 1) ((s 1 1).testBit 0)) } (s 0 1))
  | 0x02 => some (at_ { base with kind := .st, act := .write ((st.drop 4).take (s 0 4 % 17)) } (s 0 4 % 17))
  | 0x03 =>
    some (at_ { base with kind := if base.dn = 0 then .red else .atom, act := .int (s 0 1) (s 1 1) (s 8 8) (s 16 8) } (tyBits (s 1 1) / 8))
  | 0x04 => some (at_ { base with kind := .atomf, act := .flt (s 0 1) (s 1 1) (s 2 1) (s 8 4) } 4)
  | 0x05 => some (at_ { base with kind := .atomfx, act := .fx (s 0 1) (s 8 4) } 20)
  | 0x06 =>
    some { base with kind := .cpy, st := wordsAt st 0 2, size := s 8 1, reads := spansOf g (tgtOf g l fib addr) (s 8 1), m := BitVec.ofNat 32 (s 9 1 % 8 * 2 ^ 12), act := .write [],
                     mark := s 10 1 % 4 }
  | 0x07 =>
    let m := s 24 4
    let ws := wordsAt st 0 2 ++ natWords 2 addr ++ wordsAt st 8 4
    let slot := l.r.fmt.getD (bitsN m 22 20) 0#32
    let o : Op := { base with kind := .tcpy, st := ws ++ [slot], m := BitVec.ofNat 32 m, act := .write [], mark := s 28 4, win := s 32 8 }
    some { o with size := o.tcd.bytes, reads := o.tcd.reads g l fib }
  | 0x08 =>
    let ws := wordsAt st 0 2 ++ natWords 2 addr ++ wordsAt st 8 3 ++ [0#32]
    let mode := if (ws.getD 4 0#32).toNat < 2 ^ 16 then 0 else 1
    let o : Op :=
      { base with kind := .tcpyc, st := ws ++ wordsAt st 24 2, m := BitVec.ofNat 32 (mode * 2 ^ 29), scope := 3, rel := true, deep := true,
                  parts := [{ va := 0, off := 0, len := 0 }] }
    some { o with size := o.tcd.bytes }
  | 0x09 =>
    some { base with kind := .cont, st := wordsAt st 0 8, scope := 3, rel := true, deep := true, parts := [{ va := 2 ^ 60 + 128 * id, off := 0, len := 0 }] }
  | 0x0A =>
    let va := match tgtOf g l fib addr with
      | .glob v => v
      | _ => 0
    some { base with kind := .smp, st := wordsAt st 0 7, m := BitVec.ofNat 32 (s 28 4), size := va }
  | 0x0B =>
    let va := match tgtOf g l fib addr with
      | .glob v => v
      | _ => 0
    some { base with kind := .tld, st := wordsAt st 0 4, m := BitVec.ofNat 32 (s 16 4), size := va }
  | 0x0C => some (merge { base with kind := .omld, st := ownPix f, m := BitVec.ofNat 32 (s 4 4), mark := s 0 4 })
  | 0x14 =>
    let b8 := ((ps.map fun p => (p.target (bitsN (s 24 4) 26 23)).b).getD 4) = 8
    some (merge { base with kind := .omst, st := pixWords f st ++ wordsAt st 16 (if b8 then 2 else 1), m := BitVec.ofNat 32 (s 24 4), act := .write [] })
  | 0x15 =>
    some (merge { base with kind := .kbins, st := pixWords f st ++ wordsAt st 16 3, m := BitVec.ofNat 32 (s 28 4), act := .write [] })
  | _ => none

/-- KINDs of R397. -/
def kindListed (k : Nat) : Bool := (1 ≤ k && k ≤ 0x0E) || (0x10 ≤ k && k ≤ 0x15) || k = 0x1F

/-- One entry restored. `cur` names the fibre of the traversal group that the entry may continue, and the entry's place in it. -/
def Dev.restoreEntry (e : Env) (d : Dev) (w : Nat) (l : Launch) (core : Nat) (bs : List Byte) (cur : Nat × Nat) : (Nat × Nat) × Dev :=
  match d.wg? w with
  | none => (cur, d)
  | some g =>
    let n (o k : Nat) : Nat := fieldN bs o k
    let st := bs.drop 24
    let fib := n 2 2 % 1024
    let modT (f : Trav → Trav) : Dev := d.modFib w cur.1 fun h => { h with trav := h.trav.map f }
    let addOp (d : Dev) (o : Op) (frozen : Bool) : Dev :=
      { d with ops := d.ops ++ [{ o with frozen := frozen }] }.modFib w fib fun f =>
        let f := { f with emp := (upFrom o.dst o.dn).foldl (fun l k => insNat k l) f.emp }
        match o.dxp with
        | some p => if p = 0 then f else { f with pend := insNat p f.pend }
        | none => f
    match n 0 1 with
    | 0x1F =>
      (cur, d.modWg w fun g => { g with markers := g.markers ++ [(fib, fieldN st 0 2, fieldN st 2 2, fieldN st 4 2, fieldN st 6 2)] })
    | 0x0D =>
      let (id, d) := d.takeId
      let flags := BitVec.ofNat 32 (fieldN st 32 4)
      let stage := fieldN st 36 4 % 4
      let ord := g.fullOrd (n 4 2)
      let va := match tgtOf g l fib (n 16 8) with
        | .glob v => v
        | _ => 0
      let d := d.modFib w fib fun f =>
        { f with trav := f.trav.map fun t =>
            { t with ray := wordsAt st 0 8, flags := flags, ptr := n 16 8, root := va, stage := stage, refs := [], ord := ord } }
      let o : Op :=
        { id := id, kind := .trav, wg := w, fib := fib, ord := ord, grp := id, again := true, dst := n 6 1, dn := n 14 1, core := core, addr := n 16 8,
          due := e.now + 1, sentAt := e.now }
      ((fib, 1), if stage = 1 then d else addOp d o g.handling)
    | 0x0E =>
      match cur.2 with
      | 1 => ((cur.1, 2), modT fun t =>
          { t with inst := n 16 8, commit := if t.commit.isEmpty then [] else wordsAt st 0 8, tcur := BitVec.ofNat 32 (fieldN st 32 4) })
      | 2 => ((cur.1, 3), modT fun t => { t with cand := if t.cand.isEmpty then [] else wordsAt st 0 8 })
      | _ => (cur, modT fun t =>
          { t with refs := t.refs ++ ((List.range 5).map fun i => fieldN st (8 * i) 8).filter (· ≠ 0) })
    | k =>
      if 0x10 ≤ k && k ≤ 0x13 then
        -- a number of its place in the record: accesses issued before it stay before it (R270)
        let (id, d) := d.takeId
        let upd (o : MOp) : MOp :=
          if o.ord = g.fullOrd (n 4 2) && o.fib = fib then
            { o with id := id, a := n 16 8, m := BitVec.ofNat 32 (fieldN st 16 4), mark := fieldN st 20 4, tag := n 8 6,
                     b := if k ≥ 0x12 then fieldN st 0 4 else fieldN st 0 8, c := if k = 0x10 then fieldN st 8 8 else o.c }
          else o
        (cur, d.modWg w fun g => { g with mops := g.mops.map upd })
      else
        let (id, d) := d.takeId
        match opOfEntry (d.pass? l.pass) g l id core e.now bs with
        | some o => (cur, addOp d (o.scopedAgain e d g) (g.handling && !g.ofHandler o.ord))
        | none => (cur, d)

/-- The entries of a record, in order. DEDUCED, log 41. -/
def Dev.restoreRecord (e : Env) (w : Nat) (l : Launch) (core : Nat) : List (List Byte) → Nat × Nat → Dev → Dev
  | [], _, d => d
  | b :: r, cur, d =>
    let q := d.restoreEntry e w l core b cur
    Dev.restoreRecord e w l core r q.1 q.2

/-- Entries of a byte list. -/
def entriesOf : Nat → List Byte → List (List Byte)
  | 0, _ => []
  | n + 1, bs => bs.take 64 :: entriesOf n (bs.drop 64)

/-- Words of a table from a byte list. -/
def tableOf (ws : List Word) : Table Word := ((List.range ws.length).zip ws).foldl (fun t p => Table.set 0#32 t p.1 p.2) []

/-- The image comes back: predicates, windows, vault, tiles from memory, every word full but those that an entry names, no
entry yet performed. -/
def Dev.restoreImage (e : Env) (d : Dev) (w core : Nat) (l : Launch) (bs : List Byte) (bad : List Nat) : Dev :=
  let r := l.r
  let o1 := 1024 + 32 * r.fcap
  let o2 := o1 + r.v / 128
  let o3 := o2 + 4 * r.fcap
  let o4 := vaultOff l
  let o5 := o4 + r.v
  let o6 := o5 + l.meshBytes
  let o7 := o6 + 4096 * r.a
  let vb := (bs.drop o4).take r.v
  let d := d.modWg w fun g =>
    { g with
      fibs := ((List.range g.fibs.length).zip g.fibs).map fun p =>
        { p.2 with preds := (wordsAt bs (o2 + 4 * p.1) 1).headD 0#32, win := wordsAt bs (o3 + 4 * r.w * p.1) r.w, emp := [], pend := [] }
      empt := (List.range (r.v / 16)).filter fun i => !((bs.getD (o1 + i / 8) 0#8).getLsbD (i % 8))
      vault := ((List.range vb.length).zip vb).foldl (fun t p => Table.set 0#8 t p.1 p.2) []
      vbad := (bad.filter fun b => decide (o4 ≤ b) && decide (b < o5)).map (· - o4)
      mesh := if l.kind = .mesh then tableOf (wordsAt bs o5 (36 * l.meshV)) else g.mesh
      prims := if l.kind = .mesh then tableOf (wordsAt bs (o5 + 144 * l.meshV) l.meshP) else g.prims
      tiles := tableOf (wordsAt bs o6 (1024 * r.a))
      markers := [] }
  let n := ((d.wg? w).map (·.entries)).getD 0
  Dev.restoreRecord e w l core (entriesOf n (bs.drop o7)) (0, 0) d

/-- A placed work-group comes back from its image. A check word that does not match, a KIND that R397 does not list, or an
image that cannot be read ends it with HW_UNCORRECTABLE (R364, R384, R397). DEDUCED, log 41. -/
def Dev.resume (e : Env) (d : Dev) (w : Nat) : Dev :=
  match d.wg? w with
  | none => d
  | some g =>
    match d.launch? g.launch, g.image with
    | some l, some (ia, len) =>
      let r := Dev.iaRead e (linesOf len) ia len d
      let d := r.2.freeRun g.ctx.savep ia
      let d := d.modWg w fun g => { g with image := none }
      let fail : Dev := d.endWg w { cause := cUncorrectable, async := true, tval := 0, fib := 0 } (2 + 16)
      match r.1 with
      | none => fail
      | some (bs, bad) =>
        let n := 1024 + 32 * l.r.fcap
        let o7 := vaultOff l + l.r.v + l.meshBytes + 4096 * l.r.a
        let es := entriesOf g.entries (bs.drop o7)
        if bs.take n ≠ hdrBytes g.hdr n || bad.any (fun b => b < n) || es.any fun b => !kindListed (fieldN b 0 1) then fail
        else ((d.restoreImage e w g.core l bs bad).replay e w).asyncTrap e w
    | _, _ => d

/-! ## Meanings -/

def execCriticalRegionTimeout : State → Host.Outcome State Fault Refusal := event fun e d => d.critEnd e d.arg.a d.arg.b

def execHaltComplete : State → Host.Outcome State Fault Refusal := event fun e d => d.haltComplete e d.arg.a

def execFreezeComplete : State → Host.Outcome State Fault Refusal := event fun e d => d.freezeComplete e d.arg.a

def execAsyncTrapTaken : State → Host.Outcome State Fault Refusal := event fun e d => d.asyncTrap e d.arg.a

def execPreemptRequest : State → Host.Outcome State Fault Refusal := event fun e d => d.preemptRequest e d.arg.a

def execSaveComplete : State → Host.Outcome State Fault Refusal := event fun e d => d.saveComplete e d.arg.a

end Sys2Proof.Machine
end

