-- ==== Sys2Proof/Machine/System.lean ====
section
/-! DEFINITION. The privileged instructions (spec/16, R363 to R374; spec/18, R424, R425). -/
namespace Sys2Proof.Machine

open Sys2Proof

/-! ## sysrd, syswr (R365, R366, R369) -/

/-- The selectors of R365. -/
def selListed (n : Nat) : Bool :=
  [0x000, 0x010, 0x011, 0x012, 0x018, 0x019, 0x01A, 0x01B, 0x020, 0x030, 0x040, 0x041, 0x044, 0x050].contains n

/-- Registers with a writable field. -/
def selWrites (n : Nat) : Bool := [0x018, 0x019, 0x01A, 0x01B, 0x030, 0x040, 0x041, 0x044].contains n

/-- A 64-bit register. -/
def selWide (n : Nat) : Bool := [0x012, 0x018, 0x019, 0x01A, 0x01B, 0x020, 0x040, 0x041, 0x050].contains n

def selOf (x : X) : Nat := x.mf 31 20

/-- `%frec` of fibre `i` (R366). The trapping fibre resumes at `%tpc`. DEDUCED, log 19. -/
def frec (g : WG) (i : Nat) (f : Fib) : Nat :=
  let pc := if f.hnd && g.handling && g.trapper = i then g.tpc.toNat else f.pc.toNat % 2 ^ 32
  f.skid % 8 * 2 ^ 41 + (if f.live then 0 else 2 ^ 40) + f.pcause % 256 * 2 ^ 32 + pc

/-- The value of a system register; `b` names the fibre of `%frec`. -/
def sysValue (d : Dev) (g : WG) (f : Fib) (sel b : Nat) : Nat :=
  match sel with
  | 0x000 => f.status.toNat
  | 0x010 => g.tcause.toNat
  | 0x011 => g.tpc.toNat
  | 0x012 => g.tval.toNat
  | 0x020 => g.ctx.ctxd
  | 0x030 => d.hub.fswap
  | 0x044 => g.wctl.toNat
  | 0x050 => match g.fib? b with
    | some h => frec g b h
    | none => 0
  | n => if 0x040 ≤ n then (g.waddr.getD (n - 0x040) 0#64).toNat else (g.tscr.getD (n - 0x018) 0#64).toNat

def insSysrd : Ins where
  b := fun x => if selOf x = 0x050 then opd 1 else {}
  d := fun x => opd (if selWide (selOf x) then 2 else 1)
  priv := true
  ok6 := fun _ x => selListed (selOf x)

def bodySysrd : Body := fun e cx g f l d =>
  let sel := selOf cx.x
  let b := srcB e.now g f cx.x 1
  if sel = 0x050 && b ≥ l.r.fcap then d.illegal e cx
  else
    let ws := natWords (if selWide sel then 2 else 1) (sysValue d g f sel b)
    (d.modFib cx.wg cx.fi (·.setWords cx.x.d.toNat ws)).advance cx

def insSyswr : Ins where
  a := fun x => opd (if selWide (selOf x) then 2 else 1)
  priv := true
  ok6 := fun _ x => selWrites (selOf x)

def bodySyswr : Body := fun e cx g f _ d =>
  let sel := selOf cx.x
  let v := srcA e.now g f cx.x (if selWide sel then 2 else 1)
  let w64 : DWord := BitVec.ofNat 64 v
  match sel with
  | 0x030 =>
    if !g.ctx.fsvc then d.trap e cx cAccessDenied 0
    else (d.modHub fun h => { h with fswap := v % 2 ^ 24 }).advance cx
  | 0x044 =>
    if v % 64 > 16 || v / 256 % 64 > 16 then d.illegal e cx
    else (d.modWg cx.wg fun g => { g with wctl := BitVec.ofNat 32 (v % 2 ^ 16) }).advance cx
  | n =>
    if 0x040 ≤ n then (d.modWg cx.wg fun g => { g with waddr := putAt w64 g.waddr (n - 0x040) }).advance cx
    else (d.modWg cx.wg fun g => { g with tscr := putAt w64 g.tscr (n - 0x018) }).advance cx

/-! ## tret (R370) -/

def insTret : Ins where
  priv := true
  ok6 := fun l _ => l.hnd

def insTretAt : Ins where
  a := fun _ => opd 1
  priv := true
  ok6 := fun l _ => l.hnd

/-- Handler mode ends, the trapping fibre continues at `pc`, the frozen operations replay (R378, R402). A pre-emption requested
in the same cc proceeds after it (R386). DEDUCED, log 19. -/
def Dev.tretTo (e : Env) (d : Dev) (cx : Cx) (g : WG) (pc : DWord) : Dev :=
  let again (h : WG) : WG :=
    let h : WG := { h with fibs := h.fibs.map fun f => { f with readyAt := max f.readyAt (e.now + 1) } }
    if g.halt = .preempt then { h with halt := .preempt, haltAt := e.now, stopped := false } else h
  (d.modWg cx.wg fun h => again (returnTrap h pc)).replay e cx.wg

def bodyTretRetry : Body := fun e cx g _ _ d => d.tretTo e cx g (g.tpc.setWidth 64)

/-- The length of the instruction at `%tpc`: its word 0 is read from the kernel's text. -/
def bodyTretSkip : Body := fun e cx g f l d =>
  let pc := g.tpc.toNat
  match d.fetchWord e g { f with hnd := false } l pc with
  | (.ok w, d) => d.tretTo e cx g (BitVec.ofNat 64 (pc + 4 * lenWords w))
  | (.outside _, d) =>
    let v := d.freeWord
    v.2.tretTo e cx g (BitVec.ofNat 64 (pc + 4 * lenWords v.1))
  | (.wait p, d) => d.block cx (.page p)
  | (.lost c va, d) => (d.async cx.wg cx.fi c va).block cx .none

def bodyTretAt : Body := fun e cx g f l d =>
  let t := srcA e.now g f cx.x 1
  if targetOk t l.r.tsize then d.tretTo e cx g (BitVec.ofNat 64 t) else d.illegal e cx

/-- The work-group ends; the record holds what `%tcause`, `%tpc` and `%tval` hold. -/
def bodyTretKill : Body := fun _ cx g _ _ d =>
  let c : Cause := { cause := g.tcause.toNat % 256, async := g.tcause.getLsbD 31, tval := g.tval.toNat, fib := g.trapper }
  d.endWg cx.wg c (4 + if c.async then 2 else 0)

/-! ## tmask (R371) -/

def insTmask (end_ : Bool) : Ins where
  priv := true
  ok6 := fun _ x => !end_ || x.mf 24 23 = 1
  inHandler := false

/-- DEDUCED, log 19. -/
def bodyTmaskCrit : Body := fun e cx _ _ _ d =>
  (d.advance cx).modFib cx.wg cx.fi fun f => if cx.f0.critn = 0 then { f with critn := 256, critAt := e.now } else f

def bodyTmaskEnd : Body := fun _ cx _ _ _ d => (d.advance cx).modFib cx.wg cx.fi fun f => { f with critn := 0 }

/-! ## cachex (R372) -/

def insPriv : Ins where
  priv := true

/-- The fibre stands at its instruction until the action is done; a halt before that saves it as not issued. DESIGN CHOICE, log 40. -/
def bodyCachex : Body := fun e cx g _ _ d =>
  let m := cx.x.mf 24 23
  let (n, d) := d.choose 512
  let d := d.modCore g.core fun k =>
    { k with l1 := if m = 0 || m = 3 then [] else k.l1, cc := if m = 1 || m = 3 then [] else k.cc,
             wtabs := if m = 2 || m = 3 then k.wtabs.filter fun p => p.2 ≠ g.ctx.ctxid else k.wtabs }
  d.block cx (.cachex (e.now + 1 + n))

/-! ## mtuinv (R373, R424) -/

/-- DEDUCED, log 42. -/
def insMtuinv (rel : Bool) : Ins where
  a := fun _ => opd 2
  b := fun _ => opd 1
  priv := true
  ok6 := fun _ x => !rel || x.mf 24 23 = 1

/-- The page is the base of a large page: its level-1 entry is a PAGE, or an open episode covers its 32 MiB. -/
def Dev.largeAt (e : Env) (d : Dev) (page : Nat) : Bool :=
  page % 512 = 0 &&
  (d.eps.any (fun p => p.page = page && p.n = 512) ||
    let ia := page * 2 ^ 16
    let w2 := d.homeNat e (storeKey 0 (bitsN d.hub.ptroot.toNat 37 18 * 2 ^ 18 + 16 * (ia / 2 ^ 38 % 2 ^ 14))) 8
    w2 % 4 = 1 && d.homeNat e (storeKey 0 (pteAddr w2 + 16 * (ia / 2 ^ 25 % 2 ^ 13))) 8 % 4 = 2)

/-- A line leaves its slice: dirty data goes to the backing that the new entry names, and is discarded where none does. -/
def Dev.writeBack (e : Env) (d : Dev) (l : L2Line) : Dev :=
  let d := { d with l2 := d.l2.filter fun m => m.line ≠ l.line }
  if !l.dirty then d
  else
    match d.walk e (128 * l.line) .rd with
    | .ok (some k) _ pte _ =>
      if k = l.phys then d
      else
        let d := d.copyBytes e l.phys k 128
        if pte = 0 then d else d.pteWord1 e pte fun w => setBit w 2
    | .fill f => d.copyBytes e l.phys (f.home + (128 * l.line - f.page * 2 ^ 16)) 128
    | _ => d

/-- The pages of a run, large pages whole, leave the slices; with `rel`, open episodes among them end (R420). -/
def Dev.invPages (e : Env) (d : Dev) (page n : Nat) (rel : Bool) : Dev :=
  let spans := (upFrom page n).map fun p => (p, if d.largeAt e p then 512 else 1)
  let inAny (p : Nat) : Bool := spans.any fun s => inPages s.1 s.2 p
  let lines := d.l2.filter fun l => inAny (l.line / 512)
  let d := lines.foldl (fun d l => d.writeBack e l) d
  if rel then
    { d with agenda := d.agenda ++ ((d.eps.filter fun p => inAny p.page).map fun p => Todo.ev .episodeRelease p.page 0 0 []) }
  else d

def bodyMtuinv (rel : Bool) : Body := fun e cx g f _ d =>
  let a := f.nat cx.x.a.toNat 2
  let n := srcB e.now g f cx.x 1
  if !g.ctx.fsvc then d.trap e cx cAccessDenied 0
  else if a % 2 ^ 16 ≠ 0 || a ≥ 2 ^ 52 || n = 0 || n > 512 then d.illegal e cx
  else if d.olderOpen cx.wg cx.fi d.nextId then d.block cx (.ops d.nextId false)
  else
    let (w, d) := d.choose 48
    (d.invPages e (a / 2 ^ 16) n rel).hold cx (.ack (e.now + 1 + w))

/-! ## frmput (R373, R425) -/

def insFrmput : Ins where
  a := fun _ => opd 2
  wp := fun x => [x.dx.toNat]
  priv := true
  ok6 := fun _ x => x.mf 24 23 ≤ 1

/-- Requests that found no frame walk again. -/
def Dev.refill (d : Dev) : Dev :=
  let open_ (o : Op) (p : Part) : Bool :=
    match d.partIa o p with
    | some ia => !(d.fills.any fun f => inPages f.page f.n (ia / 2 ^ 16))
    | none => true
  { d with ops := d.ops.map fun (o : Op) =>
      { o with parts := o.parts.map fun p => if p.st = .fill && open_ o p then { p with st := .walk } else p } }

def bodyFrmput : Body := fun e cx g f _ d =>
  let a := f.nat cx.x.a.toNat 2
  let large := cx.x.mf 24 23 = 1
  let size := if large then 2 ^ 25 else 2 ^ 16
  if !g.ctx.fsvc then d.trap e cx cAccessDenied 0
  else if a % size ≠ 0 || a + size > gddrSize then d.illegal e cx
  else
    let room := if large then decide (d.fifoL.length < 64) else decide (d.fifoS.length < 8192)
    let d := if !room then d
      else (if large then { d with fifoL := d.fifoL ++ [a] } else { d with fifoS := d.fifoS ++ [a] }).refill
    let (w, d) := d.choose 48
    (d.modFib cx.wg cx.fi (·.setPred cx.x.dx.toNat room)).hold cx (.ack (e.now + 1 + w))

/-! ## wgctl (R374) -/

def insWgctlYield : Ins where
  priv := true
  inHandler := false

def bodyWgctlYield : Body := fun _ cx _ _ _ d =>
  let d := d.advance cx
  { d with agenda := d.agenda ++ [.ev .preemptRequest cx.wg 0 0 []] }

/-- A target fibre of modes 1 and 2: below F_cap and not the trapping fibre. -/
def wgctlTarget (cx : Cx) (l : Launch) (t : Nat) : Bool := t < l.r.fcap && t ≠ cx.fi

def insWgctlSetpc : Ins where
  a := fun _ => opd 1
  b := fun _ => opd 1
  priv := true
  ok6 := fun l _ => l.hnd

def bodyWgctlSetpc : Body := fun e cx g f l d =>
  let t := srcA e.now g f cx.x 1
  let pc := srcB e.now g f cx.x 1
  if !wgctlTarget cx l t || !targetOk pc l.r.tsize then d.illegal e cx
  else
    (d.modFib cx.wg t fun h => { h with pc := BitVec.ofNat 64 pc, pcause := 0, wait := .none }).advance cx

def insWgctlKill : Ins where
  a := fun _ => opd 1
  priv := true
  ok6 := fun l x => l.hnd && x.mf 24 23 = 2

def bodyWgctlKill : Body := fun e cx g f l d =>
  let t := srcA e.now g f cx.x 1
  if !wgctlTarget cx l t then d.illegal e cx
  else if ((g.fib? t).map (·.live)).getD false then (d.exitFib e cx.wg t).advance cx
  else d.advance cx

/-! ## Meanings -/

def execSysrd (x : X) : State → Host.Outcome State Fault Refusal := issue insSysrd bodySysrd (.sysrd x) x

def execSyswr (x : X) : State → Host.Outcome State Fault Refusal := issue insSyswr bodySyswr (.syswr x) x

def execTretRetry (x : X) : State → Host.Outcome State Fault Refusal := issue insTret bodyTretRetry (.tretRetry x) x

def execTretSkip (x : X) : State → Host.Outcome State Fault Refusal := issue insTret bodyTretSkip (.tretSkip x) x

def execTretAt (x : X) : State → Host.Outcome State Fault Refusal := issue insTretAt bodyTretAt (.tretAt x) x

def execTretKill (x : X) : State → Host.Outcome State Fault Refusal := issue insTret bodyTretKill (.tretKill x) x

def execTmaskCrit (x : X) : State → Host.Outcome State Fault Refusal := issue (insTmask false) bodyTmaskCrit (.tmaskCrit x) x

def execTmaskEnd (x : X) : State → Host.Outcome State Fault Refusal := issue (insTmask true) bodyTmaskEnd (.tmaskEnd x) x

def execCachex (x : X) : State → Host.Outcome State Fault Refusal := issue insPriv bodyCachex (.cachex x) x

def execMtuinvInv (x : X) : State → Host.Outcome State Fault Refusal := issue (insMtuinv false) (bodyMtuinv false) (.mtuinvInv x) x

def execMtuinvRel (x : X) : State → Host.Outcome State Fault Refusal := issue (insMtuinv true) (bodyMtuinv true) (.mtuinvRel x) x

def execFrmput (x : X) : State → Host.Outcome State Fault Refusal := issue insFrmput bodyFrmput (.frmput x) x

def execWgctlYield (x : X) : State → Host.Outcome State Fault Refusal := issue insWgctlYield bodyWgctlYield (.wgctlYield x) x

def execWgctlSetpc (x : X) : State → Host.Outcome State Fault Refusal := issue insWgctlSetpc bodyWgctlSetpc (.wgctlSetpc x) x

def execWgctlKill (x : X) : State → Host.Outcome State Fault Refusal := issue insWgctlKill bodyWgctlKill (.wgctlKill x) x

end Sys2Proof.Machine
end

