-- ==== Sys2Proof/Machine/Sched.lean ====
section
/-! DEFINITION. The hub scheduler: placement, budgets, deadlines, the resume bound, retirement, and the pool front end (spec/01,
R17 to R31, R47, R50; spec/18, R407; spec/19, R442 to R447). -/
namespace Sys2Proof.Machine

open Sys2Proof

/-! ## Contexts and ranges (R364, R407) -/

/-- The 64-byte context descriptor at an address. -/
def parseCtx (ia : Nat) (bs : List Byte) : Ctx :=
  let n (o k : Nat) : Nat := fieldN bs o k
  { ctxd := ia, tbase := n 0 8, tsize := n 8 4, ctxid := n 12 2 % 4096, sup := (n 14 1).testBit 0, fsvc := (n 14 1).testBit 1,
    sgtab := n 16 8, ranges := n 24 8, savep := n 32 8 }

/-- A context descriptor read at its address; none where the access does not succeed. -/
def Dev.readCtx (e : Env) (d : Dev) (ia : Nat) : Option Ctx := (d.iaBytes e ia 64).map (parseCtx ia)

/-- An entry of the range image, and whether it breaks a rule of R407. -/
def parseRange (fsvc : Bool) (bs : List Byte) : Range × Bool :=
  let vb := fieldN bs 0 8
  let vs := fieldN bs 8 8
  let ib := fieldN bs 16 8
  let bad := vb % 2 ^ 16 ≠ 0 || vaWide vb ≠ vb || vs % 2 ^ 16 ≠ 0 || ib % 2 ^ 16 ≠ 0 || ib ≥ 2 ^ 52 || ib + vs > 2 ^ 52 ||
    (ib + vs > 0xFF * 2 ^ 44 && !fsvc)
  if vs = 0 then ({}, false)
  else ({ vbase := va57 vb, vsize := vs, iabase := ib, on := !bad }, bad)

/-- The 16 range registers of a context, and the entries that break a rule. -/
def Dev.readRanges (e : Env) (d : Dev) (c : Ctx) : Option (List Range × List Nat) :=
  (d.iaBytes e c.ranges 512).map fun bs =>
    let rs := (List.range 16).map fun i => parseRange c.fsvc ((bs.drop (32 * i)).take 32)
    (rs.map (·.1), (List.range 16).filter fun i => ((rs.getD i ({}, false)).2))

/-- The ranges of a context for a unit that serves it; none enabled where the image cannot be read. -/
def Dev.ctxRanges (e : Env) (d : Dev) (c : Ctx) : List Range := ((d.readRanges e c).map (·.1)).getD []

/-! ## Room on a core (R18, R54) -/

def Dev.residents (d : Dev) (c : Nat) : List WG := d.wgs.filter fun g => g.core = c && g.place = .resident

def Dev.recOf (d : Dev) (g : WG) : Record := ((d.launch? g.launch).map (·.r)).getD {}

/-- The lowest free run of `w` words in a bank, given the runs in use. -/
def freeRunAt (used : List (Nat × Nat)) (w : Nat) : Option Nat :=
  ((List.range 128).map (8 * ·)).find? fun s => decide (s + w ≤ 1024) && used.all fun u => decide (s + w ≤ u.1) || decide (u.1 + u.2 ≤ s)

/-- The home lane of fibre `i`: the one it has, or the one a new fibre takes (R15). -/
def homeLane (lanes : List Nat) (i : Nat) : Nat := lanes.getD i (i % 32)

/-- Positions for fibres `i` upward, given their home lanes and the runs in use by quadrant and lane. -/
def placeFibs (w : Nat) (lanes : List Nat) : Nat → Nat → List (Nat × Nat × Nat) → Option (List Nat)
  | 0, _, _ => some []
  | n + 1, i, used =>
    let key := quadOf i * 32 + homeLane lanes i
    let mine := (used.filter fun u => u.1 = key).map (·.2)
    if mine.length ≥ 16 then none
    else
      match freeRunAt mine w with
      | none => none
      | some s => (placeFibs w lanes n (i + 1) ((key, s, w) :: used)).map (s :: ·)

/-- The lowest start of a free run of `n` of the `size` bytes of a vault, given the runs in use (R105). DEDUCED, log 31. -/
def freeSpan (used : List (Nat × Nat)) (size n : Nat) : Option Nat :=
  if n = 0 then some 0
  else
    (sortBy id (0 :: used.map fun u => u.1 + u.2)).find? fun s =>
      decide (s + n ≤ size) && used.all fun u => decide (s + n ≤ u.1) || decide (u.1 + u.2 ≤ s)

/-- What a work-group takes on a core: slot, residences, window positions, first vault byte. -/
structure Room where
  slot : Nat
  fslots : List Nat
  pos : List Nat
  vbase : Nat
  deriving DecidableEq, Repr

/-- The runs that residents of a core hold. -/
def Dev.runsOn (d : Dev) (c : Nat) : List (Nat × Nat × Nat) :=
  (d.residents c).flatMap fun g =>
    let w := (d.recOf g).w
    ((List.range g.fibs.length).zip g.fibs).map fun p => (quadOf p.1 * 32 + p.2.lane, p.2.pos, w)

/-- A slot, residences, positions and a run of vault rows on a core for a work-group of a record, if everything is free at once
(R18, R105). The spec asks for one free slot and F_cap free residences; that it is the lowest free slot, the lowest free residences
and the lowest free run is the model's choice (DESIGN CHOICE, log 31). -/
def Dev.room (d : Dev) (c : Nat) (r : Record) (lanes : List Nat) : Option Room :=
  let gs := d.residents c
  let slots := gs.map (·.slot)
  let used := gs.flatMap fun g => g.fibs.map (·.fslot)
  let a := gs.foldl (fun n g => n + (d.recOf g).a) 0
  if a + r.a > 512 || used.length + r.fcap > 2048 then none
  else
    match freeSpan ((gs.map fun g => (g.vbase, (d.recOf g).v)).filter fun u => u.2 ≠ 0) (2 ^ 22) r.v,
        (List.range 64).find? fun s => !slots.contains s with
    | some v, some s =>
      (placeFibs r.w lanes r.fcap 0 (d.runsOn c)).map fun ps =>
        { slot := s, fslots := ((List.range 2048).filter fun k => !used.contains k).take r.fcap, pos := ps, vbase := v }
    | _, _ => none

/-! ## Cores that may take a work-group (R22, R50, R293, R320, R442, R443) -/

def Dev.part (d : Dev) (p : Nat) : Partition := d.parts.getD p {}

/-- The core's feature word has every bit the launch asks for, and RASTER for pixel and mesh work. DEDUCED, log 31. -/
def featureOk (k : Core) (l : Launch) : Bool :=
  let need := if l.kind = .pixel || l.kind = .mesh then l.r.feat ||| 16#32 else l.r.feat
  decide (need &&& ~~~k.feature = 0#32)

/-- The partition lets its work on the core. -/
def Dev.coreAllowed (d : Dev) (l : Launch) (fsvc : Bool) (c : Nat) : Bool :=
  let p := d.part l.part
  p.on && p.cmask.getD c false && (!p.fsvc || fsvc) &&
  (List.range 16).all fun i => i = l.part || !((d.part i).on && (d.part i).fsvc && (d.part i).cmask.getD c false)

/-- Cores that a partition holds. -/
def Dev.heldCores (d : Dev) (p : Nat) : List Nat :=
  (d.wgs.filter fun g => g.place = .resident && d.partOf g = p).foldl (fun l g => insNat g.core l) []

/-- The cores an engine serves (R320). -/
def engineCores (eng : Nat) : List Nat := upFrom (256 * (eng / 8) + 32 * (eng % 8)) 32

/-- Budgets that do not depend on the core (R443). -/
def Dev.budgetOk (d : Dev) (l : Launch) : Bool :=
  let p := d.part l.part
  p.on && p.bw < p.bwq && p.est < p.pwr && d.hub.pest < d.hub.pwrlim

/-- Distinct cores for members with given home lanes: each takes the first that has room for it. -/
def Dev.assign (d : Dev) (r : Record) : List (List Nat) → List Nat → Option (List Nat)
  | [], _ => some []
  | ls :: rest, cs =>
    match cs.find? fun c => (d.room c r ls).isSome with
    | none => none
    | some c => (Dev.assign d r rest (cs.filter (· ≠ c))).map (c :: ·)

/-- Distinct cores of one cluster for members with given home lanes, within the partition's number of cores. DEDUCED, log 31. -/
def Dev.pickCores (d : Dev) (l : Launch) (fsvc : Bool) (eng : Option Nat) (lanes : List (List Nat)) (start : Nat) : Option (List Nat) :=
  let held := d.heldCores l.part
  let all := match eng with
    | some g => engineCores g
    | none => List.range 512
  let rot := all.drop (start % all.length) ++ all.take (start % all.length)
  let fit := rot.filter fun c => d.coreAllowed l fsvc c && featureOk (d.core c) l && lanes.any fun ls => (d.room c l.r ls).isSome
  let inCluster (k : Nat) : Option (List Nat) :=
    let cs := fit.filter fun c => c / 256 = k
    -- cores the partition holds already come first when its number is short
    let own := cs.filter held.contains
    let new := cs.filter fun c => !held.contains c
    let left := (d.part l.part).cores - held.length
    let use := if new.length ≤ left then cs else own ++ new.take left
    d.assign l.r lanes use
  match inCluster (start / 512 % 2) with
  | some cs => some cs
  | none => inCluster (1 - start / 512 % 2)

/-! ## Placing a work-group (R17, R59, R105, R387) -/

/-- The home lanes of a work-group: those of a suspended one stand (R15); a new one takes the lanes of its indices. -/
def WG.lanes (g : WG) : List Nat := if g.place = .suspended then g.fibs.map (·.lane) else []

/-- The work-group takes its slot, residences, positions and vault run on a core. One that moved there from another core acts as
after an acquire, so the core's L1 is emptied (R114, R138). DEDUCED, log 31. -/
def Dev.seat (e : Env) (d : Dev) (w c : Nat) (r : Record) (ctx : Ctx) (rng : List Range) : Dev :=
  let lanes := ((d.wg? w).map (·.lanes)).getD []
  let stays := ((d.wg? w).map fun g => decide (g.place = .suspended) && decide (g.core = c)).getD false
  match d.room c r lanes with
  | none => d
  | some m =>
    -- the first placement on a gated core starts 2,048 cc later (R481)
    let start := if (d.core c).gated then e.now + 2048 else e.now + 1
    let d := d.modWg w fun g =>
      { g with place := .resident, core := c, slot := m.slot, vbase := m.vbase, ctx := ctx, rng := rng, placedAt := e.now, fetched := [],
               blockedAt := none, faultAt := none, urgent := false,
               fibs := ((List.range g.fibs.length).zip g.fibs).map fun p =>
                 { p.2 with lane := homeLane lanes p.1, pos := m.pos.getD p.1 0, fslot := m.fslots.getD p.1 0, readyAt := start,
                            cand := false } }
    let d := d.modCore c fun k => { k with gated := false, idleAt := e.now }
    if stays then d else d.invalidateL1 c

/-- An event of kind 2 posted once for a launch and reason. -/
def Dev.blocked (e : Env) (d : Dev) (l : Launch) (why : Nat) (data : List Byte) : Dev :=
  if ((d.launch? l.id).map fun l => l.posted.contains why).getD true then d
  else (d.postEvent e 2 l.part l.ctx.ctxid data).modLaunch l.id fun l => { l with posted := why :: l.posted }

/-- The arguments at placement: words, or what keeps them from being read. DEDUCED, log 31. -/
def Dev.argsFor (e : Env) (d : Dev) (rs : List Range) (l : Launch) (w core : Nat) (fsvc : Bool) : Rd × Dev :=
  d.readArgs e rs { wg := w, core := core, unit := 6, fsvc := fsvc, own := some (l.ctx.ctxid, l.part) } l.r

/-- A work-group is placed on a core, or comes back there; false when its arguments still wait for a page. Poison
among them has `%tval` 0 (R375; DESIGN CHOICE, log 48). DEDUCED, log 31. -/
def Dev.placeOne (e : Env) (d : Dev) (w c : Nat) (l : Launch) (ctx : Ctx) (rng : List Range) (back : Bool) : Bool × Dev :=
  if back then (true, (d.seat e w c l.r ctx rng).resume e w)
  else if l.r.argn = 0 then (true, d.seat e w c l.r ctx rng)
  else
    match d.argsFor e rng l w c ctx.fsvc with
    | (.wait _, d) => (false, d)
    | (.ok bs bad, d) =>
      let ws := wordsOfBytes bs
      let k := ws ++ List.replicate (64 - ws.length) 0#32
      let d := (d.seat e w c l.r ctx rng).modWg w fun g => { g with k := k, kOld := k, kp := k }
      (true, if bad then d.consume w 0 0 else d)
    | (.lost cause va, d) => (true, (d.seat e w c l.r ctx rng).async w 0 cause (vaWide va))

/-- Cores that could serve a launch's work at all: those of its partition, and of its engine. -/
def Dev.candidates (d : Dev) (l : Launch) (eng : Option Nat) : List Nat :=
  ((eng.map engineCores).getD (List.range 512)).filter fun c => (d.part l.part).cmask.getD c false

/-- Some cluster has `n` of the cores, each with a property. -/
def enough (cs : List Nat) (n : Nat) (p : Nat → Bool) : Bool :=
  (List.range 2).any fun k => decide (n ≤ (cs.filter fun c => c / 256 = k && p c).length)

/-- Feature bits that work of a launch needs (R50, R293). -/
def Launch.need (l : Launch) : Word := if l.kind = .pixel || l.kind = .mesh then l.r.feat ||| 16#32 else l.r.feat

/-- Cores with every bit exist for `n` members (R50). -/
def Dev.suitable (d : Dev) (l : Launch) (eng : Option Nat) (n : Nat) : Bool :=
  enough (d.candidates l eng) n fun c => featureOk (d.core c) l

/-- The missing bits: needed bits that too few cores have; where each alone stands on enough cores, the needed bits that some core
lacks. DEDUCED, log 31. -/
def Dev.missingBits (d : Dev) (l : Launch) (eng : Option Nat) (n : Nat) : Word :=
  let cs := d.candidates l eng
  let pick (p : Nat → Bool) : Word := (List.range 32).foldl (fun w b => if l.need.getLsbD b && p b then w ||| (1#32 <<< b) else w) 0#32
  let alone := pick fun b => !enough cs n fun c => (d.core c).feature.getLsbD b
  if alone ≠ 0#32 then alone else pick fun b => cs.any fun c => !(d.core c).feature.getLsbD b

/-- All the members are placed, or none. -/
def Dev.placeAll (e : Env) (l : Launch) (ctx : Ctx) (rng : List Range) (back : Bool) : List (Nat × Nat) → Dev → Bool × Dev
  | [], d => (true, d)
  | (w, c) :: r, d =>
    match d.placeOne e w c l ctx rng back with
    | (false, d) => (false, d)
    | (true, d) => Dev.placeAll e l ctx rng back r d

/-- The members of a cohort, or a pass's pixel work-groups on one engine, are placed on cores, if every rule allows. -/
def Dev.tryPlace (e : Env) (d : Dev) (l : Launch) (ws : List Nat) (eng : Option Nat) (back : Bool) : Bool × Dev :=
  let ctxid := l.ctx.ctxid
  if !d.budgetOk l then (false, d)
  else if Table.get 0 d.hub.tagq ctxid = 0 then (false, d.blocked e l 1 [])
  else
    let n := if l.kind = .pixel then 1 else ws.length
    if (d.part l.part).on && !d.suitable l eng n then
      (false, d.blocked e l 2 (leBytes 4 (d.missingBits l eng n).toNat))
    else
      match d.readCtx e l.ctx.ctxd with
      | none => (false, d.blocked e l 4 (leBytes 8 l.ctx.ctxd))
      | some ctx =>
        match d.readRanges e ctx with
        | none => (false, d.blocked e l 5 (leBytes 8 ctx.ranges))
        | some (rng, bad) =>
          let (start, d1) := d.choose 1024
          let lanes := ws.map fun w => ((d1.wg? w).map (·.lanes)).getD []
          let cores : Option (List Nat) := if eng.isSome then none else d1.pickCores l ctx.fsvc none lanes start
          match cores, d1 with
          | some cs, d2 =>
            (match Dev.placeAll e l ctx rng back (ws.zip cs) d2 with
             | (true, d3) => (true, bad.foldl (fun d i => d.postEvent e 2 l.part ctxid (leBytes 8 i)) d3)
             | (false, d3) => (false, { d3 with wgs := d2.wgs, cores := d2.cores }))
          | none, _ =>
            -- members that need no distinct cores: one after another on the cores of their engine
            if eng.isNone then (false, d)
            else
              let r := ws.foldl (fun (acc : Bool × Dev) w =>
                if !acc.1 then acc
                else
                  match acc.2.pickCores l ctx.fsvc eng [((acc.2.wg? w).map (·.lanes)).getD []] start with
                  | some (c :: _) => acc.2.placeOne e w c l ctx rng back
                  | _ => (false, acc.2)) (true, d1)
              if r.1 then (true, bad.foldl (fun d i => d.postEvent e 2 l.part ctxid (leBytes 8 i)) r.2)
              else (false, { r.2 with wgs := d1.wgs, cores := d1.cores, ops := d1.ops, saveRuns := d1.saveRuns })

/-! ## What is offered (R27, R444) -/

/-- The rank of a launch's work, lower first: deadlines, then priority, then submission. -/
def rankKey (l : Launch) : Nat := (if l.r.deadline ≠ 0 then l.r.deadline else 2 ^ 64 + (7 - l.prio)) * 2 ^ 64 + l.seq

inductive Offer where
  /-- The next cohort of a grid or mesh launch. -/
  | next (l : Nat)
  /-- A formed work-group of a pool or a pass. -/
  | formed (w : Nat)
  /-- Suspended work-groups that come back together. -/
  | back (ws : List Nat)
  deriving DecidableEq, Repr

/-- The suspended work-groups that must come back with `g`. -/
def Dev.backWith (d : Dev) (g : WG) : List WG := d.wgs.filter fun h => h.place = .suspended && g.joined h

/-- None of those is still being stopped or saved: they come back together (R22, R305). -/
def Dev.allBack (d : Dev) (g : WG) : Bool := !d.wgs.any fun h => h.place = .resident && h.image.isSome && g.joined h

/-- A formed pixel work-group waits while others of its pass and engine are suspended or being saved (R305). -/
def Dev.behindSuspended (d : Dev) (g : WG) : Bool :=
  g.kind = .pixel && d.wgs.any fun h => (h.place = .suspended || (h.place = .resident && h.image.isSome)) && g.joined h

def Dev.offers (d : Dev) : List Offer :=
  let key (g : WG) : Nat := ((d.launch? g.launch).map rankKey).getD 0
  let nexts := (d.launches.filter fun l => (l.kind = .grid || l.kind = .mesh) && l.next < l.total && !l.held && !l.aborted).map fun l =>
    (rankKey l + 1, Offer.next l.id)
  let waits := (d.wgs.filter fun g => g.place = .waiting && !d.behindSuspended g).map fun g => (key g + 1, Offer.formed g.id)
  let sus := (d.wgs.filter fun g => g.place = .suspended && d.allBack g && ((d.backWith g).map (·.id)).head? = some g.id).map fun g =>
    (if g.urgent then 0 else key g + 1, Offer.back ((d.backWith g).map (·.id)))
  (sortBy (fun p => p.1) (sus ++ nexts ++ waits)).map (·.2)

/-- The next cohort of a launch, formed but not placed. -/
def Dev.formNext (d : Dev) (l : Launch) : List Nat × Dev :=
  let m := l.r.members
  (List.range m).foldl (fun (acc : List Nat × Dev) i =>
    let n := l.next + i
    let (id, d) := acc.2.takeId
    let fs := List.replicate l.r.fstart (newFib l.r 0#64 l.r.priv [])
    let g := newWg l id n (l.r.widOf n l.dev) i (n / m) fs
    (acc.1 ++ [id], { d with wgs := d.wgs ++ [g] })) ([], d)

/-- Cohorts of a launch placed in ascending order while there is room. -/
def Dev.placeLaunch (e : Env) (lid : Nat) : Nat → Dev → Dev
  | 0, d => d
  | fuel + 1, d =>
    match d.launch? lid with
    | none => d
    | some l =>
      if l.next ≥ l.total then d
      else
        let f := d.formNext l
        match f.2.tryPlace e l f.1 none false with
        | (true, d') =>
          Dev.placeLaunch e lid fuel (d'.modLaunch lid fun l => { l with next := l.next + l.r.members, formed := l.formed + l.r.members })
        | (false, d') => { d' with wgs := d'.wgs.filter fun g => !f.1.contains g.id }

/-- One offer. -/
def Dev.take (e : Env) (d : Dev) (o : Offer) : Dev :=
  match o with
  | .next l => Dev.placeLaunch e l 2048 d
  | .formed w =>
    match d.wg? w with
    | none => d
    | some g =>
      match d.launch? g.launch with
      | some l => if d.behindSuspended g then d else (d.tryPlace e l [w] g.eng false).2
      | none => d
  | .back ws =>
    match ws.head?.bind d.wg? with
    | none => d
    | some g =>
      match d.launch? g.launch with
      | some l => (d.tryPlace e l ws g.eng true).2
      | none => d

/-! ## Deadlines (R445) -/

/-- T_pre of the residents of a core (R385). -/
def Dev.tpre (d : Dev) (c : Nat) : Nat :=
  let s := (d.residents c).foldl (fun n g =>
    match d.launch? g.launch with
    | some l => n + swg l l.meshBytes (d.entryCount g)
    | none => n) 0
  24 + (s + 255) / 256 + 64

/-- Work of a launch that waits for a core: work-groups formed, and cohorts to come. -/
def Dev.wants (d : Dev) (l : Launch) : List WG := d.wgs.filter fun g => g.launch = l.id && g.place = .waiting

/-- Every cohort of a launch still to come has room. -/
def Dev.fitsCohorts (e : Env) : Nat → Launch → Dev → Bool
  | 0, _, _ => false
  | fuel + 1, l, d =>
    if l.next ≥ l.total then true
    else
      let f := d.formNext l
      match f.2.pickCores l l.ctx.fsvc none (List.replicate l.r.members []) 0 with
      | none => false
      | some cs =>
        Dev.fitsCohorts e fuel { l with next := l.next + l.r.members }
          ((f.1.zip cs).foldl (fun d p => d.seat e p.1 p.2 l.r l.ctx []) f.2)

/-- Every work-group that a launch has formed has room. -/
def Dev.fitsFormed (e : Env) (l : Launch) : List WG → Dev → Option Dev
  | [], d => some d
  | g :: r, d =>
    match d.pickCores l l.ctx.fsvc g.eng [[]] 0 with
    | some (c :: _) => Dev.fitsFormed e l r (d.seat e g.id c l.r l.ctx [])
    | _ => none

/-- The launch could be placed once `out`, and what is being stopped already, were gone. A module holds at most 512 · 64 work-groups. -/
def Dev.fitsWithout (e : Env) (d : Dev) (l : Launch) (out : List Nat) : Bool :=
  let d := { d with wgs := d.wgs.filter fun g => !(out.contains g.id || (decide (g.place = .resident) && g.image.isSome)) }
  d.budgetOk l &&
  match Dev.fitsFormed e l (d.wants l) d with
  | none => false
  | some d => decide (l.kind ≠ .grid ∧ l.kind ≠ .mesh) || Dev.fitsCohorts e 32769 l d

/-- Victims below the launch, lowest rank first and latest placed first among equals, cohorts and passes whole, and those for which no run of
the save pool was left (R447). -/
def Dev.victims (e : Env) (l : Launch) : List WG → Dev → List Nat → List WG → List Nat × List WG
  | [], _, out, none_ => (out, none_)
  | g :: rest, d, out, none_ =>
    if d.fitsWithout e l out then (out, none_)
    else if out.contains g.id then Dev.victims e l rest d out none_
    else
      match Dev.takeRuns e (d.stopsWith g) d with
      | (some _, d') => Dev.victims e l rest d' (out ++ ((d.stopsWith g).map (·.id))) none_
      | (none, _) => Dev.victims e l rest d out (none_ ++ [g])

/-- An event of a kind about a launch, once. -/
def Dev.postOnce (e : Env) (d : Dev) (l : Launch) (kind why : Nat) : Dev :=
  if ((d.launch? l.id).map fun l => l.posted.contains why).getD true then d
  else (d.postEvent e kind l.part l.ctx.ctxid []).modLaunch l.id fun l => { l with posted := why :: l.posted }

/-- A deadline launch that cannot be placed takes the cores of lower work in time. DEDUCED, log 31. -/
def Dev.deadlineStep (e : Env) (d : Dev) (l : Launch) : Dev :=
  let key (g : WG) : Nat := ((d.launch? g.launch).map rankKey).getD 0
  let low := d.wgs.filter fun g => g.place = .resident && g.image.isNone && g.halt ≠ .debug && key g > rankKey l
  -- highest key first; among equals the latest placed first
  let order := (sortBy (fun g => key g * 2 ^ 64 + g.placedAt) low).reverse
  let (out, none_) := Dev.victims e l order d [] []
  let tv := (out.filterMap d.wg?).foldl (fun n g => max n (d.tpre g.core)) 0
  if e.now + 64 + l.r.pred + tv < l.r.deadline then d
  else
    let firsts := (out.filterMap d.wg?).filter fun g => ((d.stopsWith g).map (·.id)).head? = some g.id
    let d := if none_.isEmpty then d else d.postOnce e l 4 6
    let fits := d.fitsWithout e l out
    let d := firsts.foldl (fun d g => d.preemptRequest e g.id) d
    if fits then d else d.postOnce e l 3 3

/-- A launch with a deadline has work to be placed. -/
def Dev.urgentWork (d : Dev) (l : Launch) : Bool :=
  l.r.deadline ≠ 0 && !l.held && !l.aborted && (((l.kind = .grid || l.kind = .mesh) && decide (l.next < l.total)) || !(d.wants l).isEmpty)

/-- SCHEDULING_STEP: measurements, placement in rank order, then deadlines. DEDUCED, log 31. -/
def Dev.schedStep (e : Env) (d : Dev) : Dev :=
  let d := (List.range 16).foldl (fun (d : Dev) i =>
    let (b, d) := d.choose 1025
    let (p, d) := d.choose 1601
    { d with parts := modAt (fun (q : Partition) => { q with bw := b, est := p }) d.parts i }) d
  let (n, d) := d.choose 1601
  let d := d.modHub fun h => { h with pest := n }
  let d := d.offers.foldl (fun d o => d.take e o) d
  (d.launches.filter d.urgentWork).foldl (fun d l => d.deadlineStep e l) d

/-! ## The resume bound and the fault swap (R446, R47) -/

/-- SPIN_WINDOW_EXPIRY: work-group. The highest-ranked suspended peer, the longest suspended among equals, comes back next. -/
def Dev.spinExpiry (e : Env) (d : Dev) (w : Nat) : Dev :=
  match d.wg? w with
  | none => d
  | some b =>
    match d.launch? b.launch with
    | none => d
    | some lb =>
      let late := match b.blockedAt with
        | some t => decide (t + d.hub.spinw ≤ e.now) && decide (d.hub.spinw ≠ 0)
        | none => false
      let rank (g : WG) : Nat := match d.launch? g.launch with
        | some l => (if l.r.deadline ≠ 0 then l.r.deadline else 2 ^ 64 + (7 - l.prio))
        | none => 2 ^ 70
      let rb := if lb.r.deadline ≠ 0 then lb.r.deadline else 2 ^ 64 + (7 - lb.prio)
      let peers := d.wgs.filter fun g => g.place = .suspended && g.ctx.ctxid = b.ctx.ctxid && rank g ≤ rb && d.allBack g
      if !late || b.place ≠ .resident || b.halt ≠ .none then d
      else
        match minBy (fun g => rank g * 2 ^ 64 + g.suspendedAt) peers with
        | none => d
        | some s =>
          let ws := (d.backWith s).map (·.id)
          let d := d.modWg w fun g => { g with blockedAt := some e.now }
          match d.launch? s.launch with
          | none => d
          | some l =>
            match d.tryPlace e l ws s.eng true with
            | (true, d) => d
            | (false, d) =>
              let d := ws.foldl (fun d i => d.modWg i fun g => { g with urgent := true }) d
              if d.budgetOk l then d.preemptRequest e w else d

/-- A ready work-group of equal or higher priority waits for a core: work of launch `m` may stand there, and would have room once
`g` is gone. DEDUCED, log 31. -/
def Dev.couldTake (d : Dev) (g : WG) (l m : Launch) (eng : Option Nat) (lanes : List Nat) : Bool :=
  rankKey m / 2 ^ 64 ≤ rankKey l / 2 ^ 64 && d.coreAllowed m m.ctx.fsvc g.core && featureOk (d.core g.core) m &&
  ((eng.map engineCores).getD [g.core]).contains g.core &&
  (Dev.room { d with wgs := d.wgs.filter fun h => h.id ≠ g.id } g.core m.r lanes).isSome

def Dev.someoneWaits (d : Dev) (g : WG) (l : Launch) : Bool :=
  (d.launches.any fun m => (m.kind = .grid || m.kind = .mesh) && m.next < m.total && !m.held && !m.aborted && d.couldTake g l m none []) ||
  d.wgs.any fun h => ((h.place = .waiting && !d.behindSuspended h) || (h.place = .suspended && d.allBack h)) &&
    (((d.launch? h.launch).map fun m => d.couldTake g l m h.eng h.lanes).getD false)

/-- A fibre is blocked on a page fault: on words or predicates of an operation that waits on a pending page, on the result of such
an operation, or on a fence held by parked operations (R47). -/
def Dev.faultBlocked (d : Dev) (w i : Nat) (f : Fib) : Bool :=
  let onPage (o : Op) : Bool := o.wg = w && o.fib = i && (o.heldOn.isSome || o.parts.any fun p => p.st = .held || p.st = .fill)
  match f.wait with
  | .words ws ps => d.ops.any fun o => onPage o && (ws.any (fun k => o.dst ≤ k && k < o.dst + o.dn) || o.dxp.any ps.contains)
  | .op id => d.ops.any fun o => onPage o && o.id = id
  | .ops _ p => p && d.parksOpen w i
  | _ => false

/-- FAULT_SWAP_THRESHOLD: work-group. It may be swapped out or stay. DEDUCED, log 31. -/
def Dev.faultSwap (e : Env) (d : Dev) (w : Nat) : Dev :=
  match d.wg? w with
  | none => d
  | some g =>
    match d.launch? g.launch, g.faultAt with
    | some l, some t =>
      let all := ((List.range g.fibs.length).zip g.fibs).all fun p => !p.2.live || d.faultBlocked w p.1 p.2
      if g.place = .resident && g.halt = .none && t + d.hub.fswap < e.now && all && d.someoneWaits g l then
        let (c, d) := d.choose 2
        if c = 1 then d.preemptRequest e w else d
      else d
    | _, _ => d

/-! ## Retirement (R20) -/

/-- Every fibre has exited and nothing of the work-group is outstanding. -/
def Dev.retirable (d : Dev) (g : WG) : Bool :=
  g.place = .resident && g.fibs.all (fun f => !f.live) && g.mops.isEmpty && g.ending.isNone && g.asyncs.isEmpty &&
  !d.ops.any fun o => o.wg = g.id && !(o.discard && o.kind.pure_)

/-- WORKGROUP_RETIRE: work-group. Its slot and resources are free; a mesh work-group's buffer goes to its raster engine. -/
def Dev.wgRetire (e : Env) (d : Dev) (w : Nat) : Dev :=
  match d.wg? w with
  | none => d
  | some g =>
    if !d.retirable g then d
    else
      let d := match g.image with
        | some (ia, _) => d.freeRun g.ctx.savep ia
        | none => d
      let l := d.launch? g.launch
      let ps := l.bind fun l => d.pass? l.pass
      let taken := match ps with
        | some p => p.draws.head? ≠ some g.launch && !p.draws.contains g.launch || (p.draws.head? = some g.launch && g.gidx < p.nextMesh)
        | none => true
      let d := { d with ops := d.ops.filter fun o => o.wg ≠ w }
      let d := if g.kind = .mesh && !taken then d.modWg w fun g => { g with place := .retired }
        else { d with wgs := d.wgs.filter fun h => h.id ≠ w }
      let d := match g.kind, ps with
        | .pixel, some p => d.modPass p.id fun p => { p with numbers := p.numbers.filter (· ≠ g.gidx) }
        | _, _ => d
      let d := d.modLaunch g.launch fun l => { l with retired := l.retired + 1 }
      if (d.residents g.core).isEmpty then d.modCore g.core fun k => { k with idleAt := e.now } else d

/-! ## The pool front end (R28 to R32, R439) -/

/-- Who asks for the queue engine's accesses for a launch. -/
def Launch.asker (l : Launch) : Asker := { wg := 0, core := 0, unit := 6, own := some (l.ctx.ctxid, l.part), fsvc := l.ctx.fsvc }

/-- The pseudo line under which the queue engine's tag table knows a pool (R393). -/
def poolLine (l : Launch) : Nat := 2 ^ 45 + l.id

/-- A `cont` of the launch may enter the ring: every older operation of its fibre is performed. -/
def Dev.contReady (e : Env) (d : Dev) (l : Launch) (o : Op) : Bool :=
  o.kind = .cont && !o.frozen && o.due ≤ e.now && ((d.wg? o.wg).map (·.launch)) = some l.id &&
  !d.olderOpen o.wg o.fib o.id && !d.parksOpen o.wg o.fib &&
  !(d.ops.any fun q => q.kind = .cont && q.wg = o.wg && q.fib = o.fib && q.id < o.id)

/-- The record of a `cont` is written behind the ring's last, once for its tag. -/
def Dev.contAppend (e : Env) (d : Dev) (l : Launch) (o : Op) : Dev :=
  let endOp (d : Dev) : Dev := (d.dropOp o.id).retireTag e o.core o.tag
  match d.tagEnt? o.tag (poolLine l) with
  | some _ => endOp d
  | none =>
    let at_ := l.poolBase + 32 * (l.poolPut % 2 ^ l.poolLog)
    match Dev.writeG e (d.ctxRanges e l.ctx) l.asker (noOp l.asker) 2 d (va57 at_) (bytesOfWords o.st) with
    | (.wait _, d) => d
    | (_, d) =>
      endOp ((d.registerTag o.tag (poolLine l) 0 []).modLaunch l.id fun l => { l with poolPut := l.poolPut + 1 })

/-- A work-group formed from a bin, unless its field-1 value is still held (R30). -/
def Dev.formBin (d : Dev) (lid b : Nat) : Bool × Dev :=
  match d.launch? lid with
  | none => (false, d)
  | some l =>
    match l.bins[b]? with
    | none => (false, d)
    | some bin =>
      let n := l.formed % l.r.ext 1
      if bin.recs.isEmpty then (true, d)
      else if d.wgs.any fun g => g.launch = lid && g.gidx = n && g.place ≠ .retired then (false, d)
      else
        let fs := bin.recs.map fun r => newFib l.r ((r.headD 0#32).setWidth 64) l.r.priv (r.drop 1)
        let (id, d) := d.takeId
        let g := newWg l id n (l.r.widOf n l.dev) 0 l.formed fs
        (true, { d with wgs := d.wgs ++ [g] }.modLaunch lid fun l =>
          { l with formed := l.formed + 1, total := l.total + 1, next := l.next + 1, bins := putAt { recs := [] } l.bins b })

/-- A record joins the bin of its PCOFF, else the lowest empty bin; with none empty the fullest forms first (R29). False while
the record has no place. DEDUCED, log 31. -/
def Dev.binRecord (e : Env) (d : Dev) (l : Launch) (r : List Word) : Bool × Dev :=
  let off := r.headD 0#32
  let bins := l.bins ++ List.replicate (64 - l.bins.length) { recs := [] }
  let put (d : Dev) (bs : List Bin) (i : Nat) : Dev :=
    d.modLaunch l.id fun l =>
      { l with bins := modAt (fun b =>
          if b.recs.isEmpty then { pcoff := off, recs := [r], since := e.now } else { b with recs := b.recs ++ [r] }) bs i }
  match bins.findIdx? fun b => !b.recs.isEmpty && b.pcoff = off with
  | some i => if (bins.getD i { recs := [] }).recs.length ≥ l.r.fcap then (false, d) else (true, put d bins i)
  | none =>
    match bins.findIdx? fun b => b.recs.isEmpty with
    | some i => (true, put d bins i)
    | none =>
      let most := bins.foldl (fun n b => max n b.recs.length) 0
      match bins.findIdx? fun b => b.recs.length = most with
      | none => (false, d)
      | some i =>
        match (d.modLaunch l.id fun l => { l with bins := bins }).formBin l.id i with
        | (false, d) => (false, d)
        | (true, d) =>
          match d.launch? l.id with
          | some l => (true, put d l.bins i)
          | none => (true, d)

/-- POOL_RECORD_ARRIVAL: launch. Records of `cont` enter the ring, then one record, initial ones first, goes to a bin.
DEDUCED, log 32. -/
def Dev.poolArrival (e : Env) (d : Dev) (lid : Nat) : Dev :=
  match d.launch? lid with
  | none => d
  | some l0 =>
    let os := d.ops.filter fun o => d.contReady e l0 o
    let d := os.foldl (fun d o =>
      match d.launch? lid with
      | some l => d.contAppend e l o
      | none => d) d
    match d.launch? lid with
    | none => d
    | some l =>
      let fresh := decide (l.initGet < l.initN)
      if l.kind ≠ .pool || l.held || (!fresh && l.poolGet ≥ l.poolPut) then d
      else
        let at_ := if fresh then l.initBase + 32 * l.initGet else l.poolBase + 32 * (l.poolGet % 2 ^ l.poolLog)
        match Dev.readG e (d.ctxRanges e l.ctx) l.asker 2 d (va57 at_) 32 with
        | (.wait _, d) => d
        | (r, d) =>
          let bs := match r with
            | .ok bs _ => bs
            | _ => List.replicate 32 0#8
          match d.binRecord e l (wordsOfBytes bs) with
          | (false, d) => d
          | (true, d) =>
            d.modLaunch lid fun l => if fresh then { l with initGet := l.initGet + 1 } else { l with poolGet := l.poolGet + 1 }

/-- The pool has drained: it holds no records and every fibre of the launch has exited. -/
def Dev.drained (d : Dev) (l : Launch) : Bool :=
  d.poolCount l = 0 && !d.wgs.any fun g => g.launch = l.id && g.fibs.any (·.live)

/-- BIN_AGE_LIMIT: launch and bin. -/
def Dev.binAge (e : Env) (d : Dev) (lid b : Nat) : Dev :=
  match (d.launch? lid).bind fun l => (l.bins[b]?).map fun bin => (l, bin) with
  | some (l, bin) => if !bin.recs.isEmpty && bin.since + l.r.binage ≤ e.now then (d.formBin lid b).2 else d
  | none => d

/-- POOL_WORKGROUP_FORM: launch and bin, full or of a drained pool. -/
def Dev.poolForm (d : Dev) (lid b : Nat) : Dev :=
  match (d.launch? lid).bind fun l => (l.bins[b]?).map fun bin => (l, bin) with
  | some (l, bin) => if bin.recs.length ≥ l.r.fcap || (!bin.recs.isEmpty && d.drained l) then (d.formBin lid b).2 else d
  | none => d

/-! ## Meanings -/

def execSchedulingStep : State → Host.Outcome State Fault Refusal := event fun e d => d.schedStep e

def execSpinWindowExpiry : State → Host.Outcome State Fault Refusal := event fun e d => d.spinExpiry e d.arg.a

def execFaultSwapThreshold : State → Host.Outcome State Fault Refusal := event fun e d => d.faultSwap e d.arg.a

def execWorkgroupRetire : State → Host.Outcome State Fault Refusal := event fun e d => d.wgRetire e d.arg.a

def execPoolRecordArrival : State → Host.Outcome State Fault Refusal := event fun e d => d.poolArrival e d.arg.a

def execBinAgeLimit : State → Host.Outcome State Fault Refusal := event fun e d => d.binAge e d.arg.a d.arg.b

def execPoolWorkgroupForm : State → Host.Outcome State Fault Refusal := event fun _ d => d.poolForm d.arg.a d.arg.b

end Sys2Proof.Machine
end

