-- ==== Sys2Proof/Machine/Hub.lean ====
section
/-! DEFINITION. The hub register space, the measurement registers and the debugger's requests (spec/19, R427 to R429; spec/17, R395,
R404, R405; spec/18, R426; spec/20, R467, R468; spec/21, R476, R482). -/
namespace Sys2Proof.Machine

open Sys2Proof

/-! ## Registers as 64-bit words -/

/-- The bits of `v` in the mask's places, the others zero. -/
def keepBits (mask v : Nat) : DWord := BitVec.ofNat 64 v &&& BitVec.ofNat 64 mask

/-- The mask of bits [h:l]. -/
def maskOf (h l : Nat) : Nat := 2 ^ (h + 1) - 2 ^ l

/-- Bytes `8 i` to `8 i + 7` of a 512-bit register. -/
def part512 (v : BitVec 512) (i : Nat) : DWord := (v >>> (64 * i)).setWidth 64

/-- The same bytes replaced. -/
def setPart512 (v : BitVec 512) (i : Nat) (w : DWord) : BitVec 512 :=
  (v &&& ~~~((BitVec.ofNat 512 (2 ^ 64 - 1)) <<< (64 * i))) ||| ((w.setWidth 512) <<< (64 * i))

def Dev.linkst (d : Dev) : DWord :=
  BitVec.ofNat 64 (bitsN d.hub.linkst.toNat 39 8 * 2 ^ 8 +
    (List.range 8).foldl (fun s i => if (d.links.getD i {}).up then s + 2 ^ i else s) 0)

def Dev.cxlcapReg (d : Dev) (p : Nat) : DWord :=
  BitVec.ofNat 64 (d.hub.cxlcap.getD p 0 / 2 ^ 16 % 2 ^ 25 * 2 ^ 16 + if d.hub.cxlup.getD p false then 1 else 0)

/-- What a firmware hart reads at a hub offset aligned to 8 (R427): an offset not named, or a WO register, reads zero.
DEDUCED, log 37. -/
def Dev.hartReg (d : Dev) (off : Nat) : DWord :=
  let h := d.hub
  if off = 0 then
    BitVec.ofNat 64 (Config.fusedSvn.toNat * 2 ^ 32 + h.bootReason % 256 * 2 ^ 8 + h.bootState % 16)
  else if 0x100 ≤ off && off < 0x300 then part512 (h.mr.getD ((off - 0x100) / 64) 0#512) (off % 64 / 8)
  else if off = 0x300 then (if h.mrctlBusy then BitVec.ofNat 64 (2 ^ 31) else 0#64)
  else if off = 0x400 then BitVec.ofNat 64 (h.tmax % 2 ^ 16 * 2 ^ 32 + min (8 * h.pest) (2 ^ 16 - 1) * 2 ^ 16 + h.pin % 2 ^ 16)
  else if off = 0x408 then BitVec.ofNat 64 h.pwrlim
  else if off = 0x410 then BitVec.ofNat 64 (min h.eccu (2 ^ 32 - 1) * 2 ^ 32 + min h.ecce (2 ^ 32 - 1))
  else if 0x420 ≤ off && off < 0x440 then d.cxlcapReg ((off - 0x420) / 8)
  else if 0x40000 ≤ off && off < 0x44000 then
    let n := (off - 0x40000) / 4
    BitVec.ofNat 64 (Table.get 0 h.tagq n + 2 ^ 32 * Table.get 0 h.tagq (n + 1))
  else if off = 0x50000 then h.ptroot
  else if off = 0x50008 then h.fmbase
  else if off = 0x50010 then h.fqbase
  else if off = 0x50018 then h.cairnctl
  else if off = 0x50020 then BitVec.ofNat 64 (d.fifoL.length % 2 ^ 7 * 2 ^ 16 + d.fifoS.length % 2 ^ 14)
  else if off = 0x60000 then h.qdbase
  else if off = 0x60008 then h.evbase
  else if off = 0x60010 then BitVec.ofNat 64 h.evput
  else if off = 0x60018 then BitVec.ofNat 64 h.spinw
  else if off = 0x60020 then BitVec.ofNat 64 h.eqtmo
  else if off = 0x60028 then h.domcfg
  else if off = 0x60030 then BitVec.ofNat 64 h.gencnt
  else if off = 0x60038 then h.dbgreq
  else if off = 0x60100 then h.peercfg
  else if off = 0x60108 then d.linkst
  else if off = 0x60140 then h.dspbase
  else if 0x60200 ≤ off && off < 0x60280 then h.peerrt.getD ((off - 0x60200) / 8) 0#64
  else 0#64

/-- What the host reads through BAR0: four registers, every other as zero, and all of them zero until the image runs (R427,
R472). -/
def Dev.hostReg (d : Dev) (off : Nat) : DWord :=
  if d.hub.bootState = 3 && (off = 0x60000 || off = 0x60008 || off = 0x60010 || off = 0x60038) then d.hartReg off else 0#64

/-! ## The host's writes to memory -/

/-- A write of the host at an intermediate address of the direct window (R409). -/
def Dev.hostPut (e : Env) (d : Dev) (ia : Nat) (bs : List Byte) : Dev := (Dev.iaWrite e (linesOf bs.length) ia bs d).2

/-! ## Events of the firmware harts (R452) -/

/-- An event word joins the queues of harts that take events; firmware chooses which (R452). UNVERIFIED, log 38. -/
def Dev.hartEvent (d : Dev) (src payload : Nat) : Dev :=
  (List.range 8).foldl (fun (d : Dev) i =>
    if (d.hart i).evEn then
      let (c, d) := d.choose 2
      if c = 0 then d.modHart i fun h => { h with evq := h.evq ++ [BitVec.ofNat 64 (src * 2 ^ 56 + payload % 2 ^ 56)] } else d
    else d) d

/-! ## Measurement (R476) -/

/-- The bytes of a 512-bit register, the lowest first. -/
def bytes512 (v : BitVec 512) : List Byte := leBytes 64 v.toNat

/-- MR_EXTEND: i. A write of 0, or while an extension runs, is ignored. DESIGN CHOICE, log 7; DEDUCED, log 37. -/
def Dev.mrExtend (d : Dev) (i : Nat) : Dev :=
  let i := i % 8
  if i = 0 || d.hub.mrctlBusy then d
  else
    d.modHub fun h =>
      { h with mr := modAt (fun m => Config.sha3_512 (bytes512 m ++ bytes512 h.mrdata)) h.mr i }

/-! ## The debugger (R404, R405, R428) -/

/-- The resident work-group that a request names. -/
def Dev.dbgWg (d : Dev) : Option WG :=
  let v := d.hub.dbgreq.toNat
  d.wgs.find? fun g => g.place = .resident && g.ctx.ctxid = bitsN v 43 32 && g.core = bitsN v 24 16 && g.slot = bitsN v 5 0

def Dev.dbgStat (d : Dev) : Nat := bitsN d.hub.dbgreq.toNat 63 62

def Dev.setDbgStat (d : Dev) (stat : Nat) : Dev :=
  d.modHub fun h => { h with dbgreq := BitVec.ofNat 64 (h.dbgreq.toNat % 2 ^ 62 + stat * 2 ^ 62) }

/-- A work-group begins its debugger halt, unless another halt stands. -/
def Dev.beginDebug (e : Env) (d : Dev) (g : WG) : Dev :=
  if g.halt = .none || (g.halt = .trap && g.handling) then
    let (n, d) := d.choose 5
    d.modWg g.id fun g => { g with halt := .debug, haltAt := e.now, skidMax := n, stopped := false, frozen := false }
  else d

/-- A halt request goes on: refused where its work-group is gone, done where it stands halted already.
DEDUCED, log 39. -/
def Dev.dbgPoll (e : Env) (d : Dev) : Dev :=
  if d.dbgStat ≠ 1 || bitsN d.hub.dbgreq.toNat 57 56 ≠ 0 then d
  else
    match d.dbgWg with
    | none => d.setDbgStat 3
    | some g => if g.halt = .debug && g.frozen then d.debugDone e g 2 else d.beginDebug e g

/-- The end of a debugger halt by replay: a pending trap or request is taken after it. DEDUCED, log 39. -/
def Dev.dbgContinue (e : Env) (d : Dev) (g : WG) : Dev :=
  let d := d.modWg g.id fun g =>
    { g with halt := if g.handling then .trap else .none, stopped := false, frozen := false, skidMax := 0, trapPend := false,
             fibs := g.fibs.map fun f => { f with skid := 0, stuck := false, pcause := 0, readyAt := e.now + 1 } }
  let d := d.replay e g.id
  d.modWg g.id fun g => if g.wantPreempt then g.beginPreempt e.now else g

/-- The saving of a halted work-group. DEDUCED, log 39. -/
def Dev.dbgConvert (e : Env) (d : Dev) (g : WG) : Dev :=
  let d := if g.image.isSome then d else d.preemptRequest e g.id
  if ((d.wg? g.id).bind (·.image)).isNone then d.setDbgStat 3
  else
    let d := d.modWg g.id fun g => { g with halt := .preempt, stopped := true, frozen := true, wantPreempt := false }
    ({ d with agenda := d.agenda ++ [Todo.ev .saveComplete g.id 0 0 []] } : Dev).debugDone e g 2

/-- A request written to DBGREQ: ignored while one is busy, refused when it names no resident work-group.
DEDUCED, log 39. -/
def Dev.dbgWrite (e : Env) (d : Dev) (v op : Nat) : Dev :=
  if d.dbgStat = 1 then d
  else
    let keep := maskOf 43 32 + maskOf 24 16 + maskOf 5 0
    let d := d.modHub fun h => { h with dbgreq := BitVec.ofNat 64 ((keepBits keep v).toNat + op * 2 ^ 56 + 2 ^ 62) }
    match d.dbgWg with
    | none => d.setDbgStat 3
    | some g =>
      let halted := g.halt = .debug && g.frozen
      match op with
      | 0 => d.dbgPoll e
      | 1 => (if halted then d.dbgContinue e g else d).debugDone e g 2
      | 2 => if halted then d.dbgConvert e g else d.debugDone e g 2
      | _ =>
        -- the record of such an end names no cause of the work-group's own
        let (c, d) := d.freeWord
        let (t, d) := d.freeWord
        (d.endWg g.id { cause := c.toNat % 256, async := false, tval := t.toNat, fib := 0 } 4).debugDone e g 2

/-! ## Register writes (R427) -/

/-- A write of a firmware hart. -/
def Dev.hartWrite (e : Env) (d : Dev) (off v : Nat) : Dev :=
  let set (f : Hub → Hub) : Dev := d.modHub f
  if off = 0x300 then d.mrExtend (v % 8)
  else if 0x340 ≤ off && off < 0x380 then
    set fun h => { h with mrdata := setPart512 h.mrdata ((off - 0x340) / 8) (BitVec.ofNat 64 v) }
  else if off = 0x408 then set fun h => { h with pwrlim := max 100 (min 1600 (v % 2 ^ 11)) }
  else if 0x40000 ≤ off && off < 0x44000 then
    set fun h => { h with tagq := Table.set 0 h.tagq ((off - 0x40000) / 4) (min 12288 (v % 2 ^ 14)) }
  else if off = 0x50000 then set fun h => { h with ptroot := keepBits (maskOf 37 18 + 1) v }
  else if off = 0x50008 then set fun h => { h with fmbase := keepBits (maskOf 37 12) v }
  else if off = 0x50010 then set fun h => { h with fqbase := keepBits (maskOf 37 12 + 15) v }
  else if off = 0x50018 then set fun h => { h with cairnctl := keepBits (maskOf 23 14 + maskOf 10 0) v }
  else if off = 0x60000 then set fun h => { h with qdbase := keepBits (maskOf 51 24 + 1) v }
  else if off = 0x60008 then set fun h => { h with evbase := keepBits (maskOf 51 12 + 15) v }
  else if off = 0x60018 then set fun h => { h with spinw := v % 2 ^ 32 }
  else if off = 0x60020 then set fun h => { h with eqtmo := v % 2 ^ 32 }
  else if off = 0x60028 then set fun h => { h with domcfg := keepBits (maskOf 14 8 + maskOf 6 0) v }
  else if off = 0x60038 then d.dbgWrite e v (bitsN v 57 56)
  else if off = 0x60100 then
    -- a link that may no longer train goes down
    { d.modHub (fun h => { h with peercfg := keepBits (maskOf 8 0) v }) with
      links := ((List.range 8).zip d.links).map fun p => if v.testBit p.1 then p.2 else { p.2 with up := false } }
  else if off = 0x60140 then set fun h => { h with dspbase := keepBits (maskOf 51 8) v }
  else if 0x60200 ≤ off && off < 0x60280 then
    set fun h => { h with peerrt := putAt (BitVec.ofNat 64 v) h.peerrt ((off - 0x60200) / 8) }
  else d

/-- REGISTER_WRITE: 1 for the host, offset, value. Of the host's writes only DBELL and DBGREQ have an effect, and DBELL has a row
of its own. -/
def Dev.registerWrite (e : Env) (d : Dev) (host off v : Nat) : Dev :=
  if host = 1 then
    if off = 0x60038 then d.dbgWrite e v (bitsN v 57 56)
    else if off = 0x61000 then { d with agenda := d.agenda ++ [.ev .doorbell v 0 0 []] }
    else d
  else if off = 0x61000 then { d with agenda := d.agenda ++ [.ev .doorbell v 0 0 []] }
  else d.hartWrite e off v

/-! ## Meanings -/

def execRegisterWrite : State → Host.Outcome State Fault Refusal :=
  event fun e d => d.registerWrite e d.arg.a d.arg.b d.arg.c

def execMrExtend : State → Host.Outcome State Fault Refusal := event fun _ d => d.mrExtend d.arg.a

def execDbgreqHalt : State → Host.Outcome State Fault Refusal := event fun e d => d.dbgWrite e d.arg.a 0

def execDbgreqContinue : State → Host.Outcome State Fault Refusal := event fun e d => d.dbgWrite e d.arg.a 1

def execDbgreqConvert : State → Host.Outcome State Fault Refusal := event fun e d => d.dbgWrite e d.arg.a 2

def execDbgreqKill : State → Host.Outcome State Fault Refusal := event fun e d => d.dbgWrite e d.arg.a 3

end Sys2Proof.Machine
end

