-- ==== Sys2Proof/Machine/Queue.lean ====
section
/-! DEFINITION. The queue engine: doorbells, segments, packets, their completion, parking on WAIT, partitions, and the Equinox
barrier (spec/19, R430 to R442, R450, R451). -/
namespace Sys2Proof.Machine

open Sys2Proof

/-! ## Queue descriptors (R430) -/

structure QD where
  seg : Nat
  ridx : Nat
  widx : Nat
  freel : Nat
  ctxd : Nat
  prio : Nat
  privq : Bool
  part : Nat
  state : Nat
  fln : Nat
  deriving DecidableEq, Repr

def parseQd (bs : List Byte) : QD :=
  let f (o n : Nat) : Nat := fieldN bs o n
  { seg := f 0 8, ridx := f 8 4, widx := f 12 4, freel := f 16 8, ctxd := f 24 8, prio := f 32 1 % 8, privq := (f 32 1).testBit 7,
    part := f 33 1 % 16, state := f 34 1, fln := f 35 1 }

def QD.unread (q : QD) : Nat := (q.widx + 2 ^ 32 - q.ridx) % 2 ^ 32

/-- The intermediate address of the descriptor of queue `q`. -/
def Dev.qdIa (d : Dev) (q : Nat) : Nat := bitsN d.hub.qdbase.toNat 51 24 * 2 ^ 24 + 64 * q

def Dev.qd? (e : Env) (d : Dev) (q : Nat) : Option QD := (d.iaBytes e (d.qdIa q) 64).map parseQd

/-- Bytes of a descriptor written by the queue engine. -/
def Dev.qdPut (e : Env) (d : Dev) (q off : Nat) (bs : List Byte) : Dev := (Dev.iaWrite e 3 (d.qdIa q + off) bs d).2

def Dev.qState (e : Env) (d : Dev) (q st : Nat) : Dev := d.qdPut e q 34 (leBytes 1 st)

def Dev.queue? (d : Dev) (q : Nat) : Option Queue := d.queues.find? fun u => u.q = q

def Dev.modQueue (d : Dev) (q : Nat) (f : Queue → Queue) : Dev :=
  { d with queues := d.queues.map fun u => if u.q = q then f u else u }

def Dev.modPkt (d : Dev) (p : Nat) (f : Pkt → Pkt) : Dev :=
  { d with pkts := d.pkts.map fun k => if k.id = p then f k else k }

/-- A queue whose segment or free list meets a fatal translation, or whose context cannot be read (R430, R364). -/
def Dev.qError (e : Env) (d : Dev) (q : Nat) : Dev :=
  (d.qState e q 4).modQueue q fun u => { u with slot := none, heldSeg := none, parked := none, watched := none }

/-- DOORBELL: the value written (R432). One that does not advance WIDX, or finds EN = 0, is ignored; a queue in STATE 4 stays there (R430). -/
def Dev.doorbell (e : Env) (d : Dev) (v : Nat) : Dev :=
  let q := v % 2 ^ 18
  let wcnt := bitsN v 63 32
  if !d.hub.qdbase.getLsbD 0 then d
  else
    match d.qd? e q with
    | none => d
    | some qd =>
      let step := (wcnt + 2 ^ 32 - qd.widx) % 2 ^ 32
      if step = 0 || step > 2 ^ 31 then d
      else
        let d := d.qdPut e q 12 (leBytes 4 wcnt)
        let d := if qd.state = 0 then d.qState e q 1 else d
        let (n, d) := d.takeId
        let d := match d.queue? q with
          | none => { d with queues := d.queues ++ [({ q := q, order := n } : Queue)] }
          | some _ => if qd.unread = 0 then d.modQueue q fun u => { u with order := n } else d
        d.hartEvent 1 q

/-! ## Reading a slot (R431, R432) -/

/-- The next unread slot of a queue, with what its reading uses. -/
structure Next where
  q : Nat
  qd : QD
  ctx : Ctx
  rs : List Range
  bs : List Byte
  deriving DecidableEq, Repr

def Next.f (n : Next) (o k : Nat) : Nat := fieldN n.bs o k
def Next.ty (n : Next) : Nat := n.f 0 1
def Next.pos (n : Next) : Nat := n.qd.ridx % 64

/-- Who asks for the accesses of the queue engine. -/
def askerOf (c : Ctx) (part : Nat) : Asker := { wg := 0, core := 0, unit := 0, own := some (c.ctxid, part), fsvc := c.fsvc }

def Next.asker (n : Next) : Asker := askerOf n.ctx n.qd.part

/-- Bytes at a global virtual address of the queue's context. -/
def Next.read (e : Env) (n : Next) (d : Dev) (va k : Nat) : Rd × Dev := Dev.readG e n.rs n.asker (linesOf k) d (va57 va) k

/-- Slots that a packet uses up: five, the rest of a segment for a LINK, else one. A refused LINK does nothing: it takes its one
slot. DEDUCED, log 26. -/
def Next.span (n : Next) (refused : Bool) : Nat :=
  match n.ty with
  | 1 => min 5 (64 - n.pos)
  | 2 => min 5 (64 - n.pos)
  | 8 => if refused then 1 else 64 - n.pos
  | _ => 1

/-- The next slot, where there is one and it can be read. -/
def Dev.peek (e : Env) (d : Dev) (q : Nat) : Option Next × Dev :=
  match d.queue? q with
  | none => (none, d)
  | some u =>
    if u.parked.isSome || u.heldSeg.isSome || u.slot.isNone then (none, d)
    else
      match d.qd? e q with
      | none => (none, d)
      | some qd =>
        if qd.unread = 0 || qd.state = 4 then (none, d)
        else
          match d.readCtx e qd.ctxd with
          | none => (none, d.qError e q)
          | some c =>
            let n : Next := { q := q, qd := qd, ctx := c, rs := d.ctxRanges e c, bs := [] }
            match n.read e d (qd.seg + 64 * (qd.ridx % 64)) 64 with
            | (.ok bs false, d) => (some { n with bs := bs }, d)
            | (.wait _, d) => (none, d)
            | (_, d) => (none, d.qError e q)

/-! ## Starting a packet (R434 to R437) -/

/-- Offsets from 32 that a TYPE lists. DEDUCED, log 26. -/
def listedBytes (ty op : Nat) : List Nat :=
  match ty with
  | 3 => 32 :: (if op = 0 then upFrom 40 8 else [])
  | 4 => upFrom 32 13
  | 5 => upFrom 32 24
  | 6 => upFrom 32 17
  | 7 => upFrom 32 17
  | 8 => upFrom 32 8
  | 9 => [48]
  | 10 => 32 :: upFrom 40 8
  | _ => []

/-- The refusal that a packet's own slot calls for. DEDUCED, log 26. -/
def Next.refusal (n : Next) (passOpen : Bool) : Option Nat :=
  let ty := n.ty
  let op := n.f 32 1
  let slots := if ty = 1 || ty = 2 then 5 else 1
  let badOp := (ty = 3 && op > 1) || (ty = 6 && n.f 48 1 > 2) || (ty = 7 && n.f 48 1 > 1) || (ty = 9 && (n.f 48 1 < 3 || n.f 48 1 > 5)) ||
    (ty = 5 && (n.f 48 8 = 0 || n.f 48 8 > 2 ^ 40))
  let misaligned := (ty = 8 && n.f 32 8 % 4096 ≠ 0) || ((ty = 6 || ty = 7) && n.f 32 8 % 8 ≠ 0) || (ty = 3 && op = 0 && n.f 40 8 % 64 ≠ 0)
  let order := if passOpen then !([4, 6, 7].contains ty || (ty = 3 && op = 1)) else ty = 4 || (ty = 3 && op = 1)
  if ty = 0 || ty > 10 || n.f 2 1 ≠ slots || n.pos + slots > 64 || n.f 1 1 ≥ 4 ||
      (upFrom 32 32).any (fun i => !(listedBytes ty op).contains i && n.f i 1 ≠ 0) || badOp then some 0x01
  else if n.f 8 8 % 8 ≠ 0 || n.f 16 8 % 8 ≠ 0 || misaligned then some 0x04
  else if ty = 10 && !n.qd.privq then some 0x06
  else if order then some 0x05
  else none

/-- How a start goes on. -/
inductive Start where
  /-- A read waits for a page: the packet stands unread. -/
  | again
  | refuse (code : Nat)
  /-- A structure it names meets a fatal walk. -/
  | fatal (cause : Nat)
  | run (f : Pkt → Pkt)

/-- Launches and passes in flight (R433). -/
def Dev.inFlight (d : Dev) : Nat := (d.launches.filter fun l => l.kind ≠ .pixel).length + d.passes.length

def Dev.openPass (d : Dev) (q : Nat) : Option Nat := (d.queue? q).bind (·.openPass)

/-- An earlier packet of the queue has not completed; the open of the open pass does not count. -/
def Dev.earlierOpen (d : Dev) (q : Nat) : Bool :=
  d.pkts.any fun p => p.q = q && !(p.ty = 3 && p.pass.isSome && p.pass = d.openPass q)

/-- BAR and the number in flight let the packet start. DEDUCED, log 32. -/
def Dev.canStart (d : Dev) (n : Next) : Bool :=
  let ty := n.ty
  let bar := (n.f 1 1).testBit 0 || ty = 6 || ty = 7 || ty = 9
  let counts := ty = 1 || ty = 2 || ty = 4 || (ty = 3 && n.f 32 1 = 0)
  !(bar && d.earlierOpen n.q) && !(counts && d.inFlight ≥ 1024)

/-- The next packet, if its TYPE is one of the row's, is read and started, refused, or left. -/
def Dev.takePkt (e : Env) (d : Dev) (q : Nat) (accepts : Nat → Nat → Bool) (start : Next → Nat → Dev → Start × Dev) : Dev :=
  match d.peek e q with
  | (none, d) => d
  | (some n, d) =>
    let bad := n.refusal (d.openPass q).isSome
    let span := n.span bad.isSome
    if !accepts n.ty (n.f 32 1) || n.qd.unread < span || !d.canStart n then d
    else
      let (id, d) := d.takeId
      let r := match bad with
        | some c => (Start.refuse c, d)
        | none => start n id d
      let p0 : Pkt :=
        { id := id, q := q, ridx := n.qd.ridx, ty := n.ty, flg := n.f 1 1, cstat := n.f 8 8, csig := n.f 16 8, cval := n.f 24 8,
          body := n.bs.drop 32, ctx := n.ctx, part := n.qd.part, started := true }
      let put (d : Dev) (p : Pkt) : Dev :=
        ({ d with pkts := d.pkts ++ [p] } : Dev).qdPut e q 8 (leBytes 4 ((n.qd.ridx + span) % 2 ^ 32))
      match r with
      | (.again, d) => d
      | (.refuse c, d) => put d { p0 with finished := true, code := 1, detail := c }
      | (.fatal c, d) => put d { p0 with finished := true, code := 4, detail := c }
      | (.run f, d) => put d (f p0)

/-! ## Launches (R438, R439) -/

/-- A structure read, or how the start goes on without it. -/
def Next.need (e : Env) (n : Next) (d : Dev) (va k : Nat) (go : List Byte → Dev → Start × Dev) : Start × Dev :=
  match n.read e d va k with
  | (.ok bs false, d) => go bs d
  | (.ok _ true, d) => (.fatal cUncorrectable, d)
  | (.wait _, d) => (.again, d)
  | (.lost c _, d) => (.fatal c, d)

/-- A boundary of a launch of the context: the weight caches drop the tables it bound (R339), and the constant caches what they filled before
(R236). -/
def Dev.boundary (d : Dev) (ctx : Nat) : Dev :=
  { d with cores := d.cores.map fun q => (q.1, { q.2 with cc := [], wtabs := q.2.wtabs.filter fun p => p.2 ≠ ctx }) }

/-- A launch of a record; a single-module launch has no Equinox generation, and the spec states no value for it.
DESIGN CHOICE, log 10. -/
def Dev.newLaunch (d : Dev) (n : Next) (pkt : Nat) (kind : WKind) (r : Record) (f : Launch → Launch) : Nat × Dev :=
  let (id, d) := d.takeId
  let (g, d) := d.freeWord
  let l : Launch :=
    { id := id, r := r, kind := kind, q := n.q, pkt := pkt, part := n.qd.part, prio := n.qd.prio, ctx := n.ctx, gen := g.toNat, dev := d.hub.rank,
      seq := id, total := if kind = .pool then 0 else r.groups }
  (id, { d.boundary n.ctx.ctxid with launches := d.launches ++ [f l] })

/-- The next Equinox generation: one above the last started or waiting (R450). DESIGN CHOICE, log 33. -/
def Dev.nextGen (d : Dev) : Nat := (d.domains.foldl (fun g m => max g m.gen) d.hub.gencnt + 1) % 2 ^ 32

/-- Message kinds of the Equinox barrier: packet, report, go, abort, completion. -/
def mPacket : Nat := 16
def mReport : Nat := 17
def mGo : Nat := 18
def mAbort : Nat := 19
def mDone : Nat := 20

/-- DESIGN CHOICE, log 33. -/
def Dev.send (d : Dev) (dst kind line arg : Nat) (bs : List Byte) : Dev :=
  { d with msgs := d.msgs ++ [{ dst := dst, kind := kind, line := line, arg := arg, bytes := bs }] }

/-- A launch over several modules: held, and its packet replicated with its generation. DESIGN CHOICE, log 33. -/
def Dev.replicate (e : Env) (d : Dev) (n : Next) (pkt lid : Nat) (slots : List Byte) (nmod : Nat) : Dev :=
  let g := d.nextGen
  let data := leBytes 8 g ++ leBytes 8 n.qd.ctxd ++ leBytes 1 n.qd.part ++ leBytes 1 n.qd.prio ++ slots
  let d := d.modLaunch lid fun l => { l with held := true, gen := g }
  let dom : Domain := { gen := g, launch := lid, pkt := pkt, nmod := nmod, sentAt := e.now, reports := [(0, 0)], origin := true }
  (upFrom 1 (nmod - 1)).foldl (fun d r => d.send r mPacket g 0 data) { d with domains := d.domains ++ [dom] }

/-- A pool descriptor is well formed (R439). -/
def poolOk (bs : List Byte) : Bool :=
  fieldN bs 0 8 % 4096 = 0 && fieldN bs 16 8 % 32 = 0 && 10 ≤ fieldN bs 8 1 && fieldN bs 8 1 ≤ 24 && fieldN bs 24 8 ≤ 2 ^ fieldN bs 8 1

/-- Starts a record as a grid launch. -/
def Dev.startGrid (e : Env) (d : Dev) (n : Next) (pkt : Nat) (rb : List Byte) : Start × Dev :=
  let r := parseRecord rb
  match r.refused .grid (fieldN rb 20 1) n.ctx.sup d.hub with
  | some c => (.refuse c, d)
  | none =>
    let (id, d) := d.newLaunch n pkt .grid r (fun l => l)
    let d := if r.nmod > 1 then d.replicate e n pkt id (n.bs ++ rb) r.nmod else d
    (.run fun p => { p with launch := some id }, d)

/-- Starts a record fed by its continuation pool. -/
def Dev.startPool (e : Env) (d : Dev) (n : Next) (pkt : Nat) (rb : List Byte) : Start × Dev :=
  let r := parseRecord rb
  match r.refused .pool (fieldN rb 20 1) n.ctx.sup d.hub with
  | some c => (.refuse c, d)
  | none =>
    if r.pool = 0 then (.refuse 0x08, d)
    else if r.pool % 64 ≠ 0 then (.refuse 0x04, d)
    else
      n.need e d r.pool 64 fun pb d =>
        if fieldN pb 0 8 % 4096 ≠ 0 || fieldN pb 16 8 % 32 ≠ 0 then (.refuse 0x04, d)
        else if !poolOk pb then (.refuse 0x02, d)
        else
          let (id, d) := d.newLaunch n pkt .pool r fun l =>
            { l with poolBase := fieldN pb 0 8, poolLog := fieldN pb 8 1, initBase := fieldN pb 16 8, initN := fieldN pb 24 8 }
          let d := if r.nmod > 1 then d.replicate e n pkt id (n.bs ++ rb) r.nmod else d
          (.run fun p => { p with launch := some id }, d)

/-- The record that follows a launch packet's first slot. -/
def Next.record (e : Env) (n : Next) (d : Dev) (go : List Byte → Dev → Start × Dev) : Start × Dev :=
  n.need e d (n.qd.seg + 64 * (n.pos + 1)) 256 go

/-- LAUNCH: queue. A packet whose TYPE the table does not list is refused here. -/
def Dev.launchPkt (e : Env) (d : Dev) (q : Nat) : Dev :=
  d.takePkt e q (fun ty _ => ty = 1 || ty = 0 || ty > 10) fun n id d => n.record e d fun rb d => d.startGrid e n id rb

def Dev.poolPkt (e : Env) (d : Dev) (q : Nat) : Dev :=
  d.takePkt e q (fun ty _ => ty = 2) fun n id d => n.record e d fun rb d => d.startPool e n id rb

/-! ## Render passes (R440) -/

/-- ⌈log2 n⌉. -/
def clog2 (n : Nat) : Nat := if n ≤ 1 then 0 else Nat.log2 (n - 1) + 1

/-- The pixel kernel's record: F_pix fibres, work-group numbers of 14 bits, user fibres, no cohort (R320, R440). -/
def pixelRecord (r : Record) (fpix : Nat) : Record :=
  { r with fcap := fpix, fstart := fpix, coh := 0, priv := false, nmod := 1, wid := [clog2 fpix, 14, 0, 0, 0, 0],
           em1 := [fpix - 1, 16383, 0, 0, 0, 0] }

/-- RENDER_PASS open: queue. -/
def Dev.openPkt (e : Env) (d : Dev) (q : Nat) : Dev :=
  d.takePkt e q (fun ty op => ty = 3 && op ≠ 1) fun n id d =>
    n.need e d (n.f 40 8) 512 fun blk d =>
      let p0 : Pass := { id := 0, blk := blk, launch := 0, pkt := id, part := n.qd.part, ctx := n.ctx, rng := n.rs }
      if !p0.ok then (.refuse 0x02, d)
      else
        n.need e d (p0.f 16 8) 256 fun rb d =>
          match (parseRecord rb).refused .pixel 0 n.ctx.sup d.hub with
          | some c => (.refuse c, d)
          | none =>
            let (pid, d) := d.takeId
            let r := pixelRecord (parseRecord rb) p0.fpix
            let (lid, d) := d.newLaunch n id .pixel r fun l => { l with pass := pid, next := 0, total := 0 }
            ((.run fun p => { p with pass := some pid }),
             ({ d with passes := d.passes ++ [{ p0 with id := pid, launch := lid }] } : Dev).modQueue q fun u => { u with openPass := some pid })

/-- RENDER_PASS close: queue. -/
def Dev.closePkt (d : Dev) (e : Env) (q : Nat) : Dev :=
  d.takePkt e q (fun ty op => ty = 3 && op = 1) fun n id d =>
    match d.openPass n.q with
    | none => (.refuse 0x05, d)
    | some pid =>
      (.run fun p => { p with pass := some pid },
       (d.modPass pid fun p => { p with closePkt := some id }).modQueue n.q fun u => { u with openPass := none })

/-- DRAW_MESH: queue. -/
def Dev.meshPkt (e : Env) (d : Dev) (q : Nat) : Dev :=
  d.takePkt e q (fun ty _ => ty = 4) fun n id d =>
    let nv := n.f 40 2
    let np := n.f 42 2
    let na := n.f 44 1
    match d.openPass n.q with
    | none => (.refuse 0x05, d)
    | some pid =>
      if nv = 0 || nv > 256 || np = 0 || np > 512 || na > 32 then (.refuse 0x02, d)
      else
        n.need e d (n.f 32 8) 256 fun rb d =>
          let r := parseRecord rb
          match r.refused .grid (fieldN rb 20 1) n.ctx.sup d.hub with
          | some c => (.refuse c, d)
          | none =>
            let (lid, d) := d.newLaunch n id .mesh r fun l => { l with pass := pid, meshV := nv, meshP := np, meshA := na }
            (.run fun p => { p with launch := some lid }, d.modPass pid fun p => { p with draws := p.draws ++ [lid] })

/-! ## COPY, WAIT, SIGNAL, LINK, FENCE, PARTITION_SET -/

/-- A packet's own operation: a parked write of it is known by the packet's number. -/
def pktOp (id : Nat) : Op := { id := id, kind := .omst, wg := 0, fib := 0 }

/-- Writes of the packet stand parked. -/
def Dev.pktParked (d : Dev) (id : Nat) : Bool := d.eps.any fun p => p.log.any fun q => q.wg = 0 && q.id = id

/-- A byte at a virtual address becomes poison. -/
def Dev.vaPoison (e : Env) (d : Dev) (rs : List Range) (va : Nat) : Dev :=
  match rangeLookup rs (va57 va) with
  | some ia => d.iaPoison e ia
  | none => d

/-- The `n`-th byte of a list of runs: its offset, and the end of its run. -/
def runByte : List (Nat × Nat) → Nat → Option (Nat × Nat)
  | [], _ => none
  | (lo, hi) :: r, n => if n < hi - lo then some (lo + n, hi) else runByte r (n - (hi - lo))

/-- The runs without `k` bytes from offset `o`. -/
def cutRun (o k : Nat) (l : List (Nat × Nat)) : List (Nat × Nat) :=
  l.flatMap fun r =>
    if r.1 ≤ o && o < r.2 then (if r.1 < o then [(r.1, o)] else []) ++ (if o + k < r.2 then [(o + k, r.2)] else []) else [r]

/-- More bytes of a COPY packet, at a place that is a choice among those left (R436): as many as lie in one line on both sides; single bytes
where the source holds poison. DEDUCED, log 22; DESIGN CHOICE, log 13. -/
def Dev.copyStep (e : Env) (d : Dev) (id : Nat) : Dev :=
  match d.pkts.find? fun p => p.id = id with
  | none => d
  | some p =>
    let (c, d) := d.choose ((p.left.map fun r => r.2 - r.1).foldl (· + ·) 0)
    match if p.ty ≠ 5 || p.finished then none else runByte p.left c with
    | none => d
    | some (o, hi) =>
      let rs := d.ctxRanges e p.ctx
      let k := { askerOf p.ctx p.part with unit := 1 }
      let src := va57 (fieldN p.body 0 8 + o)
      let dst := va57 (fieldN p.body 8 8 + o)
      let m := min (min (128 - src % 128) (128 - dst % 128)) (hi - o)
      let lose (d : Dev) (c : Nat) : Dev := d.modPkt id fun p => { p with finished := true, code := 4, detail := c }
      let put (d : Dev) (bs : List Byte) (bad : Bool) : Dev :=
        match Dev.writeG e rs k (pktOp id) 2 d dst bs with
        | (.wait _, d) => d
        | (.lost c _, d) => lose d c
        | (_, d) => (if bad then d.vaPoison e rs dst else d).modPkt id fun p => { p with left := cutRun o bs.length p.left }
      match Dev.readG e rs k 2 d src m with
      | (.wait _, d) => d
      | (.lost c _, d) => lose d c
      | (.ok bs false, d) => put d bs false
      | (.ok bs true, d) =>
        match Dev.readG e rs k 2 d src 1 with
        | (.ok _ bad, d) => put d (bs.take 1) bad
        | (_, d) => d

/-- COPY: queue and packet. The packet goes on, or with none named the queue's next packet starts. -/
def Dev.copyPkt (e : Env) (d : Dev) (q id : Nat) : Dev :=
  if id ≠ 0 then d.copyStep e id
  else d.takePkt e q (fun ty _ => ty = 5) fun n _ d => (.run fun p => { p with left := [(0, n.f 48 8)] }, d)

/-- The comparison of a WAIT. -/
def waitHolds (cmp v x : Nat) : Bool :=
  match cmp with
  | 0 => x ≥ v
  | 1 => x = v
  | _ => x ≠ v

/-- WAIT: queue. A comparison that fails parks the queue; the signal unit then arms its watch and reads again.
DEDUCED, log 32. -/
def Dev.waitPkt (e : Env) (d : Dev) (q : Nat) : Dev :=
  d.takePkt e q (fun ty _ => ty = 6) fun n id d =>
    n.need e d (n.f 32 8) 8 fun bs d =>
      if waitHolds (n.f 48 1) (n.f 40 8) (leNat bs) then (.run fun p => { p with finished := true }, d)
      else
        let d := ((d.qState e n.q 3).qdPut e n.q 36 (leBytes 8 (n.f 32 8))).modQueue n.q fun u =>
          { u with slot := none, parked := some (n.f 32 8, n.f 40 8, n.f 48 1, id), watched := none, parkedAt := e.now }
        (.run fun p => p, { d with agenda := d.agenda ++ [.ev .waitWatchRecheck n.q 0 0 []] })

/-- The store line of a word at a virtual address. -/
def Dev.lineAt (e : Env) (d : Dev) (rs : List Range) (va : Nat) : Option Nat :=
  match rangeLookup rs (va57 va) with
  | none => none
  | some ia => match (d.reachRaw e ia .rd).1 with
    | .at_ k => some (k / 128)
    | _ => none

/-- The signal unit reads a parked queue's word again; its watch is armed first where the table of 65,536 has room. -/
def Dev.waitAgainQ (e : Env) (d : Dev) (q : Nat) : Dev :=
  match d.queue? q, d.qd? e q with
  | some u, some _ =>
    match u.parked with
    | none => d
    | some (va, v, cmp, id) =>
      match d.pkts.find? fun p => p.id = id with
      | none => d
      | some p =>
        let rs := d.ctxRanges e p.ctx
        let room := (d.queues.filter fun w => w.watched.isSome).length < 65536
        let d := d.modQueue q fun u => { u with parkedAt := e.now, watched := if u.watched.isSome || room then d.lineAt e rs va else none }
        let free (d : Dev) : Dev :=
          ((d.qState e q 1).modQueue q fun u => { u with parked := none, watched := none }).hartEvent 2 q
        match Dev.readG e rs (askerOf p.ctx p.part) 2 d (va57 va) 8 with
        | (.wait _, d) => d
        | (.lost c _, d) => (free d).modPkt id fun p => { p with finished := true, code := 4, detail := c }
        | (.ok _ true, d) => (free d).modPkt id fun p => { p with finished := true, code := 4, detail := cUncorrectable }
        | (.ok bs false, d) =>
          if waitHolds cmp v (leNat bs) then (free d).modPkt id fun p => { p with finished := true } else d
  | _, _ => d

/-- WAIT_WATCH_TIMEOUT: queue. -/
def Dev.waitTimeoutQ (e : Env) (d : Dev) (q : Nat) : Dev :=
  match d.queue? q with
  | some u => if u.parked.isSome && u.parkedAt + 65536 ≤ e.now then d.waitAgainQ e q else d
  | none => d

/-- SIGNAL: queue. DEDUCED, log 32. -/
def Dev.signalPkt (e : Env) (d : Dev) (q : Nat) : Dev :=
  d.takePkt e q (fun ty _ => ty = 7) fun n id d =>
    let a := if n.f 48 1 = 0 then Act.write (leBytes 8 (n.f 40 8)) else Act.int 0 0x0B (n.f 40 8) 0
    match d.writeLine e n.rs n.asker (pktOp id) (va57 (n.f 32 8)) 8 a with
    | (.wait _, d) => (.again, d)
    | (.lost c _, d) => (.fatal c, d)
    | (_, d) => (.run fun p => { p with finished := true }, d)

/-- The old segment goes into the free list, unless the list is full (R431). DEDUCED, log 32. -/
def Dev.freePush (e : Env) (d : Dev) (q : Nat) : Dev :=
  match d.queue? q, d.qd? e q with
  | some u, some qd =>
    match u.heldSeg, d.readCtx e qd.ctxd with
    | some seg, some c =>
      let rs := d.ctxRanges e c
      let k := askerOf c qd.part
      match Dev.readG e rs k 2 d (va57 qd.freel) 16 with
      | (.wait _, d) => d
      | (.lost _ _, d) => d.qError e q
      | (.ok _ true, d) => d.qError e q
      | (.ok bs false, d) =>
        let put := fieldN bs 0 8
        let get := fieldN bs 8 8
        if (put + 2 ^ 64 - get) % 2 ^ 64 ≥ 2 ^ qd.fln then d
        else
          match Dev.writeG e rs k (noOp k) 2 d (va57 (qd.freel + 64 + 8 * (put % 2 ^ qd.fln))) (leBytes 8 seg) with
          | (.wait _, d) => d
          | (.lost _ _, d) => d.qError e q
          | (_, d) =>
            match Dev.writeG e rs k (noOp k) 2 d (va57 qd.freel) (leBytes 8 (put + 1)) with
            | (.wait _, d) => d
            | (.lost _ _, d) => d.qError e q
            | (_, d) => d.modQueue q fun u => { u with heldSeg := none }
    | some _, none => d.qError e q
    | none, _ => d
  | _, _ => d

/-- The move to a LINK's segment: SEG is NEXT, and the old segment has been read. RIDX is written with the packet. -/
def Dev.linkMove (e : Env) (d : Dev) (n : Next) : Dev :=
  (d.qdPut e n.q 0 (leBytes 8 (n.f 32 8))).modQueue n.q fun u => { u with heldSeg := some n.qd.seg }

/-- LINK: queue. -/
def Dev.linkPkt (e : Env) (d : Dev) (q : Nat) : Dev :=
  (d.takePkt e q (fun ty _ => ty = 8) fun n _ d => (.run fun p => { p with finished := true }, d.linkMove e n)).freePush e q

/-- FENCE: queue. Its earlier packets have completed with a release at `.sys`; the engine holds no copies to discard. -/
def Dev.fencePkt (e : Env) (d : Dev) (q : Nat) : Dev :=
  d.takePkt e q (fun ty _ => ty = 9) fun _ _ d => (.run fun p => { p with finished := true }, d)

/-- The partition block (R442). -/
def parsePartition (bs : List Byte) (old : Partition) : Partition :=
  { cmask := (List.range 512).map fun c => (bs.getD (c / 8) 0#8).getLsbD (c % 8), cores := fieldN bs 64 2, bwq := fieldN bs 66 2,
    pwr := fieldN bs 68 2, on := (fieldN bs 70 1).testBit 0, fsvc := (fieldN bs 70 1).testBit 1, bw := old.bw, est := old.est }

/-- PARTITION_SET: queue. -/
def Dev.partitionPkt (e : Env) (d : Dev) (q : Nat) : Dev :=
  d.takePkt e q (fun ty _ => ty = 10) fun n _ d =>
    n.need e d (n.f 40 8) 128 fun bs d =>
      let i := n.f 32 1
      let p := parsePartition bs (d.part i)
      if fieldN bs 70 1 ≥ 4 then (.refuse 0x01, d)
      else if i > 15 || p.cores > 512 || p.bwq > 1024 || p.pwr > 1600 then (.refuse 0x02, d)
      else (.run fun k => { k with pos := e.now }, { d with parts := putAt p d.parts i })

/-! ## Completion (R436, R437) -/

/-- Every work-group of a launch has retired, and nothing of it is parked (R20, R30, R436). -/
def Dev.launchOver (d : Dev) (l : Launch) : Bool :=
  !(d.wgs.any fun g => g.launch = l.id && decide (g.place ≠ .retired)) &&
  !(d.eps.any fun p => p.log.any fun q => q.launch = l.id) &&
  (l.aborted || (!l.held && l.next ≥ l.total &&
    (l.kind ≠ .pool || (l.initGet ≥ l.initN && l.poolGet ≥ l.poolPut && l.bins.all (·.recs.isEmpty) &&
      !d.ops.any fun o => o.kind = .cont && ((d.wg? o.wg).map (·.launch)) = some l.id))))

/-- CODE, DETAIL and NTRAP of a launch. -/
def Launch.status (l : Launch) : Nat × Nat × Nat :=
  if l.aborted then (3, l.detail, l.ntrap)
  else if l.fatal ≠ 0 then (4, l.fatal, l.ntrap)
  else if l.ntrap ≠ 0 then (2, l.detail, l.ntrap)
  else (0, 0, 0)

/-- The status a rank 0 reports for a domain: its own, or a higher CODE of another module. -/
def highest (own : Nat × Nat × Nat) (reports : List (Nat × Nat)) : Nat × Nat × Nat :=
  reports.foldl (fun s r => if r.2 % 256 > s.1 then (r.2 % 256, r.2 / 256 % 256, s.2.2) else s) own

/-- The completion of a packet, if it has come. DEDUCED, log 26. -/
def Dev.pktResult (e : Env) (d : Dev) (p : Pkt) : Option (Nat × Nat × Nat) :=
  if p.finished then (if d.pktParked p.id then none else some (p.code, p.detail, p.ntrap))
  else
    match p.launch, p.pass with
    | some l, _ =>
      match d.launch? l with
      | none => some (p.code, p.detail, p.ntrap)
      | some l =>
        if !d.launchOver l then none
        else
          match d.domains.find? fun m => m.pkt = p.id && m.origin with
          | some m => if l.aborted || m.reports.length + 1 ≥ m.nmod then some (highest l.status m.reports) else none
          | none => some l.status
    | none, some pid =>
      match d.pass? pid with
      | none => some (p.code, p.detail, p.ntrap)
      | some ps =>
        if !ps.ended then none
        else
          match d.launch? ps.launch with
          | some l => some (if ps.code ≠ 0 then (ps.code, ps.detail, l.ntrap) else l.status)
          | none => some (ps.code, ps.detail, 0)
    | none, none =>
      match p.ty with
      | 5 => if p.left.isEmpty && !d.pktParked p.id then some (p.code, p.detail, 0) else none
      | 10 => if p.pos / 64 < e.now / 64 then some (0, 0, 0) else none
      | _ => none

/-- The generation stands after GEN. -/
def Dev.genAhead (d : Dev) (g : Nat) : Bool := g ≠ d.hub.gencnt && decide ((g + 2 ^ 32 - d.hub.gencnt) % 2 ^ 32 < 2 ^ 31)

/-- What no packet needs any more is dropped. -/
def Dev.tidy (d : Dev) : Dev :=
  let passes := d.passes.filter fun p => !p.ended || d.pkts.any fun k => k.pass = some p.id
  let keep (l : Launch) : Bool :=
    d.pkts.any (fun k => k.launch = some l.id) ||
    match l.kind with
    | .grid => !d.launchOver l
    | .pool => !d.launchOver l
    | _ => passes.any fun p => p.id = l.pass
  let ls := d.launches.filter keep
  { d with passes := passes, launches := ls, wgs := d.wgs.filter fun g => decide (g.place ≠ .retired) || ls.any fun l => l.id = g.launch,
           domains := d.domains.filter fun m => !m.ended || d.genAhead m.gen || d.pkts.any fun k => k.id = m.pkt }

/-- PACKET_COMPLETE: packet. CSTAT, then CSIG, then the event, each once the one before is performed.
DEDUCED, log 32. -/
def Dev.packetDone (e : Env) (d : Dev) (id : Nat) : Dev :=
  match d.pkts.find? fun p => p.id = id with
  | none => d
  | some p =>
    match d.pktResult e p with
    | none => d
    | some (code, detail, ntrap) =>
      let rs := d.ctxRanges e p.ctx
      let k := askerOf p.ctx p.part
      -- the status stands as it is from here on
      let d := d.modPkt id fun p => { p with finished := true, code := code, detail := detail, ntrap := ntrap }
      let step (stage va : Nat) (a : Act) (d : Dev) : Bool × Dev :=
        if p.stage > stage || va = 0 || va % 8 ≠ 0 then (true, d)
        else
          match d.writeLine e rs k (pktOp id) (va57 va) 8 a with
          | (.wait _, d) => (false, d)
          | (_, d) => (true, d.modPkt id fun p => { p with stage := stage + 1 })
      match step 0 p.cstat (.write (leBytes 4 (code + 256 * (detail % 256)) ++ leBytes 4 ntrap)) d with
      | (false, d) => d
      | (true, d) =>
        if d.pktParked id then d
        else
          match step 1 p.csig (.int 0 0x0B p.cval 0) d with
          | (false, d) => d
          | (true, d) =>
            if d.pktParked id then d
            else
              let d := if p.flg.testBit 1 then d.postEvent e 6 p.part p.ctx.ctxid (leBytes 4 p.q ++ leBytes 4 p.ridx) else d
              let d := match d.domains.find? fun m => m.pkt = id && !m.origin with
                | some m => d.send 0 mDone m.gen (d.hub.rank * 2 ^ 16 + detail % 256 * 256 + code) []
                | none => d
              ({ d.boundary p.ctx.ctxid with pkts := d.pkts.filter fun k => k.id ≠ id } : Dev).tidy

/-! ## The hardware queue slots (R433) -/

/-- The deadline of the launch record that a queue has next, 0 for none. -/
def Dev.queueDeadline (e : Env) (d : Dev) (q : Nat) : Nat :=
  match d.qd? e q with
  | none => 0
  | some qd =>
    match d.readCtx e qd.ctxd with
    | none => 0
    | some c =>
      let n : Next := { q := q, qd := qd, ctx := c, rs := d.ctxRanges e c, bs := [] }
      match (n.read e d (qd.seg + 64 * n.pos) 1).1 with
      | .ok [b] false => if (b = 1#8 || b = 2#8) && n.pos < 60 then
          match (n.read e d (qd.seg + 64 * (n.pos + 1) + 144) 8).1 with
          | .ok bs false => leNat bs
          | _ => 0
        else 0
      | _ => 0

def Dev.queueKey (e : Env) (d : Dev) (u : Queue) : Nat :=
  let dl := d.queueDeadline e u.q
  let prio := ((d.qd? e u.q).map (·.prio)).getD 0
  (if dl ≠ 0 then dl else 2 ^ 64 + (7 - prio)) * 2 ^ 64 + u.order

/-- Queues give up their slots when everything is read; ready ones take free slots in order. -/
def Dev.mapQueues (e : Env) (d : Dev) : Dev :=
  let unread (q : Nat) : Nat := ((d.qd? e q).map (·.unread)).getD 0
  let d := d.queues.foldl (fun d u =>
    if u.slot.isSome && unread u.q = 0 && u.heldSeg.isNone then (d.qState e u.q 0).modQueue u.q fun u => { u with slot := none } else d) d
  let ready := d.queues.filter fun u => u.slot.isNone && u.parked.isNone &&
    match d.qd? e u.q with
    | some qd => decide (qd.unread ≠ 0) && decide (qd.state ≠ 4)
    | none => false
  (sortBy (d.queueKey e) ready).foldl (fun d u =>
    let used := d.queues.filterMap (·.slot)
    match (List.range (used.length + 1)).find? fun s => !used.contains s && s < 4096 with
    | some s => (d.qState e u.q 2).modQueue u.q fun u => { u with slot := some s }
    | none => d) d

/-- The step that a mapped queue calls for: its next packet can start. -/
def Dev.queueDue (e : Env) (d : Dev) (u : Queue) : Option Instr :=
  match (d.peek e u.q).1 with
  | none => none
  | some n =>
    if n.qd.unread < n.span (n.refusal (d.openPass u.q).isSome).isSome || !d.canStart n then none
    else
      match n.ty with
      | 2 => some .poolLaunch
      | 3 => some (if n.f 32 1 = 1 then .renderPassClose else .renderPassOpen)
      | 4 => some .drawMesh
      | 5 => some .copy
      | 6 => some .waitPacket
      | 7 => some .signal
      | 8 => some .link
      | 9 => some .fencePacket
      | 10 => some .partitionSet
      | _ => some .launch

/-! ## The Equinox barrier (R450, R451) -/

def Dev.domain? (d : Dev) (g : Nat) : Option Domain := d.domains.find? fun m => m.gen = g

def Dev.modDomain (d : Dev) (g : Nat) (f : Domain → Domain) : Dev :=
  { d with domains := d.domains.map fun m => if m.gen = g then f m else m }

/-- Every module has reported ready, or go has come from rank 0 (R450). -/
def Domain.going (m : Domain) : Bool :=
  if m.origin then decide (m.reports.length ≥ m.nmod) && m.reports.all fun r => r.2 = 0 else !m.reports.isEmpty

/-- The generations that wait here, in order: each starts after the one before it, or is passed over where it was aborted; GEN becomes
each in its turn (R450, R451). -/
def Dev.genNext : Nat → Dev → Dev
  | 0, d => d
  | fuel + 1, d =>
    match minBy (fun m => (m.gen + 2 ^ 32 - d.hub.gencnt) % 2 ^ 32) (d.domains.filter fun m => d.genAhead m.gen) with
    | none => d
    | some m =>
      if m.ended then Dev.genNext fuel (d.modHub fun h => { h with gencnt := m.gen })
      else if m.going then
        Dev.genNext fuel (((d.modHub fun h => { h with gencnt := m.gen }).modLaunch m.launch fun l =>
          { l with held := false, gen := m.gen }).modDomain m.gen fun m => { m with ended := true, reports := [] })
      else d

/-- Go for a generation. -/
def Dev.goNow (d : Dev) (g : Nat) : Dev :=
  Dev.genNext (d.domains.length + 1) (d.modDomain g fun m => if m.origin || m.ended then m else { m with reports := [(0, 0)] })

/-- The launch of a generation completes with CODE 3 and no work-group placed. -/
def Dev.abortNow (d : Dev) (g code : Nat) : Dev :=
  match d.domain? g with
  | none => d
  | some m =>
    let d := d.modLaunch m.launch fun l => { l with aborted := true, held := false, detail := code }
    Dev.genNext (d.domains.length + 1) ((d.modPkt m.pkt fun p => { p with finished := true, code := 3, detail := code }).modDomain g fun m => { m with ended := true })

/-- Rank 0 sends a message to every other module of a domain. -/
def Dev.toAll (d : Dev) (m : Domain) (kind arg : Nat) : Dev :=
  (upFrom 1 (m.nmod - 1)).foldl (fun d r => d.send r kind m.gen arg []) d

/-- EQUINOX_REPORT: rank, generation, code. Before go it is a report, 0 for ready; after it the completion of a module, DETAIL above
CODE. DESIGN CHOICE, log 33. -/
def Dev.equinoxReport (d : Dev) (rank g code : Nat) : Dev :=
  match d.domain? g with
  | none => d
  | some m =>
    if !m.origin || m.reports.any (fun r => r.1 = rank) || rank ≥ m.nmod then d
    else
      let rs := m.reports ++ [(rank, code)]
      let d := (d.modDomain g fun m => { m with reports := rs }).hartEvent 5 g
      if m.ended then d
      else
        match minBy (fun r => r.1) (rs.filter fun r => r.2 ≠ 0) with
        | some r => (d.toAll m mAbort r.2).abortNow g r.2
        | none => if rs.length ≥ m.nmod then (d.toAll m mGo 0).goNow g else d

/-- EQUINOX_TIMEOUT: generation. -/
def Dev.equinoxTimeout (e : Env) (d : Dev) (g : Nat) : Dev :=
  match d.domain? g with
  | none => d
  | some m =>
    if m.origin && !m.ended && m.sentAt + max 1 d.hub.eqtmo ≤ e.now then (d.toAll m mAbort 0xFF).abortNow g 0xFF else d

/-- EQUINOX_PACKET_RECEIVE: generation, CTXD, partition and priority of the queue, then the five slots of the packet. The module checks
the record as for its own submission and reports. DESIGN CHOICE, log 33. -/
def Dev.equinoxPacket (e : Env) (d : Dev) (bs : List Byte) : Dev :=
  let g := fieldN bs 0 8
  let slots := bs.drop 18
  let rb := slots.drop 64
  let r := parseRecord rb
  match d.readCtx e (fieldN bs 8 8), decide (d.hub.rank = 0) with
  | none, _ => d
  | some _, true => d
  | some c, false =>
    let qd : QD :=
      { seg := 0, ridx := 0, widx := 0, freel := 0, ctxd := fieldN bs 8 8, prio := fieldN bs 17 1 % 8, privq := false, part := fieldN bs 16 1 % 16,
        state := 0, fln := 0 }
    let n : Next := { q := 2 ^ 18, qd := qd, ctx := c, rs := d.ctxRanges e c, bs := slots.take 64 }
    let (id, d) := d.takeId
    -- the rank rule of code 0x07 is the submitting module's
    let h := { d.hub with domcfg := d.hub.domcfg &&& ~~~0x7F#64 }
    let pool := n.ty = 2
    let bad := r.refused (if pool then .pool else .grid) (fieldN rb 20 1) c.sup h
    let p : Pkt :=
      { id := id, q := n.q, ridx := 0, ty := n.ty, flg := n.f 1 1, cstat := n.f 8 8, csig := n.f 16 8, cval := n.f 24 8, body := n.bs.drop 32,
        ctx := c, part := qd.part, started := true }
    let dom (lid : Nat) : Domain := { gen := g, launch := lid, pkt := id, nmod := r.nmod, sentAt := e.now }
    let refuse (d : Dev) (code : Nat) : Dev :=
      ({ d with pkts := d.pkts ++ [p], domains := d.domains ++ [dom 0] } : Dev).send 0 mReport g (d.hub.rank * 2 ^ 16 + code) []
    let accept (d : Dev) (kind : WKind) (f : Launch → Launch) : Dev :=
      let (lid, d) := d.newLaunch n id kind r fun l => { f l with held := true, gen := g }
      ({ d with pkts := d.pkts ++ [{ p with launch := some lid }], domains := d.domains ++ [dom lid] } : Dev).send 0 mReport g
        (d.hub.rank * 2 ^ 16) []
    match bad with
    | some code => refuse d code
    | none =>
      if !pool then accept d .grid fun l => l
      else if r.pool = 0 then refuse d 0x08
      else
        match n.read e d r.pool 64 with
        | (.ok pb false, d) =>
          if r.pool % 64 ≠ 0 || fieldN pb 0 8 % 4096 ≠ 0 || fieldN pb 16 8 % 32 ≠ 0 then refuse d 0x04
          else if !poolOk pb then refuse d 0x02
          else accept d .pool fun l =>
            { l with poolBase := fieldN pb 0 8, poolLog := fieldN pb 8 1, initBase := fieldN pb 16 8, initN := fieldN pb 24 8 }
        | (_, d) => refuse d 0x02

/-! ## Meanings -/

def execDoorbell : State → Host.Outcome State Fault Refusal := event fun e d => d.doorbell e d.arg.a

def execLaunch : State → Host.Outcome State Fault Refusal := event fun e d => d.launchPkt e d.arg.a

def execPoolLaunch : State → Host.Outcome State Fault Refusal := event fun e d => d.poolPkt e d.arg.a

def execRenderPassOpen : State → Host.Outcome State Fault Refusal := event fun e d => d.openPkt e d.arg.a

def execRenderPassClose : State → Host.Outcome State Fault Refusal := event fun e d => d.closePkt e d.arg.a

def execDrawMesh : State → Host.Outcome State Fault Refusal := event fun e d => d.meshPkt e d.arg.a

def execCopy : State → Host.Outcome State Fault Refusal := event fun e d => d.copyPkt e d.arg.a d.arg.b

def execWaitPacket : State → Host.Outcome State Fault Refusal := event fun e d => d.waitPkt e d.arg.a

def execWaitWatchRecheck : State → Host.Outcome State Fault Refusal := event fun e d => d.waitAgainQ e d.arg.a

def execWaitWatchTimeout : State → Host.Outcome State Fault Refusal := event fun e d => d.waitTimeoutQ e d.arg.a

def execSignal : State → Host.Outcome State Fault Refusal := event fun e d => d.signalPkt e d.arg.a

def execLink : State → Host.Outcome State Fault Refusal := event fun e d => d.linkPkt e d.arg.a

def execFencePacket : State → Host.Outcome State Fault Refusal := event fun e d => d.fencePkt e d.arg.a

def execPartitionSet : State → Host.Outcome State Fault Refusal := event fun e d => d.partitionPkt e d.arg.a

def execPacketComplete : State → Host.Outcome State Fault Refusal := event fun e d => d.packetDone e d.arg.a

def execFreeListGetAdvance : State → Host.Outcome State Fault Refusal := event fun e d => d.freePush e d.arg.a

def execEquinoxReport : State → Host.Outcome State Fault Refusal := event fun _ d => d.equinoxReport d.arg.a d.arg.b d.arg.c

def execEquinoxGo : State → Host.Outcome State Fault Refusal := event fun _ d => d.goNow d.arg.a

def execEquinoxAbort : State → Host.Outcome State Fault Refusal := event fun _ d => d.abortNow d.arg.a d.arg.b

def execEquinoxTimeout : State → Host.Outcome State Fault Refusal := event fun e d => d.equinoxTimeout e d.arg.a

def execEquinoxPacketReceive : State → Host.Outcome State Fault Refusal := event fun e d => d.equinoxPacket e d.arg.bytes

end Sys2Proof.Machine
end

