-- ==== Sys2Proof/Machine/Rinsar.lean ====
section
/-! DEFINITION. The Rinsar instructions of the firmware harts (spec/19, R452, R453). -/
namespace Sys2Proof.Machine

open Sys2Proof

/-! ## Common -/

/-- Hub cycles in core clocks, rounded up: 1,600 MHz against 600 MHz (R2). -/
def hubCycles (n : Nat) : Nat := (3 * n + 7) / 8

/-- The hart goes on behind the instruction with a result. -/
def Hart.done (h : Hart) (rd : Nat) (v : DWord) : Hart := { h.set rd v with pc := h.pc + 4#64, waiting := none, asking := none }

/-- The hub has not answered yet: the hart stands at the instruction (R453). -/
def Hart.ask (h : Hart) (now rd : Nat) : Hart :=
  { h with asking := match h.asking with
      | some a => some a
      | none => some (now, rd) }

/-- What a Rinsar instruction does: an exception with its mtval, the wait for the hub or for an event, or a result. -/
inductive HartEnd where
  | trap (cause : Nat) (tval : DWord)
  | ask
  | block (until_ : Nat)
  | result (v : DWord)

/-- A Rinsar instruction on the hart whose turn it is: refused in U-mode (R452). UNVERIFIED, log 38. -/
def onHart (rd : Nat) (f : Env → Dev → Hart → HartEnd × Dev) : State → Host.Outcome State Fault Refusal :=
  event fun e d =>
    let i := d.curHart
    let h := d.hart i
    if h.mode = 0 then d.modHart i (·.take 28 0#64)
    else
      match f e d h with
      | (.trap c v, d) => d.modHart i (·.take c v)
      | (.ask, d) => d.modHart i (·.ask e.now rd)
      | (.block t, d) => d.modHart i fun h => { h with waiting := some (t, rd) }
      | (.result v, d) => d.modHart i (·.done rd v)

/-- A buffer offset of `n` bytes breaks its rule. -/
def badOffset (o n : Nat) : Bool := o % 64 ≠ 0 || o + n > 16384

/-! ## rfetch -/

/-- The next unread slot of the queue in a hardware slot, and the advance of RIDX; a LINK also moves the queue (R431). -/
def Dev.rfetch (e : Env) (d : Dev) (slot off : DWord) : HartEnd × Dev :=
  if slot.toNat ≥ 4096 then (.trap 24 slot, d)
  else if badOffset off.toNat 64 then (.trap 25 off, d)
  else
    match d.queues.find? fun u => u.slot = some slot.toNat with
    | none => (.result 0#64, d)
    | some u =>
      match d.qd? e u.q with
      | none => (.ask, d)
      | some qd =>
        if qd.unread = 0 || qd.state = 4 || u.heldSeg.isSome then (.result 0#64, d)
        else
          match d.readCtx e qd.ctxd with
          | none => (.result 0#64, d.qError e u.q)
          | some c =>
            let n : Next := { q := u.q, qd := qd, ctx := c, rs := d.ctxRanges e c, bs := [] }
            match n.read e d (qd.seg + 64 * n.pos) 64 with
            | (.wait _, d) => (.ask, d)
            | (.lost _ _, d) => (.result 0#64, d.qError e u.q)
            | (.ok _ true, d) => (.trap 26 0#64, d)
            | (.ok bs false, d) =>
              let n := { n with bs := bs }
              let link := n.ty = 8 && n.f 32 8 % 4096 = 0
              let d := if link then d.linkMove e n else d
              let next := if link then qd.ridx + n.span false else qd.ridx + 1
              let d := d.qdPut e u.q 8 (leBytes 4 (next % 2 ^ 32))
              let d := if link then d.freePush e u.q else d
              (.result (BitVec.ofNat 64 (2 ^ 63 + qd.ridx)),
               d.modHart d.curHart fun h =>
                 { h with buf := ((List.range 64).zip bs).foldl (fun t p => Table.set 0#8 t (off.toNat + p.1) p.2) h.buf,
                          bufPoison := h.bufPoison.filter fun k => !(decide (off.toNat ≤ k) && decide (k < off.toNat + 64)) })

/-- UNVERIFIED, log 38. -/
def execRfetch (rd rs1 rs2 : BitVec 5) : State → Host.Outcome State Fault Refusal :=
  onHart rd.toNat fun e d h => d.rfetch e (h.get rs1.toNat) (h.get rs2.toNat)

/-! ## bfxt -/

/-- Bits lo + n − 1 down to lo of a register, zero-extended. -/
def bfxtValue (a b : DWord) : DWord :=
  let lo := b.toNat % 64
  let n := b.toNat / 64 % 64 + 1
  BitVec.ofNat 64 (a.toNat / 2 ^ lo % 2 ^ n)

def execBfxt (rd rs1 rs2 : BitVec 5) : State → Host.Outcome State Fault Refusal :=
  onHart rd.toNat fun _ d h => (.result (bfxtValue (h.get rs1.toNat) (h.get rs2.toNat)), d)

/-! ## swait -/

/-- An event at once, no event and no wait, or a block until the count has passed. -/
def Dev.swait (e : Env) (d : Dev) (h : Hart) (count : DWord) : HartEnd × Dev :=
  if !h.evEn then (.trap 30 0#64, d)
  else
    match h.evq, h.waiting with
    | v :: r, _ => (.result v, d.modHart d.curHart fun h => { h with evq := r })
    | [], some (t, _) => (.block t, d)
    | [], none => if count = 0#64 then (.result 0#64, d) else (.block (e.now + hubCycles count.toNat), d)

def execSwait (rd rs1 : BitVec 5) : State → Host.Outcome State Fault Refusal :=
  onHart rd.toNat fun e d h => d.swait e h (h.get rs1.toNat)

/-- SWAIT_TIMEOUT: hart. -/
def execSwaitTimeout : State → Host.Outcome State Fault Refusal :=
  event fun e d =>
    match (d.hart d.arg.a).waiting with
    | some (t, rd) => if t ≤ e.now then d.modHart d.arg.a (·.done rd 0#64) else d
    | none => d

/-! ## dspch -/

/-- The record in the buffer handed to the hub scheduler: 0, or the refusal code. -/
def Dev.dspch (e : Env) (d : Dev) (h : Hart) (off queue : DWord) : HartEnd × Dev :=
  let o := off.toNat
  if badOffset o 256 then (.trap 25 off, d)
  else if queue.toNat ≥ 2 ^ 18 then (.trap 27 queue, d)
  else if h.bufPoison.any (fun k => decide (o ≤ k) && decide (k < o + 256)) then (.trap 26 0#64, d)
  else if d.inFlight ≥ 1024 then (.ask, d)
  else
    match (d.qd? e queue.toNat).bind fun qd => (d.readCtx e qd.ctxd).map fun c => (qd, c) with
    | none => (.ask, d)
    | some (qd, c) =>
      let rb := (List.range 256).map fun i => Table.get 0#8 h.buf (o + i)
      let n : Next := { q := queue.toNat, qd := qd, ctx := c, rs := d.ctxRanges e c, bs := List.replicate 64 0#8 }
      match d.startGrid e n 0 rb with
      | (.refuse code, d) => (.result (BitVec.ofNat 64 code), d)
      | (_, d) => (.result 0#64, d)

def execDspch (rd rs1 rs2 : BitVec 5) : State → Host.Outcome State Fault Refusal :=
  onHart rd.toNat fun e d h => d.dspch e h (h.get rs1.toNat) (h.get rs2.toNat)

/-- RINSAR_HUB_TIMEOUT: hart. -/
def execRinsarHubTimeout : State → Host.Outcome State Fault Refusal :=
  event fun e d =>
    match (d.hart d.arg.a).asking with
    | some (t, _) => if t + hubCycles 65536 ≤ e.now then d.modHart d.arg.a (·.take 31 0#64) else d
    | none => d

end Sys2Proof.Machine
end

