-- ==== Sys2Proof/Machine/Lanes.lean ====
section
/-! DEFINITION. The trap collector's lanes and the Cairn engine (spec/16, R381; spec/18, R421, R422). -/
namespace Sys2Proof.Machine

open Sys2Proof

/-! ## Batches (R421) -/

/-- Pages that Cairn holds. -/
def Dev.cairnHeld (d : Dev) : Nat := d.cairnOpen.length + d.cairnClosed.foldl (fun n b => n + b.length) 0

/-- A page joins the open batch; the sixth closes it. -/
def Dev.cairnAdd (e : Env) (d : Dev) (p : BPage) : Dev :=
  let since := if d.cairnOpen.isEmpty then e.now else d.cairnSince
  let open_ := d.cairnOpen ++ [p]
  if open_.length ≥ 6 then { d with cairnOpen := [], cairnSince := since, cairnClosed := d.cairnClosed ++ [open_] }
  else { d with cairnOpen := open_, cairnSince := since }

/-- A predicted page: kept when its walk would fault, no episode is open on it, and no open batch holds it (R422). -/
def Dev.cairnPredict (e : Env) (d : Dev) (seq ctx ia : Nat) : Dev :=
  let ia := ia % 2 ^ 52
  let page := ia / 2 ^ 16
  if isDirect ia || (d.episode? page).isSome || d.cairnOpen.any (fun p => p.page = page) || d.cairnHeld ≥ 1024 then d
  else
    match d.walk e ia .rd with
    | .fault _ large => d.cairnAdd e { seq := seq, page := page, ctx := ctx, reason := 0, pred := true, large := large }
    | _ => d

/-- The intermediate addresses that a record predicts. -/
def Dev.predictions (e : Env) (d : Dev) (r : List Byte) : List Nat :=
  let f (o n : Nat) : Nat := fieldN r o n
  let unit := f 12 1 / 4 % 8
  let va := f 16 8
  let ia := f 24 8
  let hint0 := f 32 8
  let ctl := d.hub.cairnctl.toNat
  let at_ (x : Int) : Nat := bitsOf ((ia : Int) + x) 52
  if unit = 3 && ctl.testBit 15 && hint0 ≠ 0 then
    -- the parent lies in the same range as the node that faulted
    let parent := at_ ((hint0 : Int) - va)
    match d.l2? (parent / 128) with
    | none => []
    | some l =>
      let k := l.phys + parent % 128
      (List.range (min 8 (d.homeNat e (k + 1) 1))).map fun i => at_ ((hint0 : Int) - va + 64 * sNat 32 (d.homeNat e (k + 80 + 4 * i) 4))
  else if unit = 1 && ctl.testBit 14 then
    (upFrom 1 (min (f 40 2) (bitsN ctl 23 16))).map fun (k : Nat) => at_ ((k : Int) * sNat 64 hint0)
  else []

/-- Cairn takes a record handed over on lane R. -/
def Dev.cairnTake (e : Env) (d : Dev) (r : LaneRec) : Dev :=
  let f (o n : Nat) : Nat := fieldN r.data o n
  let ctx := f 8 2 % 4096
  let d := d.cairnAdd e
    { seq := r.seq, page := f 24 8 / 2 ^ 16, ctx := ctx, reason := f 13 1 % 4, pred := false, large := (f 14 1).testBit 0 }
  (d.predictions e r.data).foldl (fun d ia => d.cairnPredict e r.seq ctx ia) d

/-! ## Handing over (R381, R449) -/

/-- A held record enters lane R when it has room (R417). -/
def Dev.refillR (d : Dev) : Dev :=
  match d.laneRHeld with
  | [] => d
  | (core, data) :: rest =>
    if d.laneR.length ≥ 16384 then d
    else
      let (n, d) := d.stamp
      { d with laneRHeld := rest,
               laneR := d.laneR ++ [{ seq := n, core := core, part := 0, ctx := fieldN data 8 2, data := leBytes 8 n ++ data.drop 8 }] }

/-- LANE_RECORD_HANDOVER: the oldest record of lane H, else the oldest of lane R if Cairn accepts it. -/
def Dev.handOver (e : Env) (d : Dev) : Dev :=
  match d.laneH with
  | r :: rest =>
    let d : Dev := { d with laneH := rest, handed := d.handed ++ [r] }
    let d := d.modCore r.core fun k => { k with laneH := k.laneH - 1 }
    (d.postEvent e 1 r.part r.ctx ((r.data.drop 8).take 16)).hartEvent 4 r.seq
  | [] =>
    match d.laneR with
    | [] => d
    | r :: rest =>
      if d.cairnHeld ≥ 1024 then d
      else ((({ d with laneR := rest, handed := d.handed ++ [r] } : Dev).cairnTake e r).refillR).hartEvent 4 r.seq

/-! ## The batch ring (R421) -/

/-- CAIRN_BATCH_WINDOW. -/
def Dev.cairnWindow (e : Env) (d : Dev) : Dev :=
  if !d.cairnOpen.isEmpty && d.cairnSince + max 1 (d.hub.cairnctl.toNat % 2 ^ 11) ≤ e.now then
    { d with cairnClosed := d.cairnClosed ++ [d.cairnOpen], cairnOpen := [] }
  else d

/-- The 64 bytes of a batch. -/
def batchBytes (b : List BPage) : List Byte :=
  let page (p : BPage) : List Byte :=
    leBytes 8 (p.page % 2 ^ 36 + p.ctx % 4096 * 2 ^ 36 + p.reason % 4 * 2 ^ 48 + (if p.pred then 2 ^ 50 else 0) + if p.large then 2 ^ 51 else 0)
  padTo 64 (leBytes 8 ((b.head?.map (·.seq)).getD 0) ++ leBytes 1 b.length ++ leBytes 7 0 ++ b.flatMap page)

/-- Bytes of one line written in local GDDR 7; those beyond its end are discarded (R426). -/
def Dev.gddrWrite (d : Dev) (a : Nat) (bs : List Byte) : Dev :=
  (d.recallNow (storeKey 0 a / 128)).write (storeKey 0 a) (bs.take (gddrSize - a))

/-- CAIRN_RING_WRITE: the oldest closed batch, when HEAD − TAIL leaves room. -/
def Dev.ringWrite (e : Env) (d : Dev) : Dev :=
  match d.cairnClosed with
  | [] => d
  | b :: rest =>
    let v := d.hub.fqbase.toNat
    let base := bitsN v 37 12 * 2 ^ 12
    let n := 2 ^ max 4 (v % 16)
    let head := d.homeNat e (storeKey 0 base) 8
    let tail := d.homeNat e (storeKey 0 (base + 8)) 8
    if !d.installed 0 base 16 || d.poisoned (storeKey 0 base) 16 || (head + 2 ^ 64 - tail) % 2 ^ 64 ≥ n then d
    else (({ d with cairnClosed := rest } : Dev).gddrWrite (base + 64 + 64 * (head % n)) (batchBytes b)).gddrWrite base (leBytes 8 (head + 1))

/-! ## Meanings -/

def execLaneRecordHandover : State → Host.Outcome State Fault Refusal := event fun e d => d.handOver e

def execCairnBatchWindow : State → Host.Outcome State Fault Refusal := event fun e d => d.cairnWindow e

def execCairnRingWrite : State → Host.Outcome State Fault Refusal := event fun e d => d.ringWrite e

end Sys2Proof.Machine
end

