-- ==== Sys2Proof/Machine/Coherence.lean ====
section
/-! DEFINITION. Homes, agents and the coherence protocol; peer links; the downstream ports (spec/20, R454 to R467). An agent is numbered
0 for the other die's L2, 1 and 2 for the host's halves 0 and 1, 3 for the module's own slice toward the host, 128 + m for peer module m.
A line of device memory is numbered by its place in its store. -/
namespace Sys2Proof.Machine

open Sys2Proof

/-! ## The directory (R457) -/

/-- The two halves of the host are one agent. DEDUCED, log 34. -/
def sameAgent (a b : Nat) : Bool := a = b || ((a = 1 || a = 2) && (b = 1 || b = 2))

/-- OWN of an agent. -/
def ownCode (a : Nat) : Nat := if a = 0 then 0 else if a < 128 then 1 else a

/-- Peer modules that an entry may name, other than this one. -/
def Dev.peersIn (d : Dev) (pv : Nat) : List Nat :=
  (List.range (d.hub.maxRank + 1)).filterMap fun m => if pv.testBit (m / 8) && m ≠ d.hub.rank then some (128 + m) else none

/-- The agents that an entry says may hold the line. -/
def Dev.holders (d : Dev) (en : DirEnt) : List Nat :=
  match en.st with
  | 1 => (if en.ds then [0] else []) ++ (if en.hs.testBit 0 then [1] else []) ++ (if en.hs.testBit 1 then [2] else []) ++ d.peersIn en.pv
  | 2 => if en.own = 0 then [0] else if en.own = 1 then [1, 2] else [en.own]
  | _ => []

/-- An agent joins the sharers of an entry. -/
def DirEnt.share (en : DirEnt) (a : Nat) : DirEnt :=
  let e1 := { en with st := 1, own := 0 }
  if a = 0 then { e1 with ds := true }
  else if a = 1 || a = 2 then { e1 with hs := en.hs ||| a }
  else if a ≥ 128 && a < 256 then { e1 with pv := en.pv ||| 2 ^ ((a - 128) / 8 % 16) }
  else en

def Dev.putDir (d : Dev) (line : Nat) (en : DirEnt) : Dev := { d with dir := Table.set {} d.dir line en }

/-! ## Copies of agents -/

def Dev.copyOf (d : Dev) (a line : Nat) : Nat := ((d.copies.find? fun c => c.agent = a && c.line = line).map (·.mesi)).getD 0

def Dev.putCopy (d : Dev) (a line m : Nat) : Dev :=
  let rest := d.copies.filter fun c => !(c.agent = a && c.line = line)
  { d with copies := if m = 0 then rest else { agent := a, line := line, mesi := m } :: rest }

/-- The store key and length of what an agent holds of a line. -/
def agentSpan (a line : Nat) : Nat × Nat :=
  if a = 1 then (128 * line, 64) else if a = 2 then (128 * line + 64, 64) else (128 * line, 128)

/-- Messages (R458): SnpS, SnpI, Rsp, GO, GOack. -/
def mSnpS : Nat := 0
def mSnpI : Nat := 1
def mRsp : Nat := 2
def mGrant : Nat := 3
def mGoAck : Nat := 4

/-- The agent code of the home, as the destination of a message. -/
def agentHome : Nat := 0xFFFE

/-! ## The home (R459, R460) -/

def Dev.txn? (d : Dev) (line : Nat) : Option Txn := d.txns.find? fun t => t.req.line = line

def Dev.modTxn (d : Dev) (line : Nat) (f : Txn → Txn) : Dev :=
  { d with txns := d.txns.map fun t => if t.req.line = line then f t else t }

/-- The entry after a grant, and what is granted: 1 S, 2 E. An owner that was snooped remains as its copy answered; sharers may have
dropped theirs silently, so the entry keeps them. -/
def Dev.granted (d : Dev) (t : Txn) : DirEnt × Nat :=
  let a := t.req.agent
  let en := d.dirEnt t.req.line
  let others := (d.holders en).filter fun b => !sameAgent a b
  let mine : DirEnt := { st := 2, own := ownCode a }
  if t.req.kind ≠ 0 || others.isEmpty then (mine, 2)
  else if en.st = 1 then (en.share a, 1)
  else
    match others.filter fun b => d.copyOf b t.req.line ≠ 0 with
    | [] => (mine, 2)
    | left => ((left.foldl (fun (x : DirEnt) b => x.share b) {}).share a, 1)

/-- The grant of a transaction whose snoops are all answered; the home's own access goes on at once and leaves no entry of its own. -/
def Dev.grant (e : Env) (d : Dev) (t : Txn) : Dev :=
  let line := t.req.line
  let a := t.req.agent
  let g := d.granted t
  if a = agentOwn then
    let d := d.putDir line (if g.2 = 2 then {} else g.1)
    { d with txns := d.txns.filter fun u => u.req.line ≠ line,
             ops := d.ops.map fun o => { o with parts := o.parts.map fun p => if p.st = .fill then { p with st := .walk } else p } }
  else
    let sp := agentSpan a line
    let data := if t.withData then d.bytes e sp.1 sp.2 else []
    ((d.putDir line g.1).modTxn line fun t => { t with sent := true, granted := g.2 }).send a mGrant line
      (g.2 + if t.withData then 4 else 0) data

/-- A recovered line: the entry is I; two dirty answers leave poison. -/
def Dev.recovered (d : Dev) (t : Txn) : Dev :=
  let line := t.req.line
  let d := if t.dirty ≥ 2 then d.poisonAt (128 * line) 128 else d
  let d := d.putDir line {}
  { d with copies := d.copies.filter fun c => c.line ≠ line, txns := d.txns.filter fun u => u.req.line ≠ line, reqs := t.req :: d.reqs }

/-- The home takes the oldest request of a line, when no transaction of it is open: an unreadable entry is recovered first, else
the other holders are snooped. DEDUCED, log 34. -/
def Dev.serveOnce (e : Env) (d : Dev) (line : Nat) : Dev :=
  match d.txn? line, d.reqs.find? fun r => r.line = line with
  | none, some r =>
    let en := d.dirEnt line
    let d : Dev := { d with reqs := d.reqs.erase r }
    if en.st = 3 then
      let all := 0 :: 1 :: 2 :: d.peersIn (2 ^ 16 - 1)
      let d := d.postBadWrite 0 0 (lineIa line)
      let d : Dev := { d with txns := d.txns ++ [{ req := r, snoops := all.map fun a => (a, true), recovery := true }] }
      all.foldl (fun d a => d.send a mSnpI line 0 []) d
    else
      let hs := (d.holders en).filter fun b => !sameAgent r.agent b
      let shares := en.st = 1 && (d.holders en).contains r.agent
      let snoop := if r.kind = 0 then (if en.st = 2 then hs else []) else hs
      let t : Txn := { req := r, snoops := snoop.map fun a => (a, decide (r.kind ≠ 0)), withData := !(r.kind = 2 && shares) }
      let d : Dev := { d with txns := d.txns ++ [t] }
      if snoop.isEmpty then d.grant e t
      else snoop.foldl (fun d a => d.send a (if r.kind = 0 then mSnpS else mSnpI) line 0 []) d
  | _, _ => d

/-- A request reaches the arbiter of its home. DEDUCED, log 34. -/
def Dev.request (e : Env) (d : Dev) (a line kind : Nat) : Dev :=
  ({ d with reqs := d.reqs ++ [{ agent := a, line := line, kind := kind }] } : Dev).serveOnce e line

/-- WB: agent, line, data. The home takes M data from the owner alone. DEDUCED, log 34. -/
def Dev.wbAgent (d : Dev) (a line : Nat) (data : List Byte) : Dev :=
  let en := d.dirEnt line
  let sp := agentSpan a line
  let d := d.putCopy a line 0
  if en.st = 2 && en.own = ownCode a then
    let d := d.write sp.1 (data.take sp.2)
    let other := if a = 1 then d.copyOf 2 line else if a = 2 then d.copyOf 1 line else 0
    if (d.txn? line).isSome then d
    else if other ≥ 2 then d
    else if other = 1 then d.putDir line ({} : DirEnt) |>.putDir line (({} : DirEnt).share (3 - a))
    else d.putDir line {}
  else d

/-- A snoop at an agent: its copy moves to S or I, and its answer goes to the home, with data when it was dirty and CNF when it has a
request pending (R459). The module's own slice drops its lines of host memory and wakes what watches them (R441, R455). -/
def Dev.snoop (e : Env) (d : Dev) (a line : Nat) (inv : Bool) : Dev :=
  let k := if inv then mSnpI else mSnpS
  let d : Dev := { d with msgs := d.msgs.erase { dst := a, kind := k, line := line, arg := 0 } }
  let cnf := d.reqs.any fun r => sameAgent r.agent a && r.line = line
  if a = 3 then
    let own := d.l2.filter fun l => l.phys / 128 = line
    let dirty := own.any (·.dirty)
    let d : Dev := { d with l2 := if inv then d.l2.filter fun l => l.phys / 128 ≠ line
                              else d.l2.map fun l => if l.phys / 128 = line then { l with dirty := false, grant := false } else l }
    let d := if inv then d.touch line else d
    d.send agentHome mRsp line ((if inv then 0 else 1) + if dirty then 4 else 0) (if dirty then d.bytes e (128 * line) 128 else [])
  else
    let m := d.copyOf a line
    let sp := agentSpan a line
    let d := d.putCopy a line (if inv then 0 else min m 1)
    -- the other die's data stands in the module's own memory; an agent outside supplies its data with its answer
    let data := if m = 3 && a = 0 then d.bytes e sp.1 sp.2 else []
    d.send agentHome mRsp line (a * 16 + (if cnf then 8 else 0) + (if m = 3 then 4 else 0) + (if inv then 0 else min m 1)) data

/-- RSP: agent, line, data. The last answer lets the home grant. DEDUCED, log 34. -/
def Dev.response (e : Env) (d : Dev) (a line : Nat) (data : List Byte) : Dev :=
  let d : Dev := { d with msgs := d.msgs.filter fun m => !(m.kind = mRsp && m.dst = agentHome && m.line = line && m.arg / 16 = a) }
  match d.txn? line with
  | none => d
  | some t =>
    if !t.snoops.any (fun p => p.1 = a) || t.sent then d
    else
      let sp := agentSpan a line
      let d := if data.isEmpty || (t.recovery && t.dirty ≥ 1) then d else d.write sp.1 (data.take sp.2)
      let t' : Txn := { t with snoops := t.snoops.filter fun p => p.1 ≠ a, dirty := if data.isEmpty then t.dirty else t.dirty + 1 }
      let d := d.modTxn line fun _ => t'
      if !t'.snoops.isEmpty then d
      else if t.recovery then (d.recovered t').serveOnce e line
      else d.grant e t'

/-- GO: agent, line. The grant reaches the agent. -/
def Dev.goArrives (d : Dev) (a line : Nat) : Dev :=
  match d.msgs.find? fun m => m.kind = mGrant && m.dst = a && m.line = line with
  | none => d
  | some m =>
    (({ d with msgs := d.msgs.erase m } : Dev).putCopy a line (m.arg % 4)).send agentHome mGoAck line a []

/-- GOACK: agent, line. The transaction ends, and the next request of the line is served. -/
def Dev.goAck (e : Env) (d : Dev) (a line : Nat) : Dev :=
  let d : Dev := { d with msgs := d.msgs.filter fun m => !(m.kind = mGoAck && m.line = line && m.arg = a) }
  match d.txn? line with
  | none => d
  | some t =>
    if t.sent && t.req.agent = a then
      ({ d with txns := d.txns.filter fun u => u.req.line ≠ line } : Dev).serveOnce e line
    else d

/-! ## Downstream ports (R463) -/

/-- DEDUCED, log 34. -/
def Dev.portDown (d : Dev) (p : Nat) : Dev := d.modHub fun h => { h with cxlup := putAt false h.cxlup p }

/-- DOWNSTREAM_PORT_LINK_UP: port and capacity in 64 KiB units. -/
def Dev.portUp (d : Dev) (p cap : Nat) : Dev :=
  d.modHub fun h => { h with cxlup := putAt true h.cxlup p, cxlcap := putAt (cap % 2 ^ 25 * 2 ^ 16) h.cxlcap p }

/-! ## Peer links (R465, R466) -/

def Dev.modLink (d : Dev) (i : Nat) (f : Link → Link) : Dev := { d with links := modAt f d.links i }

/-- The 128 bytes of a flit. DESIGN CHOICE, log 11; DEDUCED, log 35. -/
def flitBytes (seq vc dst src ctl ack : Nat) (payload : List Byte) : List Byte :=
  let head := leBytes 2 seq ++ leBytes 1 vc ++ leBytes 1 dst ++ leBytes 1 src ++ leBytes 1 ctl ++ leBytes 2 ack ++ padTo 112 payload
  head ++ leBytes 8 (Config.crc64 head).toNat

/-- A flit sent and kept until it is acknowledged. DEDUCED, log 35. -/
def Link.push (l : Link) (vc dst src ctl : Nat) (payload : List Byte) : Link :=
  let f := flitBytes l.txSeq vc dst src ctl ((l.rxSeq + 2 ^ 16 - 1) % 2 ^ 16) payload
  { l with txSeq := (l.txSeq + 1) % 2 ^ 16, unacked := l.unacked ++ [f], out := l.out ++ [f] }

/-- A sender has at most 512 flits unacknowledged and obeys XOFF. -/
def Link.maySend (l : Link) (vc : Nat) : Bool := l.up && l.unacked.length < 512 && !(l.xoff.getD vc false)

/-- Flits up to a sequence number are acknowledged. -/
def ackUpTo (ack : Nat) (fs : List (List Byte)) : List (List Byte) :=
  match fs.findIdx? fun f => fieldN f 0 2 = ack with
  | some i => fs.drop (i + 1)
  | none => fs

/-- The link goes down: flits of this module that it lost are sent on the routes that remain. DEDUCED, log 35. -/
def Dev.linkDown (d : Dev) (i : Nat) : Dev :=
  let lost := ((d.links.getD i {}).unacked).filter fun f => fieldN f 4 1 = d.hub.rank && fieldN f 5 1 = 0
  let d := d.modLink i fun l => { l with up := false, unacked := [], vcs := [[], [], [], []] }
  lost.foldl (fun d f =>
    match d.routeLink (fieldN f 3 1) with
    | some j => d.modLink j fun l => l.push (fieldN f 2 1) (fieldN f 3 1) (fieldN f 4 1) 0 ((f.drop 8).take 112)
    | none => d) d

/-- NAK with the last good SEQ, counted in LINKST. -/
def Dev.nak (d : Dev) (i src : Nat) : Dev :=
  let n := bitsN d.hub.linkst.toNat 39 8
  let d := d.modHub fun h => { h with linkst := BitVec.ofNat 64 (min (n + 1) (2 ^ 32 - 1) * 2 ^ 8) }
  d.modLink i fun l => l.push 0 src d.hub.rank 8 []

/-- PEER_FLIT_RECEIVE: link and flit. DESIGN CHOICE, log 11; DEDUCED, log 35. -/
def Dev.flitIn (d : Dev) (i : Nat) (f : List Byte) : Dev :=
  let l := d.links.getD i {}
  let n (o k : Nat) : Nat := fieldN f o k
  let vc := n 2 1 % 4
  if !l.up then d
  else if f.length ≠ 128 || Config.crc64 (f.take 120) ≠ BitVec.ofNat 64 (n 120 8) || n 0 2 ≠ l.rxSeq || (l.vcs.getD vc []).length ≥ 768 then
    d.nak i (n 4 1)
  else
    let ctl := n 5 1
    let cvc := bitsN ctl 5 4
    let x := if ctl.testBit 0 then putAt true l.xoff cvc else l.xoff
    let x := if ctl.testBit 1 then putAt false x cvc else x
    let left := if ctl.testBit 2 || ctl.testBit 3 then ackUpTo (n 6 2) l.unacked else l.unacked
    let moved := left.length < l.unacked.length
    let run := if moved then (if ctl.testBit 3 then 1 else 0) else if ctl.testBit 3 then l.nakRun + 1 else l.nakRun
    let l := { l with rxSeq := (l.rxSeq + 1) % 2 ^ 16, xoff := x, unacked := left, nakRun := run,
                      out := if ctl.testBit 3 then l.out ++ left else l.out }
    -- a flit with link control carries no message
    let l := if ctl = 0 then { l with vcs := modAt (· ++ [f]) l.vcs vc }.push 0 (n 4 1) d.hub.rank 4 [] else l
    let l := if ctl = 0 && (l.vcs.getD vc []).length = 192 then
        { l with sentXoff := putAt true l.sentXoff vc }.push 0 (n 4 1) d.hub.rank (1 + 16 * vc) []
      else l
    let d := d.modLink i fun _ => l
    if run ≥ 16 then d.linkDown i else d

/-- A message of the module's own for want of a route: poison for a request, nothing held for a snoop (R466). -/
def mPoison : Nat := 24
def mNothing : Nat := 25

/-- The oldest flit of a VC buffer goes on: to this module, or on its route. DESIGN CHOICE, log 33; DEDUCED, log 35. -/
def Dev.drain1 (d : Dev) (i vc : Nat) : Dev :=
  let l := d.links.getD i {}
  match l.vcs.getD vc [] with
  | [] => d
  | f :: rest =>
    let dst := fieldN f 3 1
    let src := fieldN f 4 1
    let pop (d : Dev) : Dev :=
      d.modLink i fun l =>
        let l := { l with vcs := putAt rest l.vcs vc }
        if rest.length = 64 && l.sentXoff.getD vc false then
          { l with sentXoff := putAt false l.sentXoff vc }.push 0 src d.hub.rank (2 + 16 * vc) []
        else l
    if dst = d.hub.rank then pop { d with inbox := d.inbox ++ [(f.drop 8).take 112] }
    else
      match d.routeLink dst with
      | none => if vc = 0 then (pop d).send src mPoison 0 0 [] else if vc = 1 then (pop d).send src mNothing 0 0 [] else pop d
      | some j =>
        if (d.links.getD j {}).maySend vc then (pop d).modLink j fun l => l.push vc dst src 0 ((f.drop 8).take 112) else d

/-- PEER_LINK_TRAINED: link. DEDUCED, log 35. -/
def Dev.linkUp (d : Dev) (i : Nat) : Dev :=
  if d.hub.peercfg.getLsbD (i % 8) && i < 8 then d.modLink i fun _ => { up := true } else d

/-! ## Meanings -/

def execRds : State → Host.Outcome State Fault Refusal := event fun e d => d.request e d.arg.a d.arg.b 0

def execRdx : State → Host.Outcome State Fault Refusal := event fun e d => d.request e d.arg.a d.arg.b 1

def execUpg : State → Host.Outcome State Fault Refusal := event fun e d => d.request e d.arg.a d.arg.b 2

def execWb : State → Host.Outcome State Fault Refusal := event fun _ d => d.wbAgent d.arg.a d.arg.b d.arg.bytes

def execSnps : State → Host.Outcome State Fault Refusal := event fun e d => d.snoop e d.arg.a d.arg.b false

def execSnpi : State → Host.Outcome State Fault Refusal := event fun e d => d.snoop e d.arg.a d.arg.b true

def execRsp : State → Host.Outcome State Fault Refusal := event fun e d => d.response e d.arg.a d.arg.b d.arg.bytes

def execGo : State → Host.Outcome State Fault Refusal := event fun _ d => d.goArrives d.arg.a d.arg.b

def execGoack : State → Host.Outcome State Fault Refusal := event fun e d => d.goAck e d.arg.a d.arg.b

def execCxlPortLinkDown : State → Host.Outcome State Fault Refusal := event fun _ d => d.portDown d.arg.a

def execDownstreamPortLinkUp : State → Host.Outcome State Fault Refusal := event fun _ d => d.portUp d.arg.a d.arg.b

def execPeerFlitReceive : State → Host.Outcome State Fault Refusal := event fun _ d => d.flitIn d.arg.a d.arg.bytes

def execPeerLinkTrained : State → Host.Outcome State Fault Refusal := event fun _ d => d.linkUp d.arg.a

end Sys2Proof.Machine
end

