-- ==== Sys2Proof/Machine/Display.lean ====
section
/-! DEFINITION. The display heads: mode timing, complete frames and late re-projection (spec/20, R468 to R471). -/
namespace Sys2Proof.Machine

open Sys2Proof

/-! ## Head blocks and timing (R468, R469) -/

/-- The block of a head, if it can be read. -/
def Dev.headBlock (e : Env) (d : Dev) (h : Nat) : Option (List Byte) :=
  d.iaBytes e (bitsN d.hub.dspbase.toNat 51 8 * 2 ^ 8 + 64 * h) 64

def hact (b : List Byte) : Nat := fieldN b 44 2
def vact (b : List Byte) : Nat := fieldN b 46 2
def htot (b : List Byte) : Nat := fieldN b 50 2
def vtot (b : List Byte) : Nat := fieldN b 54 2
def pclk (b : List Byte) : Nat := fieldN b 60 4

/-- The limits of R468. -/
def timingOk (b : List Byte) : Bool :=
  let hsw := fieldN b 49 1
  let hstart := fieldN b 52 2
  let vstart := fieldN b 56 2
  let vsw := fieldN b 58 1
  1 ≤ hact b && hact b ≤ 7680 && 1 ≤ vact b && vact b ≤ 4320 && 1 ≤ hsw && hact b + 2 ≤ htot b && htot b ≤ 16383 && hsw + 1 ≤ hstart &&
  hstart + hact b ≤ htot b && vact b + 2 ≤ vtot b && vtot b ≤ 8191 && 1 ≤ vsw && vsw + 1 ≤ vstart && vstart + vact b ≤ vtot b &&
  25000 ≤ pclk b && pclk b ≤ 3232000

/-- T_g of a frame: the last cc before its vblank start minus the guard time. Pixels are counted from the start of the first frame's
vertical sync, and a cc is 600,000 to the kHz of the pixel clock. -/
def guardTime (b : List Byte) (start frame guard : Nat) : Nat :=
  let px := frame * (htot b * vtot b) + (fieldN b 56 2 + vact b - 1) * htot b + fieldN b 52 2 + hact b
  start + (px * 600000 + pclk b - 1) / pclk b - 1 - guard

def Dev.headOf (d : Dev) (h : Nat) : Head := d.heads.getD h {}
def Dev.modHead (d : Dev) (h : Nat) (f : Head → Head) : Dev := { d with heads := modAt f d.heads h }

/-- A disabled head whose HFLG[0] has become 1 takes its timing; one whose timing breaks a limit stays disabled.
DEDUCED, log 36. -/
def Dev.pollHead (e : Env) (d : Dev) (h : Nat) : Dev :=
  if (d.headOf h).on then d
  else
    match d.headBlock e h with
    | none => d
    | some b =>
      let en := (fieldN b 48 1).testBit 0
      if en && !(d.headOf h).seen && timingOk b then
        d.modHead h fun x => { x with on := true, seen := true, timing := b, startAt := e.now, frames := 0 }
      else d.modHead h fun x => { x with seen := en }

/-- HEAD_ENABLE_POLL. DEDUCED, log 36. -/
def Dev.headPoll (e : Env) (d : Dev) : Dev := (List.range 4).foldl (fun d h => d.pollHead e h) { d with headPollAt := e.now }

/-! ## Late re-projection (R470) -/

/-- A row of a 3×4 matrix applied to a vector; `w` is 1 for a point and 0 for a direction. -/
def matRow (m : List Q) (r : Nat) (v : Q × Q × Q) (w : Bool) : Q :=
  let g (c : Nat) : Q := m.getD (4 * r + c) Q.zero
  let s := (((g 0).mul v.1).add ((g 1).mul v.2.1)).add ((g 2).mul v.2.2)
  if w then s.add (g 3) else s

def matVec (m : List Q) (v : Q × Q × Q) (w : Bool) : Q × Q × Q := (matRow m 0 v w, matRow m 1 v w, matRow m 2 v w)

/-- What the warp of a frame uses. -/
structure Warp where
  w : Nat
  h : Nat
  k : List Q
  world : List Q
  view : List Q

/-- The target and the depth of a source pixel. -/
def Warp.target (p : Warp) (x y : Nat) (z : FV) : Option (Nat × Q) :=
  let kk (i : Nat) : Q := p.k.getD i Q.zero
  let d : Q × Q × Q := (((⟨2 * (x : Int) + 1, 2⟩ : Q).sub (kk 2)).div (kk 0), ((⟨2 * (y : Int) + 1, 2⟩ : Q).sub (kk 3)).div (kk 1), Q.one)
  let q : Option (Q × Q × Q) :=
    match z with
    | .nan _ => none
    | .inf neg => if neg then none else some (matVec p.view (matVec p.world d false) false)
    | v =>
      let s := v.q
      if Q.zero.lt s then some (matVec p.view (matVec p.world (s.mul d.1, s.mul d.2.1, s) true) true) else none
  match q with
  | none => none
  | some (qx, qy, qz) =>
    if !Q.zero.lt qz then none
    else
      let tx := (((kk 0).mul (qx.div qz)).add (kk 2)).floor
      let ty := (((kk 1).mul (qy.div qz)).add (kk 3)).floor
      if 0 ≤ tx && tx < p.w && 0 ≤ ty && ty < p.h then some ((ty * p.w + tx).toNat, qz) else none

/-- The source kept at each target: the least depth, ties to the lower source index. -/
def Warp.kept (p : Warp) (depth : Nat → FV) : Table (Nat × Q) :=
  (List.range (p.w * p.h)).foldl (fun (t : Table (Nat × Q)) i =>
    match p.target (i % p.w) (i / p.w) (depth i) with
    | none => t
    | some (at_, z) =>
      match t.find? fun q => q.1 = at_ with
      | some (_, _, z0) => if z.lt z0 then t.put at_ (i, z) else t
      | none => t.put at_ (i, z)) []

/-- The source of every pixel of a row: its own, else the nearest filled one's, ties to the left; none where the row is empty. -/
def rowSources (t : Table (Nat × Q)) (w y : Nat) : List (Option Nat) :=
  let own := (List.range w).map fun x => (t.find? fun q => q.1 = y * w + x).map fun q => q.2.1
  let filled := (List.range w).filter fun x => (own.getD x none).isSome
  (List.range w).map fun x =>
    match minBy (fun f => 2 * (max f x - min f x) + if f > x then 1 else 0) filled with
    | some f => own.getD f none
    | none => none

/-- The colour bytes of a source pixel; those that cannot be read are free values. DEDUCED, log 36. -/
def Dev.colourAt (e : Env) (d : Dev) (desc : List Byte) (w i : Nat) : List Byte :=
  (d.iaBytes e (fieldN desc 0 8 + i / w * fieldN desc 8 4 + 4 * (i % w)) 4).getD (hdrBytes (d.fresh + 4 * i) 4)

def Dev.depthAt (e : Env) (d : Dev) (desc : List Byte) (w i : Nat) : FV :=
  match d.iaBytes e (fieldN desc 16 8 + i / w * fieldN desc 24 4 + 4 * (i % w)) 4 with
  | some bs => f32V (leNat bs)
  | none => .nan false

/-- The last complete frame warped into the warp buffer. Camera numbers that are not finite, and a focal length of zero, leave free
values there. DEDUCED, log 36. -/
def Dev.warp (e : Env) (d : Dev) (block desc : List Byte) (pose : List Word) (wbuf : Nat) : Dev :=
  let w := hact block
  let h := vact block
  let nums (o n : Nat) : List FV := (wordsAt desc o n).map fun x => f32V x.toNat
  let all := nums 32 4 ++ nums 48 12 ++ pose.map fun x => f32V x.toNat
  let k := (nums 32 4).map FV.q
  let free := all.any (fun v => !v.finite) || (k.getD 0 Q.zero).isZero || (k.getD 1 Q.zero).isZero
  let p : Warp := { w := w, h := h, k := k, world := (nums 48 12).map FV.q, view := pose.map fun x => (f32V x.toNat).q }
  let t := if free then [] else p.kept fun i => d.depthAt e desc w i
  let rows := (List.range h).map fun y =>
    if free then hdrBytes (d.fresh + 4 * w * y) (4 * w)
    else
      ((List.range w).zip (rowSources t w y)).flatMap fun q => d.colourAt e desc w (q.2.getD (y * w + q.1))
  let bs := rows.flatMap id
  (Dev.iaWrite e (linesOf bs.length) wbuf bs { d with fresh := d.fresh + 4 * w * h }).2

/-! ## T_g (R470, R471) -/

/-- DISPLAY_GUARD_TIME: head. DEDUCED, log 36. -/
def Dev.guardStep (e : Env) (d : Dev) (h : Nat) : Dev :=
  let x := d.headOf h
  if !x.on then d
  else
    let d := d.modHead h fun x => { x with frames := x.frames + 1 }
    match d.headBlock e h with
    | none => d
    | some b =>
      if !(fieldN b 48 1).testBit 0 then d.modHead h fun x => { x with on := false, seen := false }
      else
        let ready := (d.iaBytes e (fieldN b 8 8) 8).map leNat
        let desc := d.iaBytes e (fieldN b 0 8) 128
        match ready, desc with
        | some r, some f =>
          if r ≥ fieldN b 16 8 then d.modHead h fun x => { x with lastFrame := some f, out := 1 }
          else
            -- SEQ is read twice in one step: the pose is taken when it is even
            let pose := match d.iaBytes e (fieldN b 24 8) 64 with
              | some p => if fieldN p 0 8 % 2 = 0 then some (wordsAt p 8 12) else x.pose
              | none => x.pose
            let d := d.modHead h fun x => { x with pose := pose }
            match x.lastFrame, pose with
            | none, _ => d.modHead h fun x => { x with out := 0 }
            | some _, none => d.modHead h fun x => { x with out := 1 }
            | some last, some v =>
              if (hact x.timing * vact x.timing + 63) / 64 + 64 > fieldN b 40 4 then d.modHead h fun x => { x with out := 1 }
              else (d.warp e x.timing last v (fieldN b 32 8)).modHead h fun x => { x with out := 2 }
        | _, _ => d.modHead h fun x => { x with out := if x.lastFrame.isSome then 1 else 0 }

/-- T_g of a head's next frame has come. -/
def Dev.guardDue (e : Env) (d : Dev) (h : Nat) : Bool :=
  let x := d.headOf h
  x.on &&
  match d.headBlock e h with
  | some b => guardTime x.timing x.startAt x.frames (fieldN b 40 4) ≤ e.now
  | none => guardTime x.timing x.startAt x.frames 0 ≤ e.now

/-! ## Meanings -/

def execDisplayGuardTime : State → Host.Outcome State Fault Refusal := event fun e d => d.guardStep e d.arg.a

def execHeadEnablePoll : State → Host.Outcome State Fault Refusal := event fun e d => d.headPoll e

end Sys2Proof.Machine
end

