-- ==== Sys2Proof/Machine/Boot.lean ====
section
/-! DEFINITION. Reset, bring-up, attestation, errors and power (spec/21, R472 to R483). -/
namespace Sys2Proof.Machine

open Sys2Proof

/-! ## The mailbox (R473) -/

def imageLimit : Nat := 32 * 2 ^ 20

/-- A response of the mailbox. -/
def Dev.reply (d : Dev) (bs : List Byte) : Dev := { d with out := d.out ++ [bs] }

/-- The 8 bytes of BOOTST. -/
def Dev.bootst (d : Dev) : List Byte := leBytes 8 (d.hartReg 0).toNat

/-- A state in which an image is accepted. -/
def Dev.takesImage (d : Dev) : Bool := d.hub.bootState = 1 || d.hub.bootState = 4

/-- IMAGE: offset and bytes. DEDUCED, log 37. -/
def Dev.imageIn (d : Dev) (off : Nat) (bs : List Byte) : Dev :=
  if !d.takesImage || bs.length > 2 ^ 18 || off + bs.length > imageLimit then d.reply d.bootst
  else
    ({ d with imageBytes := ((List.range bs.length).zip bs).foldl (fun t p => Table.set 0#8 t (off + p.1) p.2) d.imageBytes } : Dev).reply []

/-- DEDUCED, log 37. -/
def Dev.staged (d : Dev) (off n : Nat) : List Byte := (List.range n).map fun i => Table.get 0#8 d.imageBytes (off + i)

/-! ## The firmware image (R474, R475) -/

/-- The first check that fails, 0 if none does. DESIGN CHOICE, log 7. -/
def Dev.bootReason (d : Dev) (len : Nat) : Nat :=
  let f (o n : Nat) : Nat := leNat (d.staged o n)
  let blen := f 8 4
  let entry := f 12 4
  if len ≠ 7283 + blen || blen % 64 ≠ 0 || blen < 64 || blen > 33547136 || entry ≥ blen || entry % 2 ≠ 0 then 1
  else if f 0 4 ≠ 0x4E584657 || f 16 48 ≠ 0 then 2
  else if Config.sha3_512 (d.staged (64 + blen) 2592) ≠ Config.fusedKeyHash then 3
  else if f 4 4 < Config.fusedSvn.toNat then 4
  else if !Config.mldsaVerify (d.staged (64 + blen) 2592) (d.staged 0 (64 + blen)) (d.staged (2656 + blen) 4627) then 5
  else 0

/-- Bring-up step 5: the feature word of each core, without the units found unfit (R49, R472). -/
def Dev.featureWords (d : Dev) : Dev :=
  (List.range 512).foldl (fun d c => d.modCore c fun k => { k with feature := 0xFF#32 &&& ~~~Config.unfitUnits d.resets c }) d

/-- The end of bring-up step 3 and step 4: MR0, then the harts start at ENTRY, or the module recovers. Of what firmware does next, the
feature words are taken as written at once. DESIGN CHOICE, log 5. -/
def Dev.bootEnd (d : Dev) (len : Nat) : Dev :=
  let blen := leNat (d.staged 8 4)
  let entry := leNat (d.staged 12 4)
  let why := d.bootReason len
  let mr0 := Config.sha3_512 (List.replicate 64 0#8 ++ bytes512 (Config.sha3_512 (d.staged 0 (2656 + blen))))
  let d := d.modHub fun h => { h with mr := putAt mr0 h.mr 0, bootReason := why, bootState := if why = 0 then 3 else 4 }
  let d :=
    if why = 0 then
      let d := d.write (hartKey 0x80000000) (d.staged 64 blen)
      { d.featureWords with harts := d.harts.map fun h => { h with pc := BitVec.ofNat 64 (0x80000000 + entry), mode := 3, running := true } }
    else d
  d.reply d.bootst

/-- BOOT: image length. Verification begins with STATE 2 and ends in a step of its own (operand b is 1), so that a STATUS may come
between. DEDUCED, log 37. -/
def Dev.bootIn (d : Dev) (len phase : Nat) : Dev :=
  if phase = 1 then (if d.hub.bootState = 2 then d.bootEnd len else d)
  else if !d.takesImage then d.reply d.bootst
  else { d.modHub (fun h => { h with bootState := 2 }) with agenda := d.agenda ++ [.ev .boot len 1 0 []] }

/-- The report of R477. -/
def Dev.report (d : Dev) (nonce : List Byte) : List Byte :=
  let head := leBytes 4 0x4E585254 ++ leBytes 2 1 ++ leBytes 2 0 ++ leBytes 8 (d.rcnt + 1) ++ padTo 64 nonce ++ d.hub.mr.flatMap bytes512 ++
    padTo 2592 (Config.mldsaPublic Config.fusedSeed)
  head ++ padTo 4627 (Config.mldsaSign Config.fusedSeed head)

/-- ATTEST: nonce. DESIGN CHOICE, log 7. -/
def Dev.attest (d : Dev) (nonce : List Byte) : Dev :=
  if d.hub.bootState ≠ 3 then d.reply d.bootst
  else ({ d with rcnt := d.rcnt + 1 } : Dev).reply (d.report nonce)

/-! ## Reset (R472, R483) -/

/-- The GDDR 7 keeps its contents over this reset. -/
def Dev.keepsGddr (d : Dev) : Bool := d.power = .d3cold && d.auxKept

/-- The memory after a reset: local GDDR 7 kept or undefined, the harts' memory cleared, the rest outside the module untouched.
DESIGN CHOICE, log 3. -/
def resetMemory (keep : Bool) (n : Nat) (m : Memory) : Memory :=
  Memory.writes (m.filterMap fun c =>
    if c.1 / 2 ^ 60 = 0 && !keep then some (c.1, Config.gddrAfterReset n c.1)
    else if c.1 / 2 ^ 60 = 4 then some (c.1, Memory.unlisted)
    else none) m

/-- A module reset: all device state is cleared but the fuses and what the GDDR 7 keeps; bring-up starts at step 1. What waits outside
the module stays. DEDUCED, log 37. -/
def State.moduleReset (s : State) : State :=
  let d := s.d
  let keep := d.keepsGddr
  let n := d.resets + 1
  { clock := 0, mem := resetMemory keep n s.mem,
    d := { Dev.afterReset n with
      agenda := d.agenda, inputs := d.inputs.map fun p => (p.1 - s.clock, p.2), choices := d.choices, fresh := d.fresh, hostErr := d.hostErr, out := d.out,
      poison := d.poison.filter fun a => a / 2 ^ 60 ≠ 4 && (keep || a / 2 ^ 60 ≠ 0) } }

/-! ## Power (R480, R481) -/

/-- POWER_SAMPLE: the input power in 1/8 W. DEDUCED, log 37. -/
def Dev.sample (d : Dev) (pin : Nat) : Dev :=
  { d.modHub (fun h => { h with pin := min pin (2 ^ 16 - 1) }) with pinHigh := if pin > 8 * 1800 then d.pinHigh + 1 else 0 }

/-- No queue holds work. -/
def Dev.idle (e : Env) (d : Dev) : Bool :=
  d.pkts.isEmpty && d.launches.isEmpty && d.wgs.isEmpty && d.passes.isEmpty &&
  d.queues.all fun u => ((d.qd? e u.q).map (·.unread)).getD 0 = 0

def Dev.d3hot (e : Env) (d : Dev) : Dev :=
  if d.idle e && d.power = .on then
    (List.range 512).foldl (fun d c => d.modCore c fun k => { k with gated := true }) { d with power := .d3hot }
  else d

/-- CORE_IDLE_GATE: core. -/
def Dev.gateCore (e : Env) (d : Dev) (c : Nat) : Dev :=
  if (d.residents c).isEmpty && (d.core c).idleAt + 65536 ≤ e.now then d.modCore c fun k => { k with gated := true } else d

/-! ## Scrubbing (R478) -/

/-- A word becomes poison: of a vault, of a line in an L2 slice, or of a hart's buffer. One of a window, a tile, an L1 or the hold buffer is
consumed at once by a fibre. DESIGN CHOICE, log 30. -/
def Dev.strike (d : Dev) : Dev :=
  let (a, d) := d.choose 4
  match a with
  | 0 =>
    let (w, d) := d.choose d.wgs.length
    let (o, d) := d.choose (2 ^ 18)
    match d.wgs[w]? with
    | some g => d.modWg g.id fun g => { g with vbad := (upFrom (16 * o) 16).foldl (fun l k => insNat k l) g.vbad }
    | none => d
  | 1 =>
    let (i, d) := d.choose d.l2.length
    let (o, d) := d.choose 8
    match d.l2[i]? with
    | some l => d.poisonAt (l.phys + 16 * o) 16
    | none => d
  | 2 =>
    let gs := d.wgs.filter fun g => g.place = .resident
    let (w, d) := d.choose gs.length
    match gs[w]? with
    | some g =>
      let (i, d) := d.choose g.fibs.length
      d.consume g.id i 0
    | none => d
  | _ =>
    let (h, d) := d.choose d.harts.length
    let (o, d) := d.choose 1024
    d.modHart h fun h => { h with bufPoison := (upFrom (16 * o) 16).foldl (fun l k => insNat k l) h.bufPoison }

/-- The state toward the host of a host-homed line is unreadable: its halves go back to the host and the line leaves the slices (R460).
DESIGN CHOICE, log 30. -/
def Dev.hostLineLost (d : Dev) : Dev :=
  let ls := d.l2.filter fun l => l.phys / 2 ^ 60 = 2
  let (i, d) := d.choose ls.length
  match ls[i]? with
  | some l =>
    let line := l.phys / 128
    { d with l2 := d.l2.filter fun m => m.phys / 128 ≠ line, copies := d.copies.filter fun c => !(c.agent = 0 && c.line = line) }
  | none => d

/-- SRAM_SCRUB: nothing is found, an error is corrected and counted, a word becomes poison, or a directory entry or the state of a host's
line is unreadable.
DESIGN CHOICE, log 30. -/
def Dev.scrub (d : Dev) : Dev :=
  let (c, d) := d.choose 5
  match c with
  | 1 => d.modHub fun h => { h with ecce := h.ecce + 1 }
  | 2 => d.strike
  | 3 =>
    let (i, d) := d.choose d.dir.length
    match d.dir[i]? with
    | some (line, en) => d.putDir line { en with st := 3 }
    | none => d
  | 4 => d.hostLineLost
  | _ => d

/-! ## Meanings -/

def execImage : State → Host.Outcome State Fault Refusal := event fun _ d => d.imageIn d.arg.a d.arg.bytes

def execBoot : State → Host.Outcome State Fault Refusal := event fun _ d => d.bootIn d.arg.a d.arg.b

def execStatus : State → Host.Outcome State Fault Refusal := event fun _ d => d.reply d.bootst

def execAttest : State → Host.Outcome State Fault Refusal := event fun _ d => d.attest d.arg.bytes

def execModuleReset : State → Host.Outcome State Fault Refusal := fun s => .next s.moduleReset

/-- Four samples in a row above 1,800 W trip the power stage. -/
def execPowerSample : State → Host.Outcome State Fault Refusal := fun s =>
  let t := s.put (s.d.sample s.d.arg.a)
  if t.d.pinHigh ≥ 4 then .next t.moduleReset else .next t

def execD3hotEntry : State → Host.Outcome State Fault Refusal := event fun e d => d.d3hot e

def execD3hotExit : State → Host.Outcome State Fault Refusal :=
  event fun _ d => if d.power = .d3hot then { d with power := .on } else d

/-- From D3hot, which the host requested before. DEDUCED, log 37. -/
def execD3coldEntry : State → Host.Outcome State Fault Refusal :=
  event fun _ d => if d.power = .d3hot then { d with power := .d3cold, auxKept := true } else d

def execCoreIdleGate : State → Host.Outcome State Fault Refusal := event fun e d => d.gateCore e d.arg.a

def execSramScrub : State → Host.Outcome State Fault Refusal := event fun _ d => d.scrub

def execAuxPowerLoss : State → Host.Outcome State Fault Refusal :=
  event fun _ d => if d.power = .d3cold then { d with auxKept := false } else d

end Sys2Proof.Machine
end

