-- ==== Sys2Proof/Machine/Cycle.lean ====
section
/-! DEFINITION. ISSUE_CYCLE: the clock advances, fibres that nothing blocks any more become eligible, every quadrant forms its rope
(spec/01, R33 to R36), and the steps of the other units that are due in this cc are put on the agenda. -/
namespace Sys2Proof.Machine

open Sys2Proof

/-! ## The end of a wait (R33) -/

/-- What a fibre waits for has come: it executes its instruction, or the next one. Waits that an event of their own ends are not
listed. -/
def Dev.waitOver (e : Env) (d : Dev) (g : WG) (i : Nat) (f : Fib) : Bool :=
  match f.wait with
  | .words ws ps => !ws.any (fun k => f.emp.contains k) && !ps.any fun k => f.pend.contains k
  | .sfu => !d.sfuPending g.id i
  | .ops before parked => !d.olderOpen g.id i before && !(parked && d.parksOpen g.id i)
  | .drain core before => !d.drainOpen core before
  | .granule a => ((d.member g a.rank).map (·.granFull a.gran)).getD true
  | .bar b p => (g.bar b).phase ≠ p
  | .tag t => f.cnt.getD t 0 = 0
  | .copyRoom t engine => f.cnt.getD t 0 < 255 && (!engine || d.copiesOn g.core < 32)
  | .pool => ((d.launch? g.launch).map fun l => decide (d.poolCount l < 2 ^ l.poolLog)).getD true
  | .matRoom => g.mops.length < 16
  | .merger eng => d.mergerLoad eng < 1024
  | .tagRoom ia => !d.tagBlocked g i f ia f.tagGrp
  | .tiles ids => !g.mops.any fun o => ids.contains o.id
  | .device => g.halt = .none || g.handling
  | .page p => d.pageFree p
  | .ack t => t ≤ e.now
  | _ => false

/-- An `await` whose operations have completed (R290). -/
def WG.awaitOver (g : WG) (f : Fib) : Bool :=
  f.live && !f.stuck &&
  match f.wait with
  | .mops ids => !g.mops.any fun o => ids.contains o.id
  | _ => false

/-- One fibre after its wait was looked at. The link of `callx` is written now; an `await` or `cachex` is past its instruction; a
fibre that is still blocked becomes eligible no earlier than the next cc. -/
def Dev.recheckFib (e : Env) (d : Dev) (g : WG) (i : Nat) (f : Fib) : Fib :=
  if !f.live || f.stuck then f
  else
    match f.wait with
    | .none => f
    | .linkw ws r l =>
      if ws.any fun k => f.emp.contains k then { f with readyAt := max f.readyAt (e.now + 1) }
      else { f.setWords r [l] with wait := .none, readyAt := max f.readyAt e.now }
    | .mops _ =>
      if g.awaitOver f then { (f.issued g.skids).advance e.now 12 with readyAt := max f.readyAt e.now }
      else { f with readyAt := max f.readyAt (e.now + 1) }
    | .cachex t =>
      if t ≤ e.now then { (f.issued g.skids).advance e.now 12 with readyAt := max f.readyAt e.now }
      else { f with readyAt := max f.readyAt (e.now + 1) }
    | _ =>
      if d.waitOver e g i f then { f with wait := .none, readyAt := max f.readyAt e.now }
      else { f with readyAt := max f.readyAt (e.now + 1) }

def mapIdx {α β : Type} (f : Nat → α → β) (l : List α) : List β := ((List.range l.length).zip l).map fun p => f p.1 p.2

/-- Since when something holds of a work-group, given whether it holds now. -/
def since (now : Nat) (holds : Bool) (t : Option Nat) : Option Nat := if holds then some (t.getD now) else none

/-- Every resident work-group that is not stopped; and since when all its fibres are blocked, or blocked on page faults (R446, R47).
The end of an `await` empties the L1 (R114). -/
def Dev.recheck (e : Env) (d : Dev) : Dev :=
  let live (g : WG) : Bool := g.place = .resident && !g.stopped
  let awaited := (d.wgs.filter fun g => live g && g.fibs.any g.awaitOver).map (·.core)
  let look (g : WG) : WG :=
    let fs := mapIdx (fun i f => d.recheckFib e g i f) g.fibs
    let all (p : Nat → Fib → Bool) : Bool :=
      g.halt = .none && fs.any (·.live) && (mapIdx (fun i f => !f.live || p i f) fs).all id
    { g with fibs := fs, blockedAt := since e.now (all fun _ f => f.wait ≠ .none) g.blockedAt,
             faultAt := since e.now (all fun i f => d.faultBlocked g.id i f) g.faultAt }
  let d := { d with wgs := d.wgs.map fun g => if live g then look g else g }
  awaited.foldl (fun d c => d.invalidateL1 c) d

/-- The start of a cc for every work-group: fibres made by `spawn` count as live (R195), writes of gang registers are seen (R276);
in a halt, a fibre found blocked stops where it stands (R377), and a matrix operation stops after the step that runs (R273). -/
def WG.dawn (g : WG) : WG :=
  let fib (f : Fib) : Fib :=
    let f := if f.unborn then { f with live := true, unborn := false } else f
    if g.stopping && f.live && f.wait ≠ .none then { f with stuck := true } else f
  { g with fibs := g.fibs.map fib, gangs := foldWrites g.gangs g.gn, gn := [],
           mops := if g.stopping then g.mops.map MOp.stopNext else g.mops }

/-- The start of a cc: stopping work-groups withdraw from open collections (R193). -/
def Dev.dawn (d : Dev) : Dev :=
  (d.wgs.filter fun g => g.place = .resident && g.stopping).foldl (fun d g => d.withdraw g.id) { d with wgs := d.wgs.map WG.dawn }

/-- Latches that wait for nothing but older accesses, or for a member that has exited. -/
def Dev.latches (e : Env) (d : Dev) : Dev :=
  (d.wgs.filter fun g => g.place = .resident && g.halt = .none && (List.range 4).any fun r => !(latchParty g r).isEmpty).foldl
    (fun d g => d.latchRecheck e g.id) d

/-- Operations held on a page go on when nothing is pending there. -/
def Dev.unheld (e : Env) (d : Dev) : Dev :=
  { d with ops := d.ops.map fun o =>
      match o.heldOn with
      | some p => if d.pageFree p then { o with heldOn := none, due := max o.due e.now } else o
      | none => o }

/-- DESIGN CHOICE, log 40. -/
def Dev.markDevice (e : Env) (d : Dev) : Dev :=
  { d with ops := d.ops.map fun o =>
      if !o.uncached && o.parts.any (fun p => p.st = .walk && d.deviceBound e o p) then { o with uncached := true } else o }

/-! ## Forming ropes (R33, R34) -/

/-- The fibre that a pending ASYNC cause is taken at issues nothing first (R375). DEDUCED, log 18. -/
def WG.asyncAt (g : WG) (i : Nat) : Bool :=
  match g.asyncs with
  | [] => false
  | c :: _ =>
    let live (j : Nat) : Bool := ((g.fib? j).map (·.live)).getD false
    if live c.fib then c.fib = i else (List.range g.fibs.length).find? live = some i

/-- Skid instructions may still issue (R377). -/
def Fib.mayskid (f : Fib) (g : WG) (now : Nat) : Bool := f.skid < g.skidMax && f.pcause = 0 && now < g.haltAt + 15

/-- The fibre is eligible. In a trap halt and a debugger halt a few instructions may still issue (R377, R404); a pre-emption waits for
critical regions, and its work-group, or the handler that runs in it, issues on until the last is closed (R371, R383, R386). -/
def WG.eligible (g : WG) (now i : Nat) (f : Fib) : Bool :=
  f.live && !f.stuck && f.wait = .none && f.readyAt ≤ now && g.place = .resident && !g.asyncAt i &&
  match g.halt with
  | .none => true
  | .trap => if g.handling then f.hnd && !g.stopped else !g.stopped && (g.trap.map (·.fib)) ≠ some i && f.mayskid g now
  | .debug => !g.stopped && f.mayskid g now
  | .preempt => !g.stopped && (!g.handling || f.hnd) && g.fibs.any fun h => h.live && h.critn ≠ 0

/-- A fibre of a quadrant: work-group, index, state. -/
structure Member where
  g : WG
  i : Nat
  f : Fib

/-- Slot, then index. -/
def Member.place (m : Member) : Nat := m.g.slot * 1024 + m.i

/-- The rank of a fibre in its rope: index, then slot (R115). DEDUCED, log 31. -/
def Member.rank (m : Member) : Nat := m.i * 64 + m.g.slot

/-- The order of the queue: since when it is eligible, a `yield` behind the others (R197). -/
def Member.queued (m : Member) : Nat := (m.f.readyAt * 2 + m.f.order % 2) * 2 ^ 16 + m.place

/-- The order of the selector: waiting age, slot, index. -/
def Member.aged (m : Member) : Nat := m.f.age * 2 ^ 16 + m.place

/-- The key of a group. -/
def Member.sameGroup (a b : Member) : Bool :=
  a.g.launch = b.g.launch && a.f.pc = b.f.pc && a.f.win.length = b.f.win.length && a.f.priv = b.f.priv && a.f.hnd = b.f.hnd

def Dev.quadMembers (d : Dev) (c q : Nat) : List Member :=
  (d.residents c).flatMap fun g =>
    ((List.range g.fibs.length).zip g.fibs).filterMap fun p => if quadOf p.1 = q then some ⟨g, p.1, p.2⟩ else none

/-- The members of the candidate set of a quadrant: at most 64. -/
def admitted (now : Nat) (ms : List Member) : List Member × List Member :=
  let el := ms.filter fun m => m.g.eligible now m.i m.f
  let inside := el.filter (·.f.cand)
  let queue := sortBy Member.queued (el.filter fun m => !m.f.cand)
  (inside, (queue.take (64 - inside.length)).map fun m => { m with f := { m.f with cand := true, age := now, order := 0 } })

/-- The rope of a quadrant, from its candidate set. -/
def ropeOf (ms : List Member) : List Member :=
  match minBy Member.aged ms with
  | none => []
  | some b =>
    let grp := ms.filter b.sameGroup
    sortBy Member.rank ((List.range 32).filterMap fun l => minBy Member.aged (grp.filter fun m => m.f.lane = l))

/-- One quadrant: its candidate set is brought up to date, and its rope stands at the end of the list. -/
def Dev.quadrant (e : Env) (d : Dev) (c q : Nat) : Dev :=
  let ms := d.quadMembers c q
  if ms.isEmpty then d
  else
    let a := admitted e.now ms
    let off := ms.filter fun m => m.f.cand && !m.g.eligible e.now m.i m.f
    let d := off.foldl (fun d m => d.modFib m.g.id m.i fun f => { f with cand := false }) d
    let d := a.2.foldl (fun d m => d.modFib m.g.id m.i fun f => { f with cand := true, age := e.now, order := 0 }) d
    match ropeOf (a.1 ++ a.2) with
    | [] => d
    | r => { d with ropes := d.ropes ++ [{ core := c, quad := q, fibs := r.map fun m => (m.g.id, m.i) }] }

/-- The ropes of a core in the order of their highest fibre index (R36). -/
def Rope.top (r : Rope) : Nat := r.fibs.foldl (fun n p => max n p.2) 0 * 4 + r.quad

/-- Cores that hold a work-group. -/
def Dev.busyCores (d : Dev) : List Nat :=
  d.wgs.foldl (fun l g => if g.place = .resident then insNat g.core l else l) []

def Dev.selectRopes (e : Env) (d : Dev) : Dev :=
  let d := d.busyCores.foldl (fun d c => (List.range 4).foldl (fun d q => d.quadrant e c q) d) d
  { d with ropes := sortBy (fun r => r.core * 2 ^ 16 + r.top) d.ropes }

/-! ## Steps that are due -/

/-- A step of a unit with its operands. -/
def due (i : Instr) (a : Nat := 0) (b : Nat := 0) (c : Nat := 0) : Todo := .ev i a b c []

/-- The steps in a list whose condition holds. -/
def dueIf (p : Bool) (t : Todo) : List Todo := if p then [t] else []

/-- Operations: requests to homes and to the MTU, results, landings (R65, R71, R253, R262, R263, R301, R310 to R315, R393, R412). -/
def Dev.opDue (e : Env) (d : Dev) (o : Op) : List Todo :=
  if o.frozen then []
  else
    let parts := (List.range o.parts.length).zip o.parts
    let late := o.uncached && o.sentAt + 48 < e.now
    match o.kind with
    | .cont => []
    | .sfu => dueIf (o.due ≤ e.now) (due .specialFunctionResultLands o.id)
    | .smp => dueIf (o.due ≤ e.now && o.heldOn.isNone && !d.unitWaits o) (due .sampleLands o.id)
    | .tld => dueIf (o.due ≤ e.now && o.heldOn.isNone && !d.unitWaits o) (due .texelLands o.id)
    | .trav => dueIf (o.due ≤ e.now && o.heldOn.isNone && !d.unitWaits o) (due .traversalRecordLands o.id)
    | .cpy => dueIf (o.due ≤ e.now && o.heldOn.isNone && !d.copyWaits o) (due .cpyLanding o.id)
    | .tcpyc => dueIf (o.due ≤ e.now && o.heldOn.isNone && !d.commitWaits o) (due .tcpycCommit o.id)
    | .omst | .omld | .kbins =>
      if o.ready then dueIf (o.due ≤ e.now) (due .loadResultLands o.id)
      else
        dueIf (o.heldOn.isNone && ((d.pass? o.addr).map fun p => d.mergeReady p o).getD true) (due .mergerAccessPerformed o.id)
    | _ =>
      if o.ready then dueIf (o.due ≤ e.now) (due .loadResultLands o.id)
      else
        dueIf late (due .hwTimeout o.id) ++
        parts.flatMap fun p =>
          dueIf (p.2.st = .sent && o.due ≤ e.now && d.mayArrive o p.2) (due .homeRequest o.id p.1) ++
          dueIf (p.2.st = .walk && !o.uncached) (due .mtuWalk o.id p.1)

/-- The units of a tile copy that the engine takes up in this cc: up to eight, from any place in the window (R262, R398).
DEDUCED, log 23. -/
def Dev.copyUnits (d : Dev) (o : Op) : Dev :=
  if o.kind ≠ .tcpy || o.frozen || o.heldOn.isSome || d.tcpyWaits o then d
  else
    let us := (upFrom o.mark (min 64 (o.tcd.count - o.mark))).filter fun u => !o.unitDone u
    let (k, d) := d.choose us.length
    { d with agenda := d.agenda ++ ((us.drop k ++ us.take k).take 8).map fun u => due .copyUnitComplete o.id u }

/-- The hub completes an access to an uncached page, or not yet (R234). DESIGN CHOICE, log 40. -/
def Dev.deviceWalks (d : Dev) (o : Op) : Dev :=
  if !o.uncached || o.frozen then d
  else
    ((List.range o.parts.length).zip o.parts).foldl (fun d p =>
      if p.2.st ≠ .walk then d
      else
        let (n, d) := d.choose 2
        if n = 0 then { d with agenda := d.agenda ++ [due .mtuWalk o.id p.1] } else d) d

/-- Steps of a work-group: the ends of waits, halts, freezes and saves, matrix operations, fragment transfers, retirement. -/
def Dev.wgDue (e : Env) (d : Dev) (g : WG) : List Todo :=
  let fs := (List.range g.fibs.length).zip g.fibs
  let l := d.launch? g.launch
  dueIf (!g.asyncs.isEmpty) (due .asyncTrapTaken g.id) ++
  (fs.flatMap fun p =>
    (match p.2.wait with
     | .sleep t => dueIf (t ≤ e.now) (due .sleepExpiry g.id p.1)
     | _ => dueIf (d.recheckDue e.now p.2).isSome (due .waitRecheckTimeout g.id p.1)) ++
    dueIf (p.2.critn ≠ 0 && p.2.critAt + 4096 ≤ e.now) (due .criticalRegionTimeout g.id p.1)) ++
  dueIf (d.haltReady e g) (due .haltComplete g.id) ++
  dueIf (!g.frozen && d.freezeReady e g) (due .freezeComplete g.id) ++
  dueIf (g.halt = .preempt && g.stopped && g.frozen && g.image.isSome) (due .saveComplete g.id) ++
  (g.mops.flatMap fun o =>
    if g.frozen || g.handling then []
    else List.replicate ((l.map fun l => o.dueSteps l e.now).getD 0) (due .matrixStepComplete g.id o.id)) ++
  ((List.range 4).flatMap fun r => dueIf (g.halt = .none && d.fragReady g r) (due .fragmentTransfer g.id r)) ++
  dueIf (d.retirable g) (due .workgroupRetire g.id) ++
  (match g.blockedAt with
   | some t =>
     dueIf (d.hub.spinw ≠ 0 && t + d.hub.spinw ≤ e.now && d.wgs.any fun h => h.place = .suspended && h.ctx.ctxid = g.ctx.ctxid)
       (due .spinWindowExpiry g.id)
   | none => []) ++
  (match g.faultAt with
   | some t => dueIf (t + d.hub.fswap < e.now && (e.now - t - d.hub.fswap) % 64 = 1) (due .faultSwapThreshold g.id)
   | none => [])

/-- Steps of a core: matrix engines, regrouping, expiry of L1 lines, retirement of tags. -/
def Dev.coreDue (e : Env) (d : Dev) (c : Nat) (k : Core) : List Todo :=
  let start (arr : Bool) : List Todo := match d.mopNext c arr with
    | some p => [due .matrixOpStart p.1 p.2]
    | none => []
  start true ++ start false ++
  (k.colls.flatMap fun x =>
    match x.closed with
    | none => dueIf (x.opened + 16 < e.now) (due .collectionClose c x.id)
    | some t => dueIf (t + x.moveTime ≤ e.now) (due .regroupMoveComplete c x.id)) ++
  (k.l1.flatMap fun x => dueIf (x.stamp + 8192 ≤ e.now) (due .l1LineExpiry c x.line)) ++
  dueIf (k.gathered.length ≥ 64 || (!k.gathered.isEmpty && k.gatheredAt + 256 ≤ e.now)) (due .tagRetireBatch c)

/-- Steps of the raster engines for a pass. -/
def Dev.passDue (e : Env) (d : Dev) (p : Pass) : List Todo :=
  if p.ended then []
  else
    -- launches of one cc take their numbers in ascending engine order (R323)
    let regions := sortBy (fun r => regionEngine r) (p.quads.foldl (fun l q => if q.open_ then insNat (regionOf q.rx q.ry) l else l) [])
    dueIf (!p.begun || !p.draws.isEmpty || !p.owed.isEmpty) (due .primitiveSetup p.id) ++
    (regions.flatMap fun r => dueIf (p.launchDue r e.now) (due .pixelLaunchTimeout p.id r)) ++
    dueIf (d.passDone p || (p.binned && p.draws.isEmpty && p.closePkt.isSome && p.quads.any fun q => !q.open_)) (due .passEnd p.id)

/-- Steps of the pool front end for a launch. -/
def Dev.launchDue (e : Env) (d : Dev) (l : Launch) : List Todo :=
  let records := l.kind = .pool && !l.held && (decide (l.initGet < l.initN) || decide (l.poolGet < l.poolPut))
  dueIf (records || d.ops.any fun o => d.contReady e l o) (due .poolRecordArrival l.id) ++
  (if l.kind ≠ .pool then [] else
    ((List.range l.bins.length).zip l.bins).flatMap fun b =>
      if b.2.recs.isEmpty then []
      else
        dueIf (b.2.since + l.r.binage ≤ e.now) (due .binAgeLimit l.id b.1) ++
        dueIf (b.2.recs.length ≥ l.r.fcap || d.drained l) (due .poolWorkgroupForm l.id b.1))

/-- Steps of the queue engine. -/
def Dev.queueSteps (e : Env) (d : Dev) : List Todo :=
  (d.queues.flatMap fun u =>
    (match u.slot, d.queueDue e u with
     | some _, some i => [due i u.q]
     | _, _ => []) ++
    dueIf u.heldSeg.isSome (due .freeListGetAdvance u.q) ++
    dueIf (u.parked.isSome && u.parkedAt + 65536 ≤ e.now) (due .waitWatchTimeout u.q)) ++
  (d.pkts.flatMap fun p =>
    dueIf (p.ty = 5 && !p.finished && !p.left.isEmpty) (due .copy p.q p.id) ++
    dueIf (d.pktResult e p).isSome (due .packetComplete p.id)) ++
  d.domains.flatMap fun m => dueIf (m.origin && !m.ended && m.sentAt + max 1 d.hub.eqtmo ≤ e.now) (due .equinoxTimeout m.gen)

/-- Messages to the other die of this module, and its answers to the home (R457, R459). -/
def Dev.dieSteps (d : Dev) : List Todo :=
  d.msgs.flatMap fun m =>
    if m.dst = 0 then
      match m.kind with
      | 0 => [due .snps 0 m.line]
      | 1 => [due .snpi 0 m.line]
      | 3 => [due .go 0 m.line]
      | _ => []
    else if m.dst = agentHome && (d.txn? m.line).isSome then
      match m.kind with
      | 2 => if m.arg / 16 = 0 then [.ev .rsp 0 m.line 0 m.bytes] else []
      | 4 => if m.arg = 0 then [due .goack 0 m.line] else []
      | _ => []
    else []

/-- Steps of the firmware harts: those that wait for an event or for the hub (R452, R453), and a turn for each that runs.
DESIGN CHOICE, log 38. -/
def Dev.hartSteps (e : Env) (d : Dev) : List Todo :=
  ((List.range d.harts.length).zip d.harts).flatMap fun p =>
    (if p.2.running && p.2.waiting.isNone && p.2.asking.isNone then [.hart p.1] else []) ++
    (match p.2.waiting with
     | some (t, _) => if p.2.evq.isEmpty then dueIf (t ≤ e.now) (due .swaitTimeout p.1) else [.hart p.1]
     | none => []) ++
    match p.2.asking with
    | some (t, _) => if t + hubCycles 65536 ≤ e.now then [due .rinsarHubTimeout p.1] else [.hart p.1]
    | none => []

/-- Steps that come at fixed times: scheduling, power, scrubbing, displays, gating of idle cores.
DESIGN CHOICE, log 14. -/
def Dev.timedSteps (e : Env) (d : Dev) : Dev :=
  let t := e.now
  let add (l : List Todo) (d : Dev) : Dev := { d with agenda := d.agenda ++ l }
  let d := add (dueIf (t % 64 = 0) (due .schedulingStep)) d
  let d := if t % 4096 ≠ 0 then d
    else
      let (pin, d) := d.choose (2 ^ 16)
      add [due .powerSample pin, due .sramScrub] d
  let d := add (dueIf (t % 65536 = 0) (due .headEnablePoll)) d
  let d := add ((List.range 4).flatMap fun h => dueIf (d.guardDue e h) (due .displayGuardTime h)) d
  if t < 65536 then d
  else
    let idle := (List.range 512).filter fun c =>
      let k := d.core c
      !k.gated && k.idleAt + 65536 ≤ t && (d.residents c).isEmpty
    add (idle.map fun c => due .coreIdleGate c) d

/-- Everything that is due in this cc. DESIGN CHOICE, log 13. -/
def Dev.dueSteps (e : Env) (d : Dev) : Dev :=
  let add (l : List Todo) (d : Dev) : Dev := { d with agenda := d.agenda ++ l }
  let d := add (d.wgs.flatMap fun g => if g.place = .resident then d.wgDue e g else []) d
  let d := add (d.ops.flatMap fun o => d.opDue e o) d
  let d := d.ops.foldl (fun d o => d.copyUnits o) d
  let d := d.ops.foldl (fun d o => d.deviceWalks o) d
  let d := add (d.cores.flatMap fun p => d.coreDue e p.1 p.2) d
  let d := d.fills.foldl (fun d f =>
    let (n, d) := d.choose 2
    if n = 0 then add [due .pageFillComplete f.page] d else d) d
  let d := add (d.passes.flatMap fun p => d.passDue e p) d
  let d := add (d.launches.flatMap fun l => d.launchDue e l) d
  let d := add (d.queueSteps e) d
  let d := add (d.retq.map fun _ => due .tagRetirementReceive 0) d
  let d := add (d.fwd.map fun p => due .tagPinRelease p.1 p.2) d
  let d := add (dueIf (!d.laneH.isEmpty || (!d.laneR.isEmpty && d.cairnHeld < 1024)) (due .laneRecordHandover)) d
  let d := add (dueIf (!d.cairnOpen.isEmpty && d.cairnSince + max 1 (d.hub.cairnctl.toNat % 2 ^ 11) ≤ e.now) (due .cairnBatchWindow)) d
  let d := add (dueIf (!d.cairnClosed.isEmpty) (due .cairnRingWrite)) d
  let d := add d.dieSteps d
  let d := add (d.hartSteps e) d
  d.timedSteps e

/-! ## The cycle -/

/-- Work-groups whose lane H record waits for room (R381). -/
def Dev.endings (d : Dev) : Dev :=
  d.wgs.foldl (fun d g =>
    match g.ending with
    | some (c, fl) => if (d.core g.core).laneH < 64 then d.endWg g.id c fl else d
    | none => d) d

/-- One flit from each virtual channel of each link. -/
def Dev.drainLinks (d : Dev) : Dev :=
  (List.range 8).foldl (fun d i => (List.range 4).foldl (fun d vc => d.drain1 i vc) d) d

/-- Requests whose lines are free are served. -/
def Dev.serveAll (e : Env) (d : Dev) : Dev := d.reqs.foldl (fun d r => d.serveOnce e r.line) d

/-- What comes from outside by now. DESIGN CHOICE, log 13. -/
def Dev.takeInputs (now : Nat) (d : Dev) : Dev :=
  { d with inputs := d.inputs.filter fun p => !decide (p.1 ≤ now),
           agenda := d.agenda ++ (d.inputs.filter fun p => p.1 ≤ now).map (·.2) }

/-- One cc of the module. In D3hot and D3cold nothing runs (R481). Step 1 of bring-up ends in the first cc (R472).
DESIGN CHOICE, log 12; DESIGN CHOICE, log 14. -/
def Dev.cycle (e : Env) (d : Dev) : Dev :=
  let d := d.takeInputs e.now
  if d.power ≠ .on then d
  else
    let d := if d.hub.bootState = 0 then d.modHub fun h => { h with bootState := 1 } else d
    let d := d.endings
    let d := (d.drainLinks.serveAll e).dbgPoll e
    let d := ((d.dawn.unheld e).markDevice e).recheck e
    let d := d.latches e
    let d := d.selectRopes e
    (d.mapQueues e).tidy.dueSteps e

/-- ISSUE_CYCLE: the clock advances by one cc. -/
def execIssueCycle (s : State) : Host.Outcome State Fault Refusal :=
  let s : State := { s with clock := s.clock + 1 }
  .next (s.put (s.d.cycle s.env))

end Sys2Proof.Machine
end

