-- ==== Sys2Proof/Machine/Special.lean ====
section
/-! DEFINITION. The special functions (spec/08, R212 to R215): exact points, special operands and correctly rounded results
as the spec states them; elsewhere any result inside the bound of R213 (notes/assumptions/4.md). -/
namespace Sys2Proof.Machine

open Sys2Proof

/-! ## Enclosures by fixed point with 96 fraction bits -/

def fxOne : Nat := 2 ^ 96
def fxLn2 : Nat := 54916777467707473351141471128
def fxPi : Nat := 248902613312231085230521944622
def fxLog2e : Nat := 114302077158074026402637675936

def fxMul (a b : Nat) : Nat := a * b / fxOne

/-- The fraction of `x` above the integer `i`, in fixed point. -/
def fxOf (x : Q) (i : Int) : Nat := ((x.n - i * x.d) * fxOne / x.d).toNat

/-- e^z by its series. -/
def fxExp (z : Nat) : Nat :=
  ((List.range 30).foldl (fun (p : Nat × Nat) k => let t := fxMul p.2 z / (k + 1); (p.1 + t, t)) (fxOne, fxOne)).1

/-- 2^x, below the exact value by less than 2^-80 of it. -/
def qExp2 (x : Q) : Q :=
  let i := x.floor
  Q.scale (fxExp (fxMul (fxOf x i) fxLn2)) (i - 96)

/-- sin of an angle in [0, π/2]. -/
def fxSin (z : Nat) : Int :=
  let z2 := fxMul z z
  ((List.range 15).foldl (fun (p : Int × Nat) k =>
    let t := fxMul p.2 z2 / ((2 * k + 2) * (2 * k + 3))
    (if k % 2 = 0 then p.1 - t else p.1 + t, t)) ((z : Int), z)).1

/-- sin πt for 0 ≤ t ≤ 1/2. -/
def qSinPi (t : Q) : Q := Q.scale (fxSin (fxMul (fxOf t 0) fxPi)) (-96)

/-- log₂ of a positive number, by squaring. -/
def qLog2 (x : Q) : Q :=
  let l := floorLog2 x.n.natAbs x.d
  let m := (Q.mul x (Q.scale 1 (-l)))
  let step (p : Nat × Nat) : Nat × Nat :=
    let s := fxMul p.2 p.2
    if s ≥ 2 * fxOne then (2 * p.1 + 1, s / 2) else (2 * p.1, s)
  let f := (List.range 64).foldl (fun p _ => step p) (0, (m.n * fxOne / m.d).toNat)
  Q.add (Q.ofInt l) (Q.scale f.1 (-64))

/-- √x, with a half unit of a 64th digit added where it is not exact. -/
def qSqrt (x : Q) : Q :=
  let l := floorLog2 x.n.natAbs x.d
  let e : Int := 2 * ((l - 128) / 2)
  let u := inUnits x.n.natAbs x.d e
  let n := u.1 / u.2
  let s := isqrt n
  let exact := decide (s * s * u.2 = u.1)
  Q.scale (2 * s + if exact then 0 else 1) (e / 2 - 1)

/-- tanh of a number that is not negative. -/
def qTanh (x : Q) : Q :=
  if Q.lt (Q.ofInt 40) x then Q.one
  else
    let e := qExp2 (Q.mul x (Q.scale (2 * fxLog2e) (-96)))
    Q.div (Q.sub e Q.one) (Q.add e Q.one)

/-! ## Results inside a bound -/

/-- ulp(x) of R213. -/
def ulp (x : Q) : Q :=
  let e : Int := if x.n = 0 then -126 else floorLog2 x.n.natAbs x.d
  Q.scale 1 ((if e < -126 then -126 else e) - 23)

/-- NX, with UF for a tiny value (R88). -/
def nxFlags (y : Nat) : Fl := flNX ||| flIf (y / 2 ^ 23 % 2 ^ 8 = 0) flUF

/-- The proposed encoding when it is a finite number within `bnd` of `x` and no greater than 1 where `unit` says so; else
the nearest one. A 2^-40th of the bound is left for the enclosure of `x`. DESIGN CHOICE, log 4. -/
def inBound (unit : Bool) (x bnd : Q) (prop : Nat) : Nat × Fl :=
  let r := roundQ fF32 rne false (x.n < 0) x
  if r.2 &&& flOF ≠ 0#6 then r
  else
    let ok :=
      match f32V prop with
      | .fin n m e =>
        let y := (FV.fin n m e).q
        (Q.sub y x).abs.le (Q.mul bnd ⟨2 ^ 40 - 1, 2 ^ 40⟩) && (!unit || y.abs.le Q.one)
      | _ => false
    let y := if ok then prop else r.1
    (y, nxFlags y)

/-- A number that FP32 represents. -/
def exactly (x : Q) (zneg : Bool) : Nat × Fl := roundQ fF32 rne false zneg x

/-- The sign of an encoding put to `neg`. -/
def withSign (neg : Bool) (r : Nat × Fl) : Nat × Fl := (r.1 % 2 ^ 31 + (if neg then 2 ^ 31 else 0), r.2)

def nanNV (sig : Bool) : Nat × Fl := (fF32.cnan, flIf sig flNV)
def invalid : Nat × Fl := (fF32.cnan, flNV)

/-- DESIGN CHOICE, log 4. -/
def propose (fn a : Nat) : Nat := (Config.sfuProposal fn (BitVec.ofNat 32 a)).toNat

/-! ## The eight functions (R213, R214) -/

def sfRcp (m : Rm) (a : Nat) : Nat × Fl :=
  match f32V a with
  | .nan s => nanNV s
  | .inf n => (fF32.zero n, 0#6)
  | .fin n k e =>
    if k = 0 then (fF32.infEnc n, flDZ) else roundQ fF32 m false n (Q.div Q.one (FV.fin n k e).q)

def sfSqrt (m : Rm) (a : Nat) : Nat × Fl :=
  match f32V a with
  | .nan s => nanNV s
  | .inf n => if n then invalid else (a, 0#6)
  | .fin n k e =>
    if k = 0 then (a, 0#6) else if n then invalid else roundQ fF32 m false false (qSqrt (FV.fin n k e).q)

def sfRsq (a : Nat) : Nat × Fl :=
  match f32V a with
  | .nan s => nanNV s
  | .inf n => if n then invalid else (fF32.zero false, 0#6)
  | .fin n k e =>
    if k = 0 then (fF32.infEnc n, flDZ)
    else if n then invalid
    else
      let l := (Nat.log2 k : Int) + e
      if k = 2 ^ Nat.log2 k && l % 2 = 0 then exactly (Q.scale 1 (-(l / 2))) false
      else
        let x := qSqrt (Q.div Q.one (FV.fin false k e).q)
        inBound false x (ulp x) (propose 0 a)

/-- At an integral point below −149, where FP32 holds no value, 2^a is rounded to nearest even with UNDERFLOW and INEXACT: R213 calls the
point exact and states no result. DESIGN CHOICE, log 4. -/
def sfEx2 (a : Nat) : Nat × Fl :=
  match f32V a with
  | .nan s => nanNV s
  | .inf n => if n then (fF32.zero false, 0#6) else (a, 0#6)
  | .fin n k e =>
    let x := (FV.fin n k e).q
    let c := clampInt x.floor (-400) 400
    if x.n % x.d = 0 then exactly (Q.scale 1 c) false
    else if c ≥ 128 || c < -160 then exactly (Q.scale 3 (c - 1)) false
    else
      let y := qExp2 x
      inBound false y (Q.mul (Q.ofInt 2) (ulp y)) (propose 1 a)

def sfLg2 (a : Nat) : Nat × Fl :=
  match f32V a with
  | .nan s => nanNV s
  | .inf n => if n then invalid else (a, 0#6)
  | .fin n k e =>
    if k = 0 then (fF32.infEnc true, flDZ)
    else if n then invalid
    else if k = 2 ^ Nat.log2 k then exactly (Q.ofInt (Nat.log2 k + e)) false
    else
      let y := qLog2 (FV.fin false k e).q
      inBound false y (Q.max (Q.mul (Q.ofInt 2) (ulp y)) (Q.scale 1 (-22))) (propose 2 a)

/-- A number of at least 0 modulo 2. -/
def qMod2 (x : Q) : Q := ⟨x.n % (2 * x.d : Nat), x.d⟩

/-- sin πt for 0 ≤ t < 2. -/
def sinTurn (t : Q) : Q :=
  let u := if Q.one.le t then Q.sub t Q.one else t
  let u := if Q.lt ⟨1, 2⟩ u then Q.sub Q.one u else u
  let y := qSinPi u
  if Q.one.le t then y.neg else y

def sfSinPi (a : Nat) : Nat × Fl :=
  match f32V a with
  | .nan s => nanNV s
  | .inf _ => invalid
  | .fin n k e =>
    let t := qMod2 (FV.fin false k e).q
    let h := 2 * t.n
    if h % t.d = 0 then
      -- a multiple of 1/2: the number of halves below 4
      let j := h / t.d
      if j % 2 = 0 then (fF32.zero n, 0#6) else exactly (Q.ofInt (if (j = 1) != n then 1 else -1)) false
    else
      let y := sinTurn t
      let r := inBound true y (Q.scale 1 (-23)) (propose 3 (a % 2 ^ 31))
      (r.1 ^^^ (if n then 2 ^ 31 else 0), r.2)

/-- Every odd multiple of 1/2 gives +0: R213 shows the sign at 0.5 alone. DESIGN CHOICE, log 4. -/
def sfCosPi (a : Nat) : Nat × Fl :=
  match f32V a with
  | .nan s => nanNV s
  | .inf _ => invalid
  | .fin _ k e =>
    let t := qMod2 (FV.fin false k e).q
    let h := 2 * t.n
    if h % t.d = 0 then
      let j := h / t.d
      if j % 2 = 1 then (fF32.zero false, 0#6) else exactly (Q.ofInt (if j = 0 then 1 else -1)) false
    else inBound true (sinTurn (qMod2 (Q.add t ⟨1, 2⟩))) (Q.scale 1 (-23)) (propose 4 (a % 2 ^ 31))

def sfTanh (a : Nat) : Nat × Fl :=
  match f32V a with
  | .nan s => nanNV s
  | .inf n => exactly (Q.ofInt (if n then -1 else 1)) false
  | .fin n k e =>
    if k = 0 then (a, 0#6)
    else
      let y := qTanh (FV.fin false k e).q
      inBound true (if n then y.neg else y) (Q.scale 1 (-21)) (propose 5 a)

/-! ## Issue and landing (R202, R212, R215) -/

def insSfu : Ins where
  a := fun _ => opd 1
  d := fun _ => opd 1
  ok6 := fun _ x => okF [0x10] x

/-- D is marked empty; the result lands within 18 + ⌈n/8⌉ cc. -/
def bodySfu (fn : X → Nat → Nat × Fl) : Body := fun e cx g f _ d =>
  let r := fn cx.x (srcA e.now g f cx.x 1)
  let (id, d) := d.takeId
  let (w, d) := d.choose 19
  let o : Op :=
    { id := id, kind := .sfu, wg := cx.wg, fib := cx.fi, grp := cx.grp, dst := cx.x.d.toNat, dn := 1, core := g.core,
      res := [BitVec.ofNat 32 r.1], fl := r.2, due := e.now + 1 + w, ready := true }
  ({ d with ops := d.ops ++ [o] }.modFib cx.wg cx.fi (·.empty cx.x.d.toNat 1)).advance cx

/-- The result is written at the end of its pipeline; under R71 an enabled flag raises ARITH as an ASYNC cause and leaves
the destination as it was, full. -/
def Dev.sfuLand (d : Dev) (o : Op) : Dev :=
  let d := d.dropOp o.id
  match d.wg? o.wg with
  | none => d
  | some g =>
    match g.fib? o.fib, d.launch? g.launch with
    | some f, some l =>
      if !f.live || o.discard then d
      else if arithTraps l.r.fpen o.fl then
        (d.modFib o.wg o.fib fun f => (f.fill o.dst o.dn).orFlags o.fl).async o.wg o.fib cArith o.fl.toNat
      else d.modFib o.wg o.fib fun f => (f.setWords o.dst (o.res.take o.dn)).orFlags o.fl
    | _, _ => d

/-- SPECIAL_FUNCTION_RESULT_LANDS: operand a is the operation. -/
def execSpecialFunctionResultLands : State → Host.Outcome State Fault Refusal :=
  event fun _ d =>
    match d.op? d.arg.a with
    | some o => if o.kind = .sfu then d.sfuLand o else d
    | none => d

/-! ## Meanings -/

def bodyFrcp : Body := bodySfu (fun x a => sfRcp (rmOf x) a)

/-- Compact `frcp` (R147). -/
def execFrcp (g : BitVec 2) (n : Bool) (d a : BitVec 7) : State → Host.Outcome State Fault Refusal :=
  issue insSfu bodyFrcp (.frcp g n d a) (twinDA g n d a)

def execFrcpExtended (x : X) : State → Host.Outcome State Fault Refusal := issue insSfu bodyFrcp (.frcpExtended x) x

def bodyFsqrt : Body := bodySfu (fun x a => sfSqrt (rmOf x) a)

/-- Compact `fsqrt` (R147). -/
def execFsqrt (g : BitVec 2) (n : Bool) (d a : BitVec 7) : State → Host.Outcome State Fault Refusal :=
  issue insSfu bodyFsqrt (.fsqrt g n d a) (twinDA g n d a)

def execFsqrtExtended (x : X) : State → Host.Outcome State Fault Refusal := issue insSfu bodyFsqrt (.fsqrtExtended x) x

def bodyFrsq : Body := bodySfu (fun _ a => sfRsq a)

/-- Compact `frsq` (R147). -/
def execFrsq (g : BitVec 2) (n : Bool) (d a : BitVec 7) : State → Host.Outcome State Fault Refusal :=
  issue insSfu bodyFrsq (.frsq g n d a) (twinDA g n d a)

def execFrsqExtended (x : X) : State → Host.Outcome State Fault Refusal := issue insSfu bodyFrsq (.frsqExtended x) x

def bodyFex2 : Body := bodySfu (fun _ a => sfEx2 a)

/-- Compact `fex2` (R147). -/
def execFex2 (g : BitVec 2) (n : Bool) (d a : BitVec 7) : State → Host.Outcome State Fault Refusal :=
  issue insSfu bodyFex2 (.fex2 g n d a) (twinDA g n d a)

def execFex2Extended (x : X) : State → Host.Outcome State Fault Refusal := issue insSfu bodyFex2 (.fex2Extended x) x

def bodyFlg2 : Body := bodySfu (fun _ a => sfLg2 a)

/-- Compact `flg2` (R147). -/
def execFlg2 (g : BitVec 2) (n : Bool) (d a : BitVec 7) : State → Host.Outcome State Fault Refusal :=
  issue insSfu bodyFlg2 (.flg2 g n d a) (twinDA g n d a)

def execFlg2Extended (x : X) : State → Host.Outcome State Fault Refusal := issue insSfu bodyFlg2 (.flg2Extended x) x

def bodyFsinpi : Body := bodySfu (fun _ a => sfSinPi a)

/-- Compact `fsinpi` (R147). -/
def execFsinpi (g : BitVec 2) (n : Bool) (d a : BitVec 7) : State → Host.Outcome State Fault Refusal :=
  issue insSfu bodyFsinpi (.fsinpi g n d a) (twinDA g n d a)

def execFsinpiExtended (x : X) : State → Host.Outcome State Fault Refusal := issue insSfu bodyFsinpi (.fsinpiExtended x) x

def bodyFcospi : Body := bodySfu (fun _ a => sfCosPi a)

/-- Compact `fcospi` (R147). -/
def execFcospi (g : BitVec 2) (n : Bool) (d a : BitVec 7) : State → Host.Outcome State Fault Refusal :=
  issue insSfu bodyFcospi (.fcospi g n d a) (twinDA g n d a)

def execFcospiExtended (x : X) : State → Host.Outcome State Fault Refusal := issue insSfu bodyFcospi (.fcospiExtended x) x

def bodyFtanh : Body := bodySfu (fun _ a => sfTanh a)

/-- Compact `ftanh` (R147). -/
def execFtanh (g : BitVec 2) (n : Bool) (d a : BitVec 7) : State → Host.Outcome State Fault Refusal :=
  issue insSfu bodyFtanh (.ftanh g n d a) (twinDA g n d a)

def execFtanhExtended (x : X) : State → Host.Outcome State Fault Refusal := issue insSfu bodyFtanh (.ftanhExtended x) x

end Sys2Proof.Machine
end

