-- ==== Sys2Proof/Machine/Dispatch.lean ====
section
/-! DEFINITION. The dispatch: one arm for each constructor of `Instr`, each a direct call of its meaning. -/
namespace Sys2Proof.Machine

open Sys2Proof

def exec (i : Instr) (s : State) : Host.Outcome State Fault Refusal :=
  match i with
  | .nop g n => Sys2Proof.Machine.execNop g n s
  | .nopExtended x => Sys2Proof.Machine.execNopExtended x s
  | .bra g n o => Sys2Proof.Machine.execBra g n o s
  | .braExtended x => Sys2Proof.Machine.execBraExtended x s
  | .call g n o d => Sys2Proof.Machine.execCall g n o d s
  | .callExtended x => Sys2Proof.Machine.execCallExtended x s
  | .ret g n a => Sys2Proof.Machine.execRet g n a s
  | .retExtended x => Sys2Proof.Machine.execRetExtended x s
  | .exit g n => Sys2Proof.Machine.execExit g n s
  | .exitExtended x => Sys2Proof.Machine.execExitExtended x s
  | .yield g n => Sys2Proof.Machine.execYield g n s
  | .yieldExtended x => Sys2Proof.Machine.execYieldExtended x s
  | .wait g n a b => Sys2Proof.Machine.execWait g n a b s
  | .waitExtended x => Sys2Proof.Machine.execWaitExtended x s
  | .mov g n d a => Sys2Proof.Machine.execMov g n d a s
  | .movExtended x => Sys2Proof.Machine.execMovExtended x s
  | .movi g n d m => Sys2Proof.Machine.execMovi g n d m s
  | .moviExtended x => Sys2Proof.Machine.execMoviExtended x s
  | .movk g n d k => Sys2Proof.Machine.execMovk g n d k s
  | .movkExtended x => Sys2Proof.Machine.execMovkExtended x s
  | .movs g n d r => Sys2Proof.Machine.execMovs g n d r s
  | .movsExtended x => Sys2Proof.Machine.execMovsExtended x s
  | .wk g n k a => Sys2Proof.Machine.execWk g n k a s
  | .wkExtended x => Sys2Proof.Machine.execWkExtended x s
  | .lea g n d a b => Sys2Proof.Machine.execLea g n d a b s
  | .leaExtended x => Sys2Proof.Machine.execLeaExtended x s
  | .iadd g n d a b => Sys2Proof.Machine.execIadd g n d a b s
  | .iaddExtended x => Sys2Proof.Machine.execIaddExtended x s
  | .isub g n d a b => Sys2Proof.Machine.execIsub g n d a b s
  | .isubExtended x => Sys2Proof.Machine.execIsubExtended x s
  | .imul g n d a b => Sys2Proof.Machine.execImul g n d a b s
  | .imulExtended x => Sys2Proof.Machine.execImulExtended x s
  | .imulh g n d a b => Sys2Proof.Machine.execImulh g n d a b s
  | .imulhExtended x => Sys2Proof.Machine.execImulhExtended x s
  | .imad g n d a b => Sys2Proof.Machine.execImad g n d a b s
  | .imadExtended x => Sys2Proof.Machine.execImadExtended x s
  | .isad g n d a b => Sys2Proof.Machine.execIsad g n d a b s
  | .isadExtended x => Sys2Proof.Machine.execIsadExtended x s
  | .imin g n d a b => Sys2Proof.Machine.execImin g n d a b s
  | .iminExtended x => Sys2Proof.Machine.execIminExtended x s
  | .imax g n d a b => Sys2Proof.Machine.execImax g n d a b s
  | .imaxExtended x => Sys2Proof.Machine.execImaxExtended x s
  | .iabs g n d a => Sys2Proof.Machine.execIabs g n d a s
  | .iabsExtended x => Sys2Proof.Machine.execIabsExtended x s
  | .ineg g n d a => Sys2Proof.Machine.execIneg g n d a s
  | .inegExtended x => Sys2Proof.Machine.execInegExtended x s
  | .and g n d a b => Sys2Proof.Machine.execAnd g n d a b s
  | .andExtended x => Sys2Proof.Machine.execAndExtended x s
  | .or g n d a b => Sys2Proof.Machine.execOr g n d a b s
  | .orExtended x => Sys2Proof.Machine.execOrExtended x s
  | .xor g n d a b => Sys2Proof.Machine.execXor g n d a b s
  | .xorExtended x => Sys2Proof.Machine.execXorExtended x s
  | .shl g n d a m => Sys2Proof.Machine.execShl g n d a m s
  | .shlExtended x => Sys2Proof.Machine.execShlExtended x s
  | .shr g n d a m => Sys2Proof.Machine.execShr g n d a m s
  | .shrExtended x => Sys2Proof.Machine.execShrExtended x s
  | .fsh x => Sys2Proof.Machine.execFsh x s
  | .sar g n d a m => Sys2Proof.Machine.execSar g n d a m s
  | .sarExtended x => Sys2Proof.Machine.execSarExtended x s
  | .rot g n d a m => Sys2Proof.Machine.execRot g n d a m s
  | .rotExtended x => Sys2Proof.Machine.execRotExtended x s
  | .bfx g n d a b => Sys2Proof.Machine.execBfx g n d a b s
  | .bfxExtended x => Sys2Proof.Machine.execBfxExtended x s
  | .bfi g n d a b => Sys2Proof.Machine.execBfi g n d a b s
  | .bfiExtended x => Sys2Proof.Machine.execBfiExtended x s
  | .popc g n d a => Sys2Proof.Machine.execPopc g n d a s
  | .popcExtended x => Sys2Proof.Machine.execPopcExtended x s
  | .clz g n d a => Sys2Proof.Machine.execClz g n d a s
  | .clzExtended x => Sys2Proof.Machine.execClzExtended x s
  | .brev g n d a => Sys2Proof.Machine.execBrev g n d a s
  | .brevExtended x => Sys2Proof.Machine.execBrevExtended x s
  | .prmt g n d a b => Sys2Proof.Machine.execPrmt g n d a b s
  | .prmtExtended x => Sys2Proof.Machine.execPrmtExtended x s
  | .fadd g n d a b => Sys2Proof.Machine.execFadd g n d a b s
  | .faddExtended x => Sys2Proof.Machine.execFaddExtended x s
  | .fsub g n d a b => Sys2Proof.Machine.execFsub g n d a b s
  | .fsubExtended x => Sys2Proof.Machine.execFsubExtended x s
  | .fmul g n d a b => Sys2Proof.Machine.execFmul g n d a b s
  | .fmulExtended x => Sys2Proof.Machine.execFmulExtended x s
  | .ffma g n d a b => Sys2Proof.Machine.execFfma g n d a b s
  | .ffmaExtended x => Sys2Proof.Machine.execFfmaExtended x s
  | .fmin g n d a b => Sys2Proof.Machine.execFmin g n d a b s
  | .fminExtended x => Sys2Proof.Machine.execFminExtended x s
  | .fmax g n d a b => Sys2Proof.Machine.execFmax g n d a b s
  | .fmaxExtended x => Sys2Proof.Machine.execFmaxExtended x s
  | .fscale g n d a b => Sys2Proof.Machine.execFscale g n d a b s
  | .fscaleExtended x => Sys2Proof.Machine.execFscaleExtended x s
  | .frnd g n d a => Sys2Proof.Machine.execFrnd g n d a s
  | .frndExtended x => Sys2Proof.Machine.execFrndExtended x s
  | .frcp g n d a => Sys2Proof.Machine.execFrcp g n d a s
  | .frcpExtended x => Sys2Proof.Machine.execFrcpExtended x s
  | .frsq g n d a => Sys2Proof.Machine.execFrsq g n d a s
  | .frsqExtended x => Sys2Proof.Machine.execFrsqExtended x s
  | .fsqrt g n d a => Sys2Proof.Machine.execFsqrt g n d a s
  | .fsqrtExtended x => Sys2Proof.Machine.execFsqrtExtended x s
  | .fex2 g n d a => Sys2Proof.Machine.execFex2 g n d a s
  | .fex2Extended x => Sys2Proof.Machine.execFex2Extended x s
  | .flg2 g n d a => Sys2Proof.Machine.execFlg2 g n d a s
  | .flg2Extended x => Sys2Proof.Machine.execFlg2Extended x s
  | .fsinpi g n d a => Sys2Proof.Machine.execFsinpi g n d a s
  | .fsinpiExtended x => Sys2Proof.Machine.execFsinpiExtended x s
  | .fcospi g n d a => Sys2Proof.Machine.execFcospi g n d a s
  | .fcospiExtended x => Sys2Proof.Machine.execFcospiExtended x s
  | .ftanh g n d a => Sys2Proof.Machine.execFtanh g n d a s
  | .ftanhExtended x => Sys2Proof.Machine.execFtanhExtended x s
  | .hadd2 g n d a b => Sys2Proof.Machine.execHadd2 g n d a b s
  | .hadd2Extended x => Sys2Proof.Machine.execHadd2Extended x s
  | .hmul2 g n d a b => Sys2Proof.Machine.execHmul2 g n d a b s
  | .hmul2Extended x => Sys2Proof.Machine.execHmul2Extended x s
  | .hfma2 g n d a b => Sys2Proof.Machine.execHfma2 g n d a b s
  | .hfma2Extended x => Sys2Proof.Machine.execHfma2Extended x s
  | .bfma2 g n d a b => Sys2Proof.Machine.execBfma2 g n d a b s
  | .bfma2Extended x => Sys2Proof.Machine.execBfma2Extended x s
  | .icvtf g n d a => Sys2Proof.Machine.execIcvtf g n d a s
  | .icvtfExtended x => Sys2Proof.Machine.execIcvtfExtended x s
  | .fcvti g n d a => Sys2Proof.Machine.execFcvti g n d a s
  | .fcvtiExtended x => Sys2Proof.Machine.execFcvtiExtended x s
  | .idot4 g n d a b => Sys2Proof.Machine.execIdot4 g n d a b s
  | .idot4Extended x => Sys2Proof.Machine.execIdot4Extended x s
  | .fdot2 g n d a b => Sys2Proof.Machine.execFdot2 g n d a b s
  | .fdot2Extended x => Sys2Proof.Machine.execFdot2Extended x s
  | .ld g n d a m => Sys2Proof.Machine.execLd g n d a m s
  | .ldExtended x => Sys2Proof.Machine.execLdExtended x s
  | .st g n d a m => Sys2Proof.Machine.execSt g n d a m s
  | .stExtended x => Sys2Proof.Machine.execStExtended x s
  | .ldc g n d a m => Sys2Proof.Machine.execLdc g n d a m s
  | .ldcExtended x => Sys2Proof.Machine.execLdcExtended x s
  | .iaddc x => Sys2Proof.Machine.execIaddc x s
  | .isubb x => Sys2Proof.Machine.execIsubb x s
  | .imadw x => Sys2Proof.Machine.execImadw x s
  | .lop3 x => Sys2Proof.Machine.execLop3 x s
  | .icmp x => Sys2Proof.Machine.execIcmp x s
  | .isel x => Sys2Proof.Machine.execIsel x s
  | .ptag x => Sys2Proof.Machine.execPtag x s
  | .pspace x => Sys2Proof.Machine.execPspace x s
  | .plop3 x => Sys2Proof.Machine.execPlop3 x s
  | .psetb x => Sys2Proof.Machine.execPsetb x s
  | .pgetb x => Sys2Proof.Machine.execPgetb x s
  | .pmov x => Sys2Proof.Machine.execPmov x s
  | .brx x => Sys2Proof.Machine.execBrx x s
  | .callx x => Sys2Proof.Machine.execCallx x s
  | .spawn x => Sys2Proof.Machine.execSpawn x s
  | .sleep x => Sys2Proof.Machine.execSleep x s
  | .brk x => Sys2Proof.Machine.execBrk x s
  | .trap x => Sys2Proof.Machine.execTrap x s
  | .fcmp x => Sys2Proof.Machine.execFcmp x s
  | .fclass x => Sys2Proof.Machine.execFclass x s
  | .fexp x => Sys2Proof.Machine.execFexp x s
  | .fmant x => Sys2Proof.Machine.execFmant x s
  | .hmnx2 x => Sys2Proof.Machine.execHmnx2 x s
  | .fcvt x => Sys2Proof.Machine.execFcvt x s
  | .unpk x => Sys2Proof.Machine.execUnpk x s
  | .pack x => Sys2Proof.Machine.execPack x s
  | .shfl x => Sys2Proof.Machine.execShfl x s
  | .vote x => Sys2Proof.Machine.execVote x s
  | .sqred x => Sys2Proof.Machine.execSqred x s
  | .sqscan x => Sys2Proof.Machine.execSqscan x s
  | .matchSq x => Sys2Proof.Machine.execMatchSq x s
  | .atom x => Sys2Proof.Machine.execAtom x s
  | .red x => Sys2Proof.Machine.execRed x s
  | .atomf x => Sys2Proof.Machine.execAtomf x s
  | .atomfx x => Sys2Proof.Machine.execAtomfx x s
  | .fence x => Sys2Proof.Machine.execFence x s
  | .fencep x => Sys2Proof.Machine.execFencep x s
  | .ldfe x => Sys2Proof.Machine.execLdfe x s
  | .stfe x => Sys2Proof.Machine.execStfe x s
  | .fezap x => Sys2Proof.Machine.execFezap x s
  | .feprb x => Sys2Proof.Machine.execFeprb x s
  | .barInit x => Sys2Proof.Machine.execBarInit x s
  | .barArv x => Sys2Proof.Machine.execBarArv x s
  | .barExp x => Sys2Proof.Machine.execBarExp x s
  | .barWait x => Sys2Proof.Machine.execBarWait x s
  | .barTest x => Sys2Proof.Machine.execBarTest x s
  | .cpy x => Sys2Proof.Machine.execCpy x s
  | .cpywait x => Sys2Proof.Machine.execCpywait x s
  | .cpytest x => Sys2Proof.Machine.execCpytest x s
  | .tcpy x => Sys2Proof.Machine.execTcpy x s
  | .tcpyc x => Sys2Proof.Machine.execTcpyc x s
  | .pfx x => Sys2Proof.Machine.execPfx x s
  | .cont x => Sys2Proof.Machine.execCont x s
  | .gang x => Sys2Proof.Machine.execGang x s
  | .mma x => Sys2Proof.Machine.execMma x s
  | .aclr x => Sys2Proof.Machine.execAclr x s
  | .ald x => Sys2Proof.Machine.execAld x s
  | .ast x => Sys2Proof.Machine.execAst x s
  | .aldFrag x => Sys2Proof.Machine.execAldFrag x s
  | .astFrag x => Sys2Proof.Machine.execAstFrag x s
  | .acvt x => Sys2Proof.Machine.execAcvt x s
  | .ascl x => Sys2Proof.Machine.execAscl x s
  | .plan x => Sys2Proof.Machine.execPlan x s
  | .await x => Sys2Proof.Machine.execAwait x s
  | .awaitTest x => Sys2Proof.Machine.execAwaitTest x s
  | .mvtx x => Sys2Proof.Machine.execMvtx x s
  | .mprim x => Sys2Proof.Machine.execMprim x s
  | .mend x => Sys2Proof.Machine.execMend x s
  | .attr x => Sys2Proof.Machine.execAttr x s
  | .pxdisc x => Sys2Proof.Machine.execPxdisc x s
  | .kbins x => Sys2Proof.Machine.execKbins x s
  | .omst x => Sys2Proof.Machine.execOmst x s
  | .omld x => Sys2Proof.Machine.execOmld x s
  | .smp x => Sys2Proof.Machine.execSmp x s
  | .tld x => Sys2Proof.Machine.execTld x s
  | .trace x => Sys2Proof.Machine.execTrace x s
  | .trcont x => Sys2Proof.Machine.execTrcont x s
  | .sysrd x => Sys2Proof.Machine.execSysrd x s
  | .syswr x => Sys2Proof.Machine.execSyswr x s
  | .tretRetry x => Sys2Proof.Machine.execTretRetry x s
  | .tretSkip x => Sys2Proof.Machine.execTretSkip x s
  | .tretAt x => Sys2Proof.Machine.execTretAt x s
  | .tretKill x => Sys2Proof.Machine.execTretKill x s
  | .tmaskCrit x => Sys2Proof.Machine.execTmaskCrit x s
  | .tmaskEnd x => Sys2Proof.Machine.execTmaskEnd x s
  | .cachex x => Sys2Proof.Machine.execCachex x s
  | .mtuinvInv x => Sys2Proof.Machine.execMtuinvInv x s
  | .mtuinvRel x => Sys2Proof.Machine.execMtuinvRel x s
  | .frmput x => Sys2Proof.Machine.execFrmput x s
  | .wgctlYield x => Sys2Proof.Machine.execWgctlYield x s
  | .wgctlSetpc x => Sys2Proof.Machine.execWgctlSetpc x s
  | .wgctlKill x => Sys2Proof.Machine.execWgctlKill x s
  | .rfetch d r u => Sys2Proof.Machine.execRfetch d r u s
  | .bfxt d r u => Sys2Proof.Machine.execBfxt d r u s
  | .swait d r => Sys2Proof.Machine.execSwait d r s
  | .dspch d r u => Sys2Proof.Machine.execDspch d r u s
  | .fragmentTransfer => Sys2Proof.Machine.execFragmentTransfer s
  | .matrixOpStart => Sys2Proof.Machine.execMatrixOpStart s
  | .matrixStepComplete => Sys2Proof.Machine.execMatrixStepComplete s
  | .issueCycle => Sys2Proof.Machine.execIssueCycle s
  | .collectionClose => Sys2Proof.Machine.execCollectionClose s
  | .regroupMoveComplete => Sys2Proof.Machine.execRegroupMoveComplete s
  | .loadResultLands => Sys2Proof.Machine.execLoadResultLands s
  | .specialFunctionResultLands => Sys2Proof.Machine.execSpecialFunctionResultLands s
  | .sampleLands => Sys2Proof.Machine.execSampleLands s
  | .texelLands => Sys2Proof.Machine.execTexelLands s
  | .traversalRecordLands => Sys2Proof.Machine.execTraversalRecordLands s
  | .mergerAccessPerformed => Sys2Proof.Machine.execMergerAccessPerformed s
  | .homeRequest => Sys2Proof.Machine.execHomeRequest s
  | .waitRecheckTimeout => Sys2Proof.Machine.execWaitRecheckTimeout s
  | .sleepExpiry => Sys2Proof.Machine.execSleepExpiry s
  | .criticalRegionTimeout => Sys2Proof.Machine.execCriticalRegionTimeout s
  | .l1LineExpiry => Sys2Proof.Machine.execL1LineExpiry s
  | .cpyLanding => Sys2Proof.Machine.execCpyLanding s
  | .copyUnitComplete => Sys2Proof.Machine.execCopyUnitComplete s
  | .tcpycCommit => Sys2Proof.Machine.execTcpycCommit s
  | .haltComplete => Sys2Proof.Machine.execHaltComplete s
  | .freezeComplete => Sys2Proof.Machine.execFreezeComplete s
  | .asyncTrapTaken => Sys2Proof.Machine.execAsyncTrapTaken s
  | .preemptRequest => Sys2Proof.Machine.execPreemptRequest s
  | .saveComplete => Sys2Proof.Machine.execSaveComplete s
  | .schedulingStep => Sys2Proof.Machine.execSchedulingStep s
  | .spinWindowExpiry => Sys2Proof.Machine.execSpinWindowExpiry s
  | .faultSwapThreshold => Sys2Proof.Machine.execFaultSwapThreshold s
  | .workgroupRetire => Sys2Proof.Machine.execWorkgroupRetire s
  | .poolRecordArrival => Sys2Proof.Machine.execPoolRecordArrival s
  | .binAgeLimit => Sys2Proof.Machine.execBinAgeLimit s
  | .poolWorkgroupForm => Sys2Proof.Machine.execPoolWorkgroupForm s
  | .primitiveSetup => Sys2Proof.Machine.execPrimitiveSetup s
  | .pixelLaunchTimeout => Sys2Proof.Machine.execPixelLaunchTimeout s
  | .passEnd => Sys2Proof.Machine.execPassEnd s
  | .tagRetireBatch => Sys2Proof.Machine.execTagRetireBatch s
  | .tagRetirementReceive => Sys2Proof.Machine.execTagRetirementReceive s
  | .tagPinRelease => Sys2Proof.Machine.execTagPinRelease s
  | .tagQuotaStop => Sys2Proof.Machine.execTagQuotaStop s
  | .tagQuotaGo => Sys2Proof.Machine.execTagQuotaGo s
  | .mtuWalk => Sys2Proof.Machine.execMtuWalk s
  | .pageFillComplete => Sys2Proof.Machine.execPageFillComplete s
  | .episodeRelease => Sys2Proof.Machine.execEpisodeRelease s
  | .laneRecordHandover => Sys2Proof.Machine.execLaneRecordHandover s
  | .cairnBatchWindow => Sys2Proof.Machine.execCairnBatchWindow s
  | .cairnRingWrite => Sys2Proof.Machine.execCairnRingWrite s
  | .hwTimeout => Sys2Proof.Machine.execHwTimeout s
  | .doorbell => Sys2Proof.Machine.execDoorbell s
  | .launch => Sys2Proof.Machine.execLaunch s
  | .poolLaunch => Sys2Proof.Machine.execPoolLaunch s
  | .renderPassOpen => Sys2Proof.Machine.execRenderPassOpen s
  | .renderPassClose => Sys2Proof.Machine.execRenderPassClose s
  | .drawMesh => Sys2Proof.Machine.execDrawMesh s
  | .copy => Sys2Proof.Machine.execCopy s
  | .waitPacket => Sys2Proof.Machine.execWaitPacket s
  | .waitWatchRecheck => Sys2Proof.Machine.execWaitWatchRecheck s
  | .waitWatchTimeout => Sys2Proof.Machine.execWaitWatchTimeout s
  | .signal => Sys2Proof.Machine.execSignal s
  | .link => Sys2Proof.Machine.execLink s
  | .fencePacket => Sys2Proof.Machine.execFencePacket s
  | .partitionSet => Sys2Proof.Machine.execPartitionSet s
  | .packetComplete => Sys2Proof.Machine.execPacketComplete s
  | .equinoxReport => Sys2Proof.Machine.execEquinoxReport s
  | .equinoxGo => Sys2Proof.Machine.execEquinoxGo s
  | .equinoxAbort => Sys2Proof.Machine.execEquinoxAbort s
  | .equinoxTimeout => Sys2Proof.Machine.execEquinoxTimeout s
  | .dbgreqHalt => Sys2Proof.Machine.execDbgreqHalt s
  | .dbgreqContinue => Sys2Proof.Machine.execDbgreqContinue s
  | .dbgreqConvert => Sys2Proof.Machine.execDbgreqConvert s
  | .dbgreqKill => Sys2Proof.Machine.execDbgreqKill s
  | .registerWrite => Sys2Proof.Machine.execRegisterWrite s
  | .mrExtend => Sys2Proof.Machine.execMrExtend s
  | .swaitTimeout => Sys2Proof.Machine.execSwaitTimeout s
  | .rinsarHubTimeout => Sys2Proof.Machine.execRinsarHubTimeout s
  | .rds => Sys2Proof.Machine.execRds s
  | .rdx => Sys2Proof.Machine.execRdx s
  | .upg => Sys2Proof.Machine.execUpg s
  | .wb => Sys2Proof.Machine.execWb s
  | .snps => Sys2Proof.Machine.execSnps s
  | .snpi => Sys2Proof.Machine.execSnpi s
  | .rsp => Sys2Proof.Machine.execRsp s
  | .go => Sys2Proof.Machine.execGo s
  | .goack => Sys2Proof.Machine.execGoack s
  | .peerFlitReceive => Sys2Proof.Machine.execPeerFlitReceive s
  | .cxlPortLinkDown => Sys2Proof.Machine.execCxlPortLinkDown s
  | .displayGuardTime => Sys2Proof.Machine.execDisplayGuardTime s
  | .headEnablePoll => Sys2Proof.Machine.execHeadEnablePoll s
  | .image => Sys2Proof.Machine.execImage s
  | .boot => Sys2Proof.Machine.execBoot s
  | .status => Sys2Proof.Machine.execStatus s
  | .attest => Sys2Proof.Machine.execAttest s
  | .moduleReset => Sys2Proof.Machine.execModuleReset s
  | .powerSample => Sys2Proof.Machine.execPowerSample s
  | .d3hotEntry => Sys2Proof.Machine.execD3hotEntry s
  | .d3hotExit => Sys2Proof.Machine.execD3hotExit s
  | .d3coldEntry => Sys2Proof.Machine.execD3coldEntry s
  | .coreIdleGate => Sys2Proof.Machine.execCoreIdleGate s
  | .sramScrub => Sys2Proof.Machine.execSramScrub s
  | .auxPowerLoss => Sys2Proof.Machine.execAuxPowerLoss s
  | .peerLinkTrained => Sys2Proof.Machine.execPeerLinkTrained s
  | .downstreamPortLinkUp => Sys2Proof.Machine.execDownstreamPortLinkUp s
  | .freeListGetAdvance => Sys2Proof.Machine.execFreeListGetAdvance s
  | .equinoxPacketReceive => Sys2Proof.Machine.execEquinoxPacketReceive s

end Sys2Proof.Machine
end

