-- ==== Sys2Proof/Machine/Rv64.lean ====
section
/-! DEFINITION. The RV64IMAC base instructions of the firmware harts. R1 and R452 name the base set and the spec does not describe it: all of
this file is taken from the RISC-V instruction set manuals. PRESUMED, log 38. -/
namespace Sys2Proof.Machine

open Sys2Proof

/-! ## Syntax -/

/-- A base instruction: register numbers, the sizes and operations by their funct3, immediates sign-extended. -/
inductive Rv where
  | lui (rd : Nat) (imm : DWord)
  | auipc (rd : Nat) (imm : DWord)
  | jal (rd : Nat) (off : DWord)
  | jalr (rd rs1 : Nat) (off : DWord)
  | branch (f3 rs1 rs2 : Nat) (off : DWord)
  | load (f3 rd rs1 : Nat) (off : DWord)
  | store (f3 rs1 rs2 : Nat) (off : DWord)
  | opImm (f3 : Nat) (alt narrow : Bool) (rd rs1 : Nat) (imm : DWord)
  | op (f3 : Nat) (alt narrow : Bool) (rd rs1 rs2 : Nat)
  | mul (f3 : Nat) (narrow : Bool) (rd rs1 rs2 : Nat)
  | amo (f5 : Nat) (narrow : Bool) (rd rs1 rs2 : Nat)
  | fence
  | ecall
  | ebreak
  | mret
  | csr (f3 rd rs1 n : Nat)
  deriving DecidableEq, Repr

/-- A `w`-bit immediate, sign-extended. -/
def simm (w v : Nat) : DWord := BitVec.ofInt 64 (sNat w v)

/-! ## Decoding -/

/-- A 32-bit instruction word. -/
def decodeRv (w : Nat) : Option Rv :=
  let f (h l : Nat) : Nat := bitsN w h l
  let rd := f 11 7
  let f3 := f 14 12
  let rs1 := f 19 15
  let rs2 := f 24 20
  let iImm := simm 12 (f 31 20)
  let uImm := simm 32 (f 31 12 * 2 ^ 12)
  match f 6 0 with
  | 0x37 => some (.lui rd uImm)
  | 0x17 => some (.auipc rd uImm)
  | 0x6F => some (.jal rd (simm 21 (f 31 31 * 2 ^ 20 + f 19 12 * 2 ^ 12 + f 20 20 * 2 ^ 11 + f 30 21 * 2)))
  | 0x67 => if f3 = 0 then some (.jalr rd rs1 iImm) else none
  | 0x63 =>
    if f3 = 2 || f3 = 3 then none
    else some (.branch f3 rs1 rs2 (simm 13 (f 31 31 * 2 ^ 12 + f 7 7 * 2 ^ 11 + f 30 25 * 2 ^ 5 + f 11 8 * 2)))
  | 0x03 => if f3 = 7 then none else some (.load f3 rd rs1 iImm)
  | 0x23 => if f3 > 3 then none else some (.store f3 rs1 rs2 (simm 12 (f 31 25 * 2 ^ 5 + f 11 7)))
  | 0x13 =>
    if f3 = 1 then (if f 31 26 = 0 then some (.opImm 1 false false rd rs1 (BitVec.ofNat 64 (f 25 20))) else none)
    else if f3 = 5 then
      (if f 31 26 = 0 || f 31 26 = 0x10 then some (.opImm 5 (f 30 30 = 1) false rd rs1 (BitVec.ofNat 64 (f 25 20))) else none)
    else some (.opImm f3 false false rd rs1 iImm)
  | 0x1B =>
    if f3 = 0 then some (.opImm 0 false true rd rs1 iImm)
    else if (f3 = 1 && f 31 25 = 0) || (f3 = 5 && (f 31 25 = 0 || f 31 25 = 0x20)) then
      some (.opImm f3 (f 30 30 = 1) true rd rs1 (BitVec.ofNat 64 rs2))
    else none
  | 0x33 =>
    if f 31 25 = 1 then some (.mul f3 false rd rs1 rs2)
    else if f 31 25 = 0 || (f 31 25 = 0x20 && (f3 = 0 || f3 = 5)) then some (.op f3 (f 30 30 = 1) false rd rs1 rs2)
    else none
  | 0x3B =>
    if f 31 25 = 1 then (if f3 = 0 || f3 > 3 then some (.mul f3 true rd rs1 rs2) else none)
    else if (f 31 25 = 0 && (f3 = 0 || f3 = 1 || f3 = 5)) || (f 31 25 = 0x20 && (f3 = 0 || f3 = 5)) then
      some (.op f3 (f 30 30 = 1) true rd rs1 rs2)
    else none
  | 0x2F =>
    if (f3 = 2 || f3 = 3) && (([0, 1, 3, 4, 8, 12, 16, 20, 24, 28].contains (f 31 27)) || (f 31 27 = 2 && rs2 = 0)) then
      some (.amo (f 31 27) (f3 = 2) rd rs1 rs2)
    else none
  | 0x0F => if f3 = 0 then some .fence else none
  | 0x73 =>
    if f3 = 0 then
      (match f 31 7 with
       | 0 => some .ecall
       | 0x2000 => some .ebreak
       | 0x604000 => some .mret
       | 0x20A000 => some .fence
       | _ => none)
    else if f3 = 4 then none
    else some (.csr f3 rd rs1 (f 31 20))
  | _ => none

/-- A 16-bit instruction: the base instruction it abbreviates. -/
def decodeRvc (c : Nat) : Option Rv :=
  let f (h l : Nat) : Nat := bitsN c h l
  let rd := f 11 7
  let rs2 := f 6 2
  let a := 8 + f 9 7
  let b := 8 + f 4 2
  let imm6 := simm 6 (f 12 12 * 32 + f 6 2)
  let sh := BitVec.ofNat 64 (f 12 12 * 32 + f 6 2)
  let pick (ok : Bool) (i : Rv) : Option Rv := if ok then some i else none
  let u (n : Nat) : DWord := BitVec.ofNat 64 n
  let lw := u (f 12 10 * 8 + f 6 6 * 4 + f 5 5 * 64)
  let ld := u (f 12 10 * 8 + f 6 5 * 64)
  match f 1 0, f 15 13 with
  | 0, 0 =>
    let n := f 12 11 * 16 + f 10 7 * 64 + f 6 6 * 4 + f 5 5 * 8
    pick (n ≠ 0) (.opImm 0 false false b 2 (u n))
  | 0, 2 => some (.load 2 b a lw)
  | 0, 3 => some (.load 3 b a ld)
  | 0, 6 => some (.store 2 a b lw)
  | 0, 7 => some (.store 3 a b ld)
  | 1, 0 => some (.opImm 0 false false rd rd imm6)
  | 1, 1 => pick (rd ≠ 0) (.opImm 0 false true rd rd imm6)
  | 1, 2 => some (.opImm 0 false false rd 0 imm6)
  | 1, 3 =>
    if rd = 2 then
      let n := f 12 12 * 512 + f 6 6 * 16 + f 5 5 * 64 + f 4 3 * 128 + f 2 2 * 32
      pick (n ≠ 0) (.opImm 0 false false 2 2 (simm 10 n))
    else pick (imm6 ≠ 0#64) (.lui rd (imm6 <<< 12))
  | 1, 4 =>
    match f 11 10 with
    | 0 => some (.opImm 5 false false a a sh)
    | 1 => some (.opImm 5 true false a a sh)
    | 2 => some (.opImm 7 false false a a imm6)
    | _ =>
      match f 12 12, f 6 5 with
      | 0, 0 => some (.op 0 true false a a b)
      | 0, 1 => some (.op 4 false false a a b)
      | 0, 2 => some (.op 6 false false a a b)
      | 0, _ => some (.op 7 false false a a b)
      | _, 0 => some (.op 0 true true a a b)
      | _, 1 => some (.op 0 false true a a b)
      | _, _ => none
  | 1, 5 =>
    some (.jal 0 (simm 12 (f 12 12 * 2 ^ 11 + f 11 11 * 2 ^ 4 + f 10 9 * 2 ^ 8 + f 8 8 * 2 ^ 10 + f 7 7 * 2 ^ 6 + f 6 6 * 2 ^ 7 + f 5 3 * 2 +
      f 2 2 * 2 ^ 5)))
  | 1, q =>
    some (.branch (q - 6) a 0 (simm 9 (f 12 12 * 2 ^ 8 + f 11 10 * 2 ^ 3 + f 6 5 * 2 ^ 6 + f 4 3 * 2 + f 2 2 * 2 ^ 5)))
  | 2, 0 => some (.opImm 1 false false rd rd sh)
  | 2, 2 => pick (rd ≠ 0) (.load 2 rd 2 (u (f 12 12 * 32 + f 6 4 * 4 + f 3 2 * 64)))
  | 2, 3 => pick (rd ≠ 0) (.load 3 rd 2 (u (f 12 12 * 32 + f 6 5 * 8 + f 4 2 * 64)))
  | 2, 4 =>
    if f 12 12 = 0 then
      if rs2 = 0 then pick (rd ≠ 0) (.jalr 0 rd 0#64) else some (.op 0 false false rd 0 rs2)
    else if rs2 ≠ 0 then some (.op 0 false false rd rd rs2)
    else if rd = 0 then some .ebreak
    else some (.jalr 1 rd 0#64)
  | 2, 6 => some (.store 2 2 rs2 (u (f 12 9 * 4 + f 8 7 * 64)))
  | 2, 7 => some (.store 3 2 rs2 (u (f 12 10 * 8 + f 9 7 * 64)))
  | _, _ => none

/-! ## Arithmetic -/

/-- The low word, sign-extended. -/
def sext32 (v : DWord) : DWord := (v.setWidth 32).signExtend 64

/-- The operations of OP and OP-IMM by funct3, on 64 bits. -/
def rvAlu (f3 : Nat) (alt : Bool) (a b : DWord) : DWord :=
  let s := b.toNat % 64
  match f3 with
  | 0 => if alt then a - b else a + b
  | 1 => a <<< s
  | 2 => if a.slt b then 1#64 else 0#64
  | 3 => if a.ult b then 1#64 else 0#64
  | 4 => a ^^^ b
  | 5 => if alt then a.sshiftRight s else a >>> s
  | 6 => a ||| b
  | _ => a &&& b

/-- The same on the low words. -/
def rvAluW (f3 : Nat) (alt : Bool) (a b : DWord) : DWord :=
  let x := a.setWidth 32
  let s := b.toNat % 32
  match f3 with
  | 1 => (x <<< s).signExtend 64
  | 5 => (if alt then x.sshiftRight s else x >>> s).signExtend 64
  | _ => sext32 (if alt then a - b else a + b)

/-- Quotient and remainder, signed or not: no exception; by zero the quotient is all ones and the remainder the dividend. -/
def rvDiv {n : Nat} (f3 : Nat) (a b : BitVec n) : BitVec n :=
  if b = 0#n then (if f3 ≥ 6 then a else BitVec.allOnes n)
  else
    match f3 with
    | 4 => a.sdiv b
    | 5 => a / b
    | 6 => a.srem b
    | _ => a % b

/-- The operations of the M extension. -/
def rvMul (f3 : Nat) (narrow : Bool) (a b : DWord) : DWord :=
  let high (x y : Int) : DWord := BitVec.ofInt 64 (x * y / (2 ^ 64 : Nat))
  if narrow then (if f3 = 0 then sext32 (a * b) else (rvDiv f3 (a.setWidth 32) (b.setWidth 32)).signExtend 64)
  else
    match f3 with
    | 0 => a * b
    | 1 => high a.toInt b.toInt
    | 2 => high a.toInt b.toNat
    | 3 => high a.toNat b.toNat
    | _ => rvDiv f3 a b

def rvTakes (f3 : Nat) (a b : DWord) : Bool :=
  match f3 with
  | 0 => a = b
  | 1 => a ≠ b
  | 4 => a.slt b
  | 5 => !a.slt b
  | 6 => a.ult b
  | _ => !a.ult b

/-- The new value of an atomic memory operation on the sign-extended old one. -/
def rvAmo (f5 : Nat) (old b : DWord) : DWord :=
  match f5 with
  | 0 => old + b
  | 4 => old ^^^ b
  | 8 => old ||| b
  | 12 => old &&& b
  | 16 => if b.slt old then b else old
  | 20 => if old.slt b then b else old
  | 24 => if b.ult old then b else old
  | 28 => if old.ult b then b else old
  | _ => b

/-! ## Memory: the hub registers (R427), and the memory of the firmware complex -/

def inHub (a : Nat) : Bool := decide (0x40000000 ≤ a) && decide (a < 0x40100000)

/-- `n` aligned bytes as a hart reads them. -/
def Dev.hartRead (e : Env) (d : Dev) (a n : Nat) : Nat :=
  if inHub a then
    let o := a - 0x40000000
    (d.hartReg (o / 8 * 8)).toNat / 2 ^ (8 * (o % 8)) % 2 ^ (8 * n)
  else d.nat e (hartKey a) n

/-- The poison of a hart's own memory (R478). -/
def Dev.hartPoisoned (d : Dev) (a n : Nat) : Bool := !inHub a && d.poisoned (hartKey a) n

/-- Reservations that a write of these bytes ends. -/
def Dev.unreserve (d : Dev) (a n : Nat) : Dev :=
  { d with harts := d.harts.map fun h =>
      match h.resv with
      | some r => if r < a + n && a < r + 8 then { h with resv := none } else h
      | none => h }

/-- `n` aligned bytes as a hart writes them: a hub register takes them into the value it reads; each `TAGQ` has four bytes of its own. -/
def Dev.hartStore (e : Env) (d : Dev) (a n v : Nat) : Dev :=
  let v := v % 2 ^ (8 * n)
  if inHub a then
    let o := a - 0x40000000
    let at_ := o / 8 * 8
    let sh := 2 ^ (8 * (o % 8))
    let old := (d.hartReg at_).toNat
    let new := old - old / sh % 2 ^ (8 * n) * sh + v * sh
    if 0x40000 ≤ o && o < 0x44000 then (d.registerWrite e 0 at_ (new % 2 ^ 32)).registerWrite e 0 (at_ + 4) (new / 2 ^ 32)
    else d.registerWrite e 0 at_ new
  else (d.write (hartKey a) (leBytes n v)).unreserve a n

/-! ## Control and status registers -/

/-- A hart's register by its number, where it has it. -/
def Hart.csr (h : Hart) (i n : Nat) : Option DWord :=
  match n with
  | 0x300 => some h.mstatus
  | 0x301 => some 0x8000000000941105#64
  | 0x305 => some h.mtvec
  | 0x340 => some h.mscratch
  | 0x341 => some h.mepc
  | 0x342 => some h.mcause
  | 0x343 => some h.mtval
  | 0xF11 => some 0#64
  | 0xF12 => some 0#64
  | 0xF13 => some 0#64
  | 0xF14 => some (BitVec.ofNat 64 i)
  | _ => none

/-- A write: `mstatus` keeps MIE, MPIE and a legal MPP; `mepc` is even; `mtvec` has a base and mode 0. -/
def Hart.setCsr (h : Hart) (n : Nat) (v : DWord) : Hart :=
  match n with
  | 0x300 => { h with mstatus := if bitsN v.toNat 12 11 = 2 then v &&& 0x88#64 else v &&& 0x1888#64 }
  | 0x305 => { h with mtvec := v &&& ~~~3#64 }
  | 0x340 => { h with mscratch := v }
  | 0x341 => { h with mepc := v &&& ~~~1#64 }
  | 0x342 => { h with mcause := v }
  | 0x343 => { h with mtval := v }
  | _ => h

/-! ## Execution -/

/-- The hart goes on at `pc`. -/
def Hart.goAt (h : Hart) (pc : DWord) : Hart := { h with pc := pc }

/-- `mret`: the mode and the interrupt enable go back, and the hart goes on at `mepc`. -/
def Hart.mret (h : Hart) : Hart :=
  let s := h.mstatus.toNat
  { h with pc := h.mepc, mode := bitsN s 12 11, mstatus := BitVec.ofNat 64 (bitsN s 7 7 * 8 + 128) }

/-- The value of a load by its funct3. -/
def loadValue (f3 v : Nat) : DWord := if f3 < 4 then simm (8 * 2 ^ f3) v else BitVec.ofNat 64 v

/-- One base instruction of hart `i`, of `len` bytes and with the bits `raw`. -/
def Dev.rvRun (e : Env) (d : Dev) (i len raw : Nat) (r : Rv) : Dev :=
  let h := d.hart i
  let next := h.pc + BitVec.ofNat 64 len
  let go (f : Hart → Hart) : Dev := d.modHart i f
  let trap (c : Nat) (v : DWord) : Dev := d.modHart i (·.take c v)
  let put (rd : Nat) (v : DWord) : Dev := go fun h => (h.set rd v).goAt next
  -- an access of `n` bytes: misaligned, or poison where it reads
  let access (c n : Nat) (a : DWord) (reads : Bool) (f : Nat → Dev) : Dev :=
    if a.toNat % n ≠ 0 then trap c a
    else if reads && d.hartPoisoned a.toNat n then trap (c + 1) a
    else f a.toNat
  match r with
  | .lui rd v => put rd v
  | .auipc rd v => put rd (h.pc + v)
  | .jal rd off => go fun t => (t.set rd next).goAt (h.pc + off)
  | .jalr rd s off => go fun t => (t.set rd next).goAt ((h.get s + off) &&& ~~~1#64)
  | .branch f3 a b off => go fun t => t.goAt (if rvTakes f3 (h.get a) (h.get b) then h.pc + off else next)
  | .load f3 rd s off =>
    let n := 2 ^ (f3 % 4)
    access 4 n (h.get s + off) true fun a => put rd (loadValue f3 (d.hartRead e a n))
  | .store f3 s t off =>
    let n := 2 ^ f3
    access 6 n (h.get s + off) false fun a => (d.hartStore e a n (h.get t).toNat).modHart i (·.goAt next)
  | .opImm f3 alt narrow rd s v => put rd (if narrow then rvAluW f3 alt (h.get s) v else rvAlu f3 alt (h.get s) v)
  | .op f3 alt narrow rd s t => put rd (if narrow then rvAluW f3 alt (h.get s) (h.get t) else rvAlu f3 alt (h.get s) (h.get t))
  | .mul f3 narrow rd s t => put rd (rvMul f3 narrow (h.get s) (h.get t))
  | .amo f5 narrow rd s t =>
    let n := if narrow then 4 else 8
    let q := h.get s
    if inHub q.toNat then trap (if f5 = 2 then 5 else 7) q
    else
      access (if f5 = 2 then 4 else 6) n q (f5 ≠ 3) fun a =>
        let old := simm (8 * n) (d.hartRead e a n)
        let v := h.get t
        let b := if narrow then sext32 v else v
        match f5 with
        | 2 => go fun t => { (t.set rd old).goAt next with resv := some a }
        | 3 =>
          if h.resv = some a then
            (d.hartStore e a n b.toNat).modHart i fun t => { (t.set rd 0#64).goAt next with resv := none }
          else go fun t => { (t.set rd 1#64).goAt next with resv := none }
        | _ => (d.hartStore e a n (rvAmo f5 old b).toNat).modHart i fun t => (t.set rd old).goAt next
  | .fence => go (·.goAt next)
  | .ecall => trap (8 + h.mode) 0#64
  | .ebreak => trap 3 h.pc
  | .mret => if h.mode = 3 then go (·.mret) else trap 2 (BitVec.ofNat 64 raw)
  | .csr f3 rd s n =>
    let src := if f3 ≥ 4 then BitVec.ofNat 64 s else h.get s
    let writes := f3 % 4 = 1 || s ≠ 0
    match h.csr i n with
    | none => trap 2 (BitVec.ofNat 64 raw)
    | some old =>
      if h.mode < 3 || (writes && n / 2 ^ 10 = 3) then trap 2 (BitVec.ofNat 64 raw)
      else
        let new := match f3 % 4 with
          | 1 => src
          | 2 => old ||| src
          | _ => old &&& ~~~src
        go fun t => ((if writes then t.setCsr n new else t).set rd old).goAt next

/-- The base instruction at the pc of hart `i`; a word that is none is an illegal instruction, and poison there a fetch that fails. -/
def Dev.hartBase (e : Env) (d : Dev) (i : Nat) : Dev :=
  let w := (d.hartWord e i).toNat
  let long := w % 4 = 3
  let raw := if long then w else w % 2 ^ 16
  let len := if long then 4 else 2
  let pc := (d.hart i).pc
  if d.hartPoisoned pc.toNat len then d.modHart i (·.take 1 pc)
  else
    match if long then decodeRv w else decodeRvc raw with
    | some r => d.rvRun e i len raw r
    | none => d.modHart i (·.take 2 (BitVec.ofNat 64 raw))

end Sys2Proof.Machine
end

