-- ==== Sys2Proof/Machine/Step.lean ====
section
/-! DEFINITION. One step of the machine: the rope that stands first, else the first item of the agenda, else the next cc. -/
namespace Sys2Proof.Machine

open Sys2Proof

/-- A step. The ropes that the latest cc selected execute first, one after another; then the steps of the units that were due in it;
then the clock goes on. A firmware hart runs once the boot
has started it (R473): a Rinsar instruction of R452, or one of the base set (PRESUMED, log 38). -/
def step (s : State) : Host.Outcome State Fault Refusal :=
  match s.d.ropes with
  | _ :: _ =>
    match fetchOn s with
    | (.run i, t) => exec i t
    | (.stop, t) => .next t
  | [] =>
    match s.d.agenda with
    | [] => exec .issueCycle s
    | .ev i a b c bs :: r => exec i { s with d := { s.d with agenda := r, arg := ⟨a, b, c, bs⟩ } }
    | .hart h :: r =>
      let t : State := { s with d := { s.d with agenda := r, curHart := h } }
      if !(t.d.hart h).running then .next t
      else
        match t.d.hartFetch t.env h with
        | .run i => exec i t
        | .bad => .next (onDev (fun _ d => d.hartBad h) t)
        | .base => .next (onDev (fun e d => d.hartBase e h) t)
    | .hartEvents h on :: r =>
      .next (onDev (fun _ d => d.modHart h fun t => { t with evEn := on }) { s with d := { s.d with agenda := r } })
    | .hostWrite ia bs :: r => .next (onDev (fun e d => d.hostPut e ia bs) { s with d := { s.d with agenda := r } })

/-- The instruction with bits `w`, numbered as the opcode table numbers them, as the one that the next step fetches and runs: an Orier
instruction as the text of a fibre, a Rinsar instruction at hart 0. DESIGN CHOICE, log 12. -/
def State.withFetchWord (s : State) (nbits w : Nat) : State :=
  let v := w % 2 ^ nbits
  let ws := natWords 5 v
  match (decode ws).1, decodeRinsar (BitVec.ofNat 32 v) with
  | .ok _, _ => s.withText ws
  | _, some _ => s.withHartWord (BitVec.ofNat 32 v)
  | _, none => s.withText ws

end Sys2Proof.Machine
end

