-- ==== Sys2Proof/Safety.lean ====
section
/-! DEFINITION. What statements about the machine are said with: states between steps, an instruction's operand record, and the
conditions under which one fibre executes it. -/
namespace Sys2Proof.Machine

open Sys2Proof

/-! ## States between steps -/

/-- A state between steps: memory is in its canonical form, and every byte written has gone to memory. -/
structure State.Ok (s : State) : Prop where
  canon : s.mem.wf = true
  quiet : s.d.wb = []

/-! ## The operand record of a fibre instruction -/

/-- The operand record of an instruction and its extended form (R147); none for a Rinsar instruction and for a step of a unit. -/
def form (i : Instr) : Option (Ins × X) :=
  match i with
  | .nop g n => some (insNop, (twin g n))
  | .nopExtended x => some (insNop, x)
  | .bra g n _ => some (insBra, (twin g n))
  | .braExtended x => some (insBra, x)
  | .call g n _ d => some (insCall, { twin g n with d := d.setWidth 8 })
  | .callExtended x => some (insCall, x)
  | .ret g n a => some (insRet, { twin g n with a := a.setWidth 8 })
  | .retExtended x => some (insRet, x)
  | .exit g n => some (insExit, (twin g n))
  | .exitExtended x => some (insExit, x)
  | .yield g n => some (insNop, (twin g n))
  | .yieldExtended x => some (insNop, x)
  | .wait g n a b => some (insWait, { twin g n with a := a.setWidth 8, b := b.setWidth 8 })
  | .waitExtended x => some (insWait, x)
  | .mov g n d a => some (aluMov.toIns, (twinDA g n d a))
  | .movExtended x => some (aluMov.toIns, x)
  | .movi g n d i => some (aluMovi.toIns, (twinDAI g n d 0#7 i))
  | .moviExtended x => some (aluMovi.toIns, x)
  | .movk g n d k => some (aluMovk.toIns, { twinDA g n d 0#7 with b := k.setWidth 8, bk := true })
  | .movkExtended x => some (aluMovk.toIns, x)
  | .movs g n d s => some (insMovs, { twinDA g n d 0#7 with m := s.setWidth 32 <<< 23 })
  | .movsExtended x => some (insMovs, x)
  | .wk g n k a => some (insWk, { twin g n with d := k.setWidth 8, a := a.setWidth 8 })
  | .wkExtended x => some (insWk, x)
  | .lea g n d a b => some (aluLea.toIns, (twinDAB g n d a b))
  | .leaExtended x => some (aluLea.toIns, x)
  | .iadd g n d a b => some (aluIadd.toIns, (twinDAB g n d a b))
  | .iaddExtended x => some (aluIadd.toIns, x)
  | .isub g n d a b => some (aluIsub.toIns, (twinDAB g n d a b))
  | .isubExtended x => some (aluIsub.toIns, x)
  | .imul g n d a b => some (aluImul.toIns, (twinDAB g n d a b))
  | .imulExtended x => some (aluImul.toIns, x)
  | .imulh g n d a b => some (aluImulh.toIns, (twinDAB g n d a b))
  | .imulhExtended x => some (aluImulh.toIns, x)
  | .imad g n d a b => some (aluImad.toIns, (twinDABC g n d a b))
  | .imadExtended x => some (aluImad.toIns, x)
  | .isad g n d a b => some (aluIsad.toIns, (twinDABC g n d a b))
  | .isadExtended x => some (aluIsad.toIns, x)
  | .imin g n d a b => some (aluImin.toIns, (twinDAB g n d a b))
  | .iminExtended x => some (aluImin.toIns, x)
  | .imax g n d a b => some (aluImax.toIns, (twinDAB g n d a b))
  | .imaxExtended x => some (aluImax.toIns, x)
  | .iabs g n d a => some (aluIabs.toIns, (twinDA g n d a))
  | .iabsExtended x => some (aluIabs.toIns, x)
  | .ineg g n d a => some (aluIneg.toIns, (twinDA g n d a))
  | .inegExtended x => some (aluIneg.toIns, x)
  | .and g n d a b => some (aluAnd.toIns, (twinDAB g n d a b))
  | .andExtended x => some (aluAnd.toIns, x)
  | .or g n d a b => some (aluOr.toIns, (twinDAB g n d a b))
  | .orExtended x => some (aluOr.toIns, x)
  | .xor g n d a b => some (aluXor.toIns, (twinDAB g n d a b))
  | .xorExtended x => some (aluXor.toIns, x)
  | .shl g n d a i => some (aluShl.toIns, (twinDAI g n d a i))
  | .shlExtended x => some (aluShl.toIns, x)
  | .shr g n d a i => some (aluShr.toIns, (twinDAI g n d a i))
  | .shrExtended x => some (aluShr.toIns, x)
  | .fsh x => some (aluFsh.toIns, x)
  | .sar g n d a i => some (aluSar.toIns, (twinDAI g n d a i))
  | .sarExtended x => some (aluSar.toIns, x)
  | .rot g n d a i => some (aluRot.toIns, (twinDAI g n d a i))
  | .rotExtended x => some (aluRot.toIns, x)
  | .bfx g n d a b => some (aluBfx.toIns, (twinDAB g n d a b))
  | .bfxExtended x => some (aluBfx.toIns, x)
  | .bfi g n d a b => some (aluBfi.toIns, (twinDABC g n d a b))
  | .bfiExtended x => some (aluBfi.toIns, x)
  | .popc g n d a => some (aluPopc.toIns, (twinDA g n d a))
  | .popcExtended x => some (aluPopc.toIns, x)
  | .clz g n d a => some (aluClz.toIns, (twinDA g n d a))
  | .clzExtended x => some (aluClz.toIns, x)
  | .brev g n d a => some (aluBrev.toIns, (twinDA g n d a))
  | .brevExtended x => some (aluBrev.toIns, x)
  | .prmt g n d a b => some (aluPrmt.toIns, (twinDABC g n d a b))
  | .prmtExtended x => some (aluPrmt.toIns, x)
  | .fadd g n d a b => some (aluFadd.toIns, (twinDAB g n d a b))
  | .faddExtended x => some (aluFadd.toIns, x)
  | .fsub g n d a b => some (aluFsub.toIns, (twinDAB g n d a b))
  | .fsubExtended x => some (aluFsub.toIns, x)
  | .fmul g n d a b => some (aluFmul.toIns, (twinDAB g n d a b))
  | .fmulExtended x => some (aluFmul.toIns, x)
  | .ffma g n d a b => some (aluFfma.toIns, (twinDABC g n d a b))
  | .ffmaExtended x => some (aluFfma.toIns, x)
  | .fmin g n d a b => some (aluFmin.toIns, (twinDAB g n d a b))
  | .fminExtended x => some (aluFmin.toIns, x)
  | .fmax g n d a b => some (aluFmax.toIns, (twinDAB g n d a b))
  | .fmaxExtended x => some (aluFmax.toIns, x)
  | .fscale g n d a b => some (aluFscale.toIns, (twinDAB g n d a b))
  | .fscaleExtended x => some (aluFscale.toIns, x)
  | .frnd g n d a => some (aluFrnd.toIns, (twinDA g n d a))
  | .frndExtended x => some (aluFrnd.toIns, x)
  | .frcp g n d a => some (insSfu, (twinDA g n d a))
  | .frcpExtended x => some (insSfu, x)
  | .frsq g n d a => some (insSfu, (twinDA g n d a))
  | .frsqExtended x => some (insSfu, x)
  | .fsqrt g n d a => some (insSfu, (twinDA g n d a))
  | .fsqrtExtended x => some (insSfu, x)
  | .fex2 g n d a => some (insSfu, (twinDA g n d a))
  | .fex2Extended x => some (insSfu, x)
  | .flg2 g n d a => some (insSfu, (twinDA g n d a))
  | .flg2Extended x => some (insSfu, x)
  | .fsinpi g n d a => some (insSfu, (twinDA g n d a))
  | .fsinpiExtended x => some (insSfu, x)
  | .fcospi g n d a => some (insSfu, (twinDA g n d a))
  | .fcospiExtended x => some (insSfu, x)
  | .ftanh g n d a => some (insSfu, (twinDA g n d a))
  | .ftanhExtended x => some (insSfu, x)
  | .hadd2 g n d a b => some (aluHadd2.toIns, (twinDAB g n d a b))
  | .hadd2Extended x => some (aluHadd2.toIns, x)
  | .hmul2 g n d a b => some (aluHmul2.toIns, (twinDAB g n d a b))
  | .hmul2Extended x => some (aluHmul2.toIns, x)
  | .hfma2 g n d a b => some (aluHfma2.toIns, (twinDABC g n d a b))
  | .hfma2Extended x => some (aluHfma2.toIns, x)
  | .bfma2 g n d a b => some (aluBfma2.toIns, (twinDABC g n d a b))
  | .bfma2Extended x => some (aluBfma2.toIns, x)
  | .icvtf g n d a => some (aluIcvtf.toIns, (twinDA g n d a))
  | .icvtfExtended x => some (aluIcvtf.toIns, x)
  | .fcvti g n d a => some (aluFcvti.toIns, (twinDA g n d a))
  | .fcvtiExtended x => some (aluFcvti.toIns, x)
  | .idot4 g n d a b => some (aluIdot4.toIns, (twinDABC g n d a b))
  | .idot4Extended x => some (aluIdot4.toIns, x)
  | .fdot2 g n d a b => some (aluFdot2.toIns, (twinDABC g n d a b))
  | .fdot2Extended x => some (aluFdot2.toIns, x)
  | .ld g n d a i => some ((insLd [0, 1]), (twinDAI g n d a i))
  | .ldExtended x => some ((insLd [0, 1]), x)
  | .st g n d a i => some (insSt, (twinDAIC g n d a i))
  | .stExtended x => some (insSt, x)
  | .ldc g n d a i => some ((insLd [0]), (twinDAI g n d a i))
  | .ldcExtended x => some ((insLd [0]), x)
  | .iaddc x => some (aluIaddc.toIns, x)
  | .isubb x => some (aluIsubb.toIns, x)
  | .imadw x => some (aluImadw.toIns, x)
  | .lop3 x => some (aluLop3.toIns, x)
  | .icmp x => some (aluIcmp.toIns, x)
  | .isel x => some (aluIsel.toIns, x)
  | .ptag x => some (aluPtag.toIns, x)
  | .pspace x => some (aluPspace.toIns, x)
  | .plop3 x => some (aluPlop3.toIns, x)
  | .psetb x => some (insPsetb, x)
  | .pgetb x => some (aluPgetb.toIns, x)
  | .pmov x => some (aluPmov.toIns, x)
  | .brx x => some (insBrx, x)
  | .callx x => some (insCallx, x)
  | .spawn x => some (insSpawn, x)
  | .sleep x => some (insSleep, x)
  | .brk x => some (insNop, x)
  | .trap x => some (insNop, x)
  | .fcmp x => some (aluFcmp.toIns, x)
  | .fclass x => some (aluFclass.toIns, x)
  | .fexp x => some (aluFexp.toIns, x)
  | .fmant x => some (aluFmant.toIns, x)
  | .hmnx2 x => some (aluHmnx2.toIns, x)
  | .fcvt x => some (aluFcvt.toIns, x)
  | .unpk x => some (aluUnpk.toIns, x)
  | .pack x => some (aluPack.toIns, x)
  | .shfl x => some (insShfl, x)
  | .vote x => some (insVote, x)
  | .sqred x => some (insRed, x)
  | .sqscan x => some (insRed, x)
  | .matchSq x => some (insMatch, x)
  | .atom x => some ((insAtom true), x)
  | .red x => some ((insAtom false), x)
  | .atomf x => some (insAtomf, x)
  | .atomfx x => some (insAtomfx, x)
  | .fence x => some (insFence, x)
  | .fencep x => some (insFencep, x)
  | .ldfe x => some (insLdfe, x)
  | .stfe x => some (insStfe, x)
  | .fezap x => some (insFezap, x)
  | .feprb x => some (insFeprb, x)
  | .barInit x => some ((insBar false), x)
  | .barArv x => some ((insBar false), x)
  | .barExp x => some ((insBar false), x)
  | .barWait x => some ((insBar false), x)
  | .barTest x => some ((insBar true), x)
  | .cpy x => some (insCpy, x)
  | .cpywait x => some (insCpywait, x)
  | .cpytest x => some (insCpytest, x)
  | .tcpy x => some (insTcpy, x)
  | .tcpyc x => some (insTcpyc, x)
  | .pfx x => some (insPfx, x)
  | .cont x => some (insCont, x)
  | .gang x => some (insGang, x)
  | .mma x => some (insMma, x)
  | .aclr x => some (insAclr, x)
  | .ald x => some ((insAld false), x)
  | .ast x => some ((insAld true), x)
  | .aldFrag x => some (insFrag, x)
  | .astFrag x => some (insFrag, x)
  | .acvt x => some (insAcvt, x)
  | .ascl x => some (insAscl, x)
  | .plan x => some (insPlan, x)
  | .await x => some (insAwait, x)
  | .awaitTest x => some (insAwait, x)
  | .mvtx x => some (insMvtx, x)
  | .mprim x => some (insMprim, x)
  | .mend x => some (insMend, x)
  | .attr x => some (insAttr, x)
  | .pxdisc x => some (insPxdisc, x)
  | .kbins x => some (insKbins, x)
  | .omst x => some (insOmst, x)
  | .omld x => some (insOmld, x)
  | .smp x => some (insSmp, x)
  | .tld x => some (insTld, x)
  | .trace x => some (insTrace, x)
  | .trcont x => some (insTrcont, x)
  | .sysrd x => some (insSysrd, x)
  | .syswr x => some (insSyswr, x)
  | .tretRetry x => some (insTret, x)
  | .tretSkip x => some (insTret, x)
  | .tretAt x => some (insTretAt, x)
  | .tretKill x => some (insTret, x)
  | .tmaskCrit x => some ((insTmask false), x)
  | .tmaskEnd x => some ((insTmask true), x)
  | .cachex x => some (insPriv, x)
  | .mtuinvInv x => some ((insMtuinv false), x)
  | .mtuinvRel x => some ((insMtuinv true), x)
  | .frmput x => some (insFrmput, x)
  | .wgctlYield x => some (insWgctlYield, x)
  | .wgctlSetpc x => some (insWgctlSetpc, x)
  | .wgctlKill x => some (insWgctlKill, x)
  | .rfetch _ _ _ => none
  | .bfxt _ _ _ => none
  | .swait _ _ => none
  | .dspch _ _ _ => none
  | .fragmentTransfer => none
  | .matrixOpStart => none
  | .matrixStepComplete => none
  | .issueCycle => none
  | .collectionClose => none
  | .regroupMoveComplete => none
  | .loadResultLands => none
  | .specialFunctionResultLands => none
  | .sampleLands => none
  | .texelLands => none
  | .traversalRecordLands => none
  | .mergerAccessPerformed => none
  | .homeRequest => none
  | .waitRecheckTimeout => none
  | .sleepExpiry => none
  | .criticalRegionTimeout => none
  | .l1LineExpiry => none
  | .cpyLanding => none
  | .copyUnitComplete => none
  | .tcpycCommit => none
  | .haltComplete => none
  | .freezeComplete => none
  | .asyncTrapTaken => none
  | .preemptRequest => none
  | .saveComplete => none
  | .schedulingStep => none
  | .spinWindowExpiry => none
  | .faultSwapThreshold => none
  | .workgroupRetire => none
  | .poolRecordArrival => none
  | .binAgeLimit => none
  | .poolWorkgroupForm => none
  | .primitiveSetup => none
  | .pixelLaunchTimeout => none
  | .passEnd => none
  | .tagRetireBatch => none
  | .tagRetirementReceive => none
  | .tagPinRelease => none
  | .tagQuotaStop => none
  | .tagQuotaGo => none
  | .mtuWalk => none
  | .pageFillComplete => none
  | .episodeRelease => none
  | .laneRecordHandover => none
  | .cairnBatchWindow => none
  | .cairnRingWrite => none
  | .hwTimeout => none
  | .doorbell => none
  | .launch => none
  | .poolLaunch => none
  | .renderPassOpen => none
  | .renderPassClose => none
  | .drawMesh => none
  | .copy => none
  | .waitPacket => none
  | .waitWatchRecheck => none
  | .waitWatchTimeout => none
  | .signal => none
  | .link => none
  | .fencePacket => none
  | .partitionSet => none
  | .packetComplete => none
  | .equinoxReport => none
  | .equinoxGo => none
  | .equinoxAbort => none
  | .equinoxTimeout => none
  | .dbgreqHalt => none
  | .dbgreqContinue => none
  | .dbgreqConvert => none
  | .dbgreqKill => none
  | .registerWrite => none
  | .mrExtend => none
  | .swaitTimeout => none
  | .rinsarHubTimeout => none
  | .rds => none
  | .rdx => none
  | .upg => none
  | .wb => none
  | .snps => none
  | .snpi => none
  | .rsp => none
  | .go => none
  | .goack => none
  | .peerFlitReceive => none
  | .cxlPortLinkDown => none
  | .displayGuardTime => none
  | .headEnablePoll => none
  | .image => none
  | .boot => none
  | .status => none
  | .attest => none
  | .moduleReset => none
  | .powerSample => none
  | .d3hotEntry => none
  | .d3hotExit => none
  | .d3coldEntry => none
  | .coreIdleGate => none
  | .sramScrub => none
  | .auxPowerLoss => none
  | .peerLinkTrained => none
  | .downstreamPortLinkUp => none
  | .freeListGetAdvance => none
  | .equinoxPacketReceive => none

/-! ## One fibre executes an instruction -/

/-- The rope that stands first is the one live fibre `k` of work-group `w`; nothing written waits. -/
structure Sole (s : State) (rest : List Rope) (w k : Nat) (g : WG) (f : Fib) (l : Launch) : Prop where
  rope : ∃ c q, s.d.ropes = { core := c, quad := q, fibs := [(w, k)] } :: rest
  wg : s.d.wg? w = some g
  fib : g.fib? k = some f
  launch : s.d.launch? g.launch = some l
  live : f.live = true
  quiet : s.d.wb = []

/-- The checks of steps 3 to 6 of R154 pass, the guard predicate is not pending and the guard holds, and no word or predicate that
the instruction uses is empty or pending (step 8). -/
structure Acts (i : Instr) (p : Ins) (x : X) (s : State) (g : WG) (f : Fib) (l : Launch) : Prop where
  form : form i = some (p, x)
  checks : p.check (lvOf s.d g f l) x ((encode i).headD 0#32) = none
  settled : f.hnd = true ∨ f.pend.contains x.pg.toNat = false
  guard : (f.pred x.pg.toNat != x.pn) = true
  full : p.gate (lvOf s.d g f l) true f x = .pass

/-- The device once its first rope is taken up: the instruction has taken a number. -/
def Dev.popped (d : Dev) (rest : List Rope) : Dev := { d with ropes := rest, nextId := d.nextId + 1 }

/-- The state after an instruction of fibre `k` of work-group `w` whose only effect is on that fibre, which becomes `f`: clock,
memory and everything else stand. -/
def State.withFib (s : State) (rest : List Rope) (w k : Nat) (f : Fib) : State :=
  { s with d := (s.d.popped rest).modFib w k fun _ => f }

/-- The instruction as fibre `k` of work-group `w` executes it. -/
def cxOf (i : Instr) (x : X) (s : State) (w k : Nat) (f : Fib) : Cx :=
  { now := s.clock, x := x, w0 := (encode i).headD 0#32, wg := w, fi := k, grp := s.d.nextId, guard := true, f0 := f }

/-- The fibre once its issue has counted. -/
def issuedFib (g : WG) (f : Fib) : Fib := f.issued g.skids

/-! ## One fibre's instruction, said once -/

/-- What goes with fibre `k` of work-group `w` when it alone executes an instruction of form `x`: the remaining ropes, its
work-group, itself and its launch. -/
structure Run where
  rest : List Rope
  w : Nat
  k : Nat
  g : WG
  f : Fib
  l : Launch

/-- That fibre executes instruction `i`, and every check up to step 8 of R154 passes. -/
def Run.Of (r : Run) (i : Instr) (x : X) (s : State) : Prop :=
  Sole s r.rest r.w r.k r.g r.f r.l ∧ ∃ p, Acts i p x s r.g r.f r.l

/-- The fibre once the issue has counted, at the next instruction. -/
def Run.next (r : Run) (x : X) (s : State) : Fib := (issuedFib r.g r.f).advance s.clock x.len

/-- The device, and the work-group, as the instruction's own effect finds them: the issue has counted. -/
def Run.dev (r : Run) (s : State) : Dev := (s.d.popped r.rest).modFib r.w r.k fun _ => issuedFib r.g r.f

def Run.wg (r : Run) : WG := r.g.modFib r.k fun _ => issuedFib r.g r.f

/-- The number of the instruction: the one that the tag rules held its fibre at, if any. -/
def Run.num (r : Run) (s : State) : Nat := if r.f.tagGrp ≠ 0 then r.f.tagGrp else s.d.nextId

/-- The instruction changes its fibre to `f`, and nothing else. -/
def Run.Goes (r : Run) (i : Instr) (s : State) (f : Fib) : Prop := exec i s = .next (s.withFib r.rest r.w r.k f)

/-- The instruction changes the device as `c` says, and its fibre to `f`. -/
def Run.Does (r : Run) (i : Instr) (s : State) (f : Fib) (c : Dev → Dev) : Prop :=
  exec i s = .next { s with d := (c (s.d.popped r.rest)).modFib r.w r.k fun _ => f }

/-- The fibre blocks at its instruction: it has not issued, and nothing else changes. -/
def Run.Blocks (r : Run) (i : Instr) (s : State) (c : Wait) : Prop :=
  r.Goes i s { r.f with started := true, wait := c, cand := false }

/-- The tag rules do not let a tagged operation issue now, toward the home of an address or, with none, elsewhere. -/
def Run.tagBlocked (r : Run) (s : State) (ia : Option Nat) : Bool :=
  (r.dev s).tagBlocked r.wg r.k (issuedFib r.g r.f) ia (r.num s)

/-- The tag rules hold the fibre at its instruction. -/
def Run.TagHeld (r : Run) (i : Instr) (s : State) (ia : Option Nat) : Prop :=
  r.Goes i s { r.f with started := true, wait := .tagRoom ia, cand := false, tagGrp := r.num s }

/-- The fibre is past its instruction and blocked. -/
def Run.held (r : Run) (x : X) (s : State) (c : Wait) : Fib := { r.next x s with wait := c }

/-- The fibre raises a precise cause at its instruction, which has no effect. -/
def Run.Traps (r : Run) (i : Instr) (s : State) (cause tval : Nat) : Prop :=
  exec i s = .next (s.put (((s.d.popped r.rest).modFib r.w r.k fun _ => { r.f with started := true, cand := false, tagGrp := 0 }).raise
    s.env r.w r.k cause tval))

/-- ILLEGAL_OPERAND, with the instruction's first word in `%tval` (R375). -/
def Run.Illegal (r : Run) (i : Instr) (s : State) : Prop := r.Traps i s cIllegalOperand ((encode i).headD 0#32).toNat

/-- The values a computing instruction reads. -/
def Alu.vals (p : Alu) (x : X) (s : State) (k : Nat) (g : WG) (f : Fib) (l : Launch) : Vals :=
  let f := issuedFib g f
  let g := g.modFib k fun _ => f
  { now := s.clock, lv := lvOf s.d g f l, g := g, f := f, a := srcA s.clock g f x (p.aL (lvOf s.d g f l) x).n,
    b := srcB s.clock g f x (p.bL (lvOf s.d g f l) x).n, c := srcC f x (p.c x).n }

end Sys2Proof.Machine
end

