-- ==== Sys2Proof/Certificates/Slice0/Obligations.lean ====
section
/-! DEFINITION. The statements about the machine, each from the numbered rules of spec/ that its docstring names. Parts and
what they are said with stand in `Sys2Proof.Said`. -/

namespace Sys2Proof.Said
end Sys2Proof.Said

open Sys2Proof Sys2Proof.Machine Sys2Proof.Said

/-! ## What the statements are said with -/

namespace Sys2Proof.Said

/-- `r` narrowed to `w` bits (R170): wrapped, or with SAT clamped to the range of the type, raising SAT where the clamp changed it. -/
def narrowed (w : Nat) (signed sat : Bool) (r : Int) : Nat × Fl :=
  let lo : Int := if signed then -(2 ^ (w - 1) : Nat) else 0
  let hi : Int := if signed then (2 ^ (w - 1) : Nat) - 1 else (2 ^ w : Nat) - 1
  let y := if !sat then r else if r < lo then lo else if r > hi then hi else r
  ((y % (2 ^ w : Nat)).toNat, if sat && (r < lo || r > hi) then flSAT else 0#6)

/-- The instruction, executed by fibre `k` of work-group `w` alone, writes what `o` lists and goes on at the next instruction: the
clock, memory and every other part of the state stand. Where `o` raises a flag that the launch has enabled, it writes no destination and
raises ARITH with FL in `%tval`; its flags are ORed in where the cause becomes the work-group's trap (R71, R376). -/
def Computes (i : Instr) (x : X) (s : State) (rest : List Rope) (w k : Nat) (g : WG) (f : Fib) (l : Launch) (o : FOut) : Prop :=
  (arithTraps l.r.fpen o.fl = false →
    exec i s = .next (s.withFib rest w k (((issuedFib g f).commit x.d.toNat o).advance s.clock x.len))) ∧
  (arithTraps l.r.fpen o.fl = true →
    exec i s = .next (s.put (((s.d.popped rest).modFib w k fun _ => (issuedFib g f).unissue f).arith s.env w k o.fl)))

/-- The type of an instruction with default `t`: its width, and whether it is signed. -/
def widthOf (x : X) (t : Nat) : Nat := tyBits (x.tyOr t)

def signedOf (x : X) (t : Nat) : Bool := tyS (x.tyOr t)

/-- A value of `w` bits as SInt or UInt. -/
def asInt (w : Nat) (signed : Bool) (v : Nat) : Int :=
  if signed && decide (v % 2 ^ w ≥ 2 ^ (w - 1)) then (v % 2 ^ w : Nat) - (2 ^ w : Nat) else (v % 2 ^ w : Nat)

/-- What R170 lists: the extended form, and the exact result of the sources as integers. -/
def intRule (i : Instr) : Option (X × (Int → Int → Int → Int)) :=
  match i with
  | .iadd g n d a b => some (twinDAB g n d a b, fun a b _ => a + b)
  | .iaddExtended x => some (x, fun a b _ => a + b)
  | .isub g n d a b => some (twinDAB g n d a b, fun a b _ => a - b)
  | .isubExtended x => some (x, fun a b _ => a - b)
  | .imul g n d a b => some (twinDAB g n d a b, fun a b _ => a * b)
  | .imulExtended x => some (x, fun a b _ => a * b)
  | .imulh g n d a b => some (twinDAB g n d a b, fun a b _ => (a * b) / (2 ^ 32 : Nat))
  | .imulhExtended x => some (x, fun a b _ => (a * b) / (2 ^ 32 : Nat))
  | .imad g n d a b => some (twinDABC g n d a b, fun a b c => a * b + c)
  | .imadExtended x => some (x, fun a b c => a * b + c)
  | .isad g n d a b => some (twinDABC g n d a b, fun a b c => (if a < b then b - a else a - b) + c)
  | .isadExtended x => some (x, fun a b c => (if a < b then b - a else a - b) + c)
  | .imin g n d a b => some (twinDAB g n d a b, fun a b _ => if b ≤ a then b else a)
  | .iminExtended x => some (x, fun a b _ => if b ≤ a then b else a)
  | .imax g n d a b => some (twinDAB g n d a b, fun a b _ => if a ≤ b then b else a)
  | .imaxExtended x => some (x, fun a b _ => if a ≤ b then b else a)
  | .iabs g n d a => some (twinDA g n d a, fun a _ _ => if a < 0 then -a else a)
  | .iabsExtended x => some (x, fun a _ _ => if a < 0 then -a else a)
  | .ineg g n d a => some (twinDA g n d a, fun a _ _ => -a)
  | .inegExtended x => some (x, fun a _ _ => -a)
  | _ => none

/-- `iadd`, `isub`, `imul`, `imulh`, `imad`, `isad`, `imin`, `imax`, `iabs` and `ineg`, both forms, every type and operand form: D takes
the exact result of R170, narrowed to the type. -/
def IntegerOperations : Prop :=
  ∀ (i : Instr) (p : Ins) (x : X) (fn : Int → Int → Int → Int) (s : State) (rest : List Rope) (w k : Nat) (g : WG) (f : Fib) (l : Launch),
    intRule i = some (x, fn) → Sole s rest w k g f l → Acts i p x s g f l →
    let bits := widthOf x 0x07
    let sg := signedOf x 0x07
    let words := tyWords (x.tyOr 0x07)
    let r := narrowed bits sg x.sat
      (fn (asInt bits sg (srcA s.clock g f x words)) (asInt bits sg (srcB s.clock g f x words)) (asInt bits sg (srcC f x words)))
    Computes i x s rest w k g f l { d := natWords words r.1, fl := r.2 }

/-- What a computing instruction's entry says: its extended form, the words of its sources, and its result, from the fibre (for
predicates) and the values of Src(A), Src(B) and Src(C). -/
structure Rule where
  x : X
  na : Nat
  nb : Nat
  nc : Nat
  out : Fib → Nat → Nat → Nat → FOut

/-- Every instruction of a table computes what the table says (R154, R165, R202). -/
def Holds (table : Instr → Option Rule) : Prop :=
  ∀ (i : Instr) (p : Ins) (r : Rule) (s : State) (rest : List Rope) (w k : Nat) (g : WG) (f : Fib) (l : Launch),
    table i = some r → Sole s rest w k g f l → Acts i p r.x s g f l →
    Computes i r.x s rest w k g f l
      (r.out f (srcA s.clock g f r.x r.na) (srcB s.clock g f r.x r.nb) (srcC f r.x r.nc))

/-- The words of an operand of the type, of default `t`. -/
def wordsOf (x : X) (t : Nat) : Nat := tyWords (x.tyOr t)

/-- `n` words of a number. -/
def wordsOut (n v : Nat) : FOut := { d := natWords n v }

/-! ### R171, R172 -/

/-- The carry-in: predicate C, negated by CN. -/
def carryOf (x : X) (f : Fib) : Int := if (f.pred x.c.toNat != x.mb 23) = true then 1 else 0

def wideRule (i : Instr) : Option Rule :=
  match i with
  | .iaddc x =>
    let w := widthOf x 0x08
    some ⟨x, wordsOf x 0x08, wordsOf x 0x08, 0, fun f a b _ =>
      let t := (a : Int) + b + carryOf x f
      { d := natWords (w / 32) (t % (2 ^ w : Nat)).toNat, ps := [(x.dx.toNat, decide (t ≥ (2 ^ w : Nat)))] }⟩
  | .isubb x =>
    let w := widthOf x 0x08
    some ⟨x, wordsOf x 0x08, wordsOf x 0x08, 0, fun f a b _ =>
      let t := (a : Int) - b - carryOf x f
      { d := natWords (w / 32) (t % (2 ^ w : Nat)).toNat, ps := [(x.dx.toNat, decide (t < 0))] }⟩
  | .imadw x =>
    some ⟨x, 1, 1, 2, fun _ a b c =>
      let sg := signedOf x 0x07
      let r := narrowed 64 sg x.sat (asInt 32 sg a * asInt 32 sg b + asInt 64 sg c)
      { d := natWords 2 r.1, fl := r.2 }⟩
  | _ => none

/-- `iaddc` and `isubb`: the sum or difference with the carry-in, narrowed to the type, and the carry or borrow in DX. `imadw`: the
64-bit product and sum. -/
def CarryAndWideArithmetic : Prop := Holds wideRule

end Sys2Proof.Said

/-- Integer arithmetic: the exact result, narrowed or saturated, with its flags; carries, borrows and wide products: all of the parts above.
(R166, R167, R168, R170, R171, R172.) The model's own choices and readings in it: logs 8, 15. -/
def Obligations.IntegerArithmetic : Prop := IntegerOperations ∧ CarryAndWideArithmetic

/-! ### R173 -/

namespace Sys2Proof.Said

/-- Bit i is bit a_i + 2·b_i + 4·c_i of the truth table. -/
def tableBits (lut w a b c : Nat) : Nat :=
  (List.range w).foldl (fun r i =>
    let j := (if a.testBit i then 1 else 0) + (if b.testBit i then 2 else 0) + (if c.testBit i then 4 else 0)
    if lut.testBit j then r + 2 ^ i else r) 0

def logicRule (i : Instr) : Option Rule :=
  let two (x : X) (lut : Nat) : Option Rule :=
    some ⟨x, wordsOf x 0x09, wordsOf x 0x09, 0, fun _ a b _ => wordsOut (wordsOf x 0x09) (tableBits lut (widthOf x 0x09) a b 0)⟩
  match i with
  | .and g n d a b => two (twinDAB g n d a b) 0x88
  | .andExtended x => two x 0x88
  | .or g n d a b => two (twinDAB g n d a b) 0xEE
  | .orExtended x => two x 0xEE
  | .xor g n d a b => two (twinDAB g n d a b) 0x66
  | .xorExtended x => two x 0x66
  | .lop3 x =>
    some ⟨x, wordsOf x 0x09, wordsOf x 0x09, wordsOf x 0x09, fun _ a b c =>
      wordsOut (wordsOf x 0x09) (tableBits (x.mf 30 23) (widthOf x 0x09) a b c)⟩
  | _ => none

/-- `and`, `or`, `xor` and `lop3`, bit by bit, as the truth tables of R173 have it. -/
def BitwiseLogic : Prop := Holds logicRule

/-! ### R174 -/

def shiftRule (i : Instr) : Option Rule :=
  let count (x : X) (fn : Nat → Nat → Nat → Nat) : Option Rule :=
    some ⟨x, wordsOf x 0x09, 1, 0, fun _ a b _ => wordsOut (wordsOf x 0x09) (fn (widthOf x 0x09) a b % 2 ^ widthOf x 0x09)⟩
  let left (w a c : Nat) : Nat := if c ≥ w then 0 else a * 2 ^ c
  let right (w a c : Nat) : Nat := if c ≥ w then 0 else a / 2 ^ c
  let arith (w a c : Nat) : Nat := (asInt w true a / (2 ^ min c w : Nat) % (2 ^ w : Nat)).toNat
  let rotate (w a c : Nat) : Nat := a * 2 ^ (c % w) + a / 2 ^ (w - c % w)
  match i with
  | .shl g n d a m => count (twinDAI g n d a m) left
  | .shlExtended x => count x left
  | .shr g n d a m => count (twinDAI g n d a m) right
  | .shrExtended x => count x right
  | .sar g n d a m => count (twinDAI g n d a m) arith
  | .sarExtended x => count x arith
  | .rot g n d a m => count (twinDAI g n d a m) rotate
  | .rotExtended x => count x rotate
  | .fsh x => some ⟨x, 1, 1, 1, fun _ a b c => wordsOut 1 ((c * 2 ^ 32 + a) / 2 ^ (b % 32) % 2 ^ 32)⟩
  | _ => none

/-- `shl`, `shr`, `sar`, `rot` and `fsh`: the shifts and rotations of R174, any count. -/
def ShiftsAndRotation : Prop := Holds shiftRule

/-! ### R175 to R177 -/

/-- The number with the bits below `w` for which the test holds. -/
def ofBits (w : Nat) (test : Nat → Bool) : Nat := (List.range w).foldl (fun r i => if test i then r + 2 ^ i else r) 0

/-- Byte `i` that program `g` of `prmt` builds from the bytes of `s`. -/
def builtByte (s g : Nat) : Nat :=
  let y := s / 2 ^ (8 * (g % 8)) % 256
  let z := match g / 8 % 4 with
    | 0 => y
    | 1 => 0
    | 2 => if y.testBit 7 then 0xFF else 0
    | _ => if y.testBit 0 then 0xFF else 0
  if g.testBit 5 then ofBits 8 (fun i => z.testBit (7 - i)) else z

def bitFieldRule (i : Instr) : Option Rule :=
  let stop (b : Nat) : Nat := min (b % 256 + b / 256 % 256) 32
  let bfx (x : X) : Option Rule :=
    some ⟨x, 1, 1, 0, fun _ a b _ =>
      let pos := b % 256
      let u := a / 2 ^ pos % 2 ^ (stop b - pos)
      let v : Int := if pos ≥ 32 || stop b = pos then 0 else if signedOf x 0x07 then asInt (stop b - pos) true u else u
      wordsOut 1 (v % (2 ^ 32 : Nat)).toNat⟩
  let bfi (x : X) : Option Rule :=
    some ⟨x, 1, 1, 1, fun _ a b c =>
      wordsOut 1 (ofBits 32 fun i => if b % 256 ≤ i && i < stop b then a.testBit (i - b % 256) else c.testBit i)⟩
  let one (x : X) (n : Nat) (fn : Nat → Nat → Nat) : Option Rule :=
    some ⟨x, wordsOf x 0x09, 0, 0, fun _ a _ _ => wordsOut n (fn (widthOf x 0x09) a)⟩
  let ones (w a : Nat) : Nat := ((List.range w).filter fun i => a.testBit i).length
  let zeros (w a : Nat) : Nat := ((List.range w).takeWhile fun i => !a.testBit (w - 1 - i)).length
  let turned (w a : Nat) : Nat := ofBits w fun i => a.testBit (w - 1 - i)
  let prmt (x : X) : Option Rule :=
    some ⟨x, 1, 1, 1, fun _ a b c =>
      let s := c * 2 ^ 32 + a
      wordsOut 1 (builtByte s (b % 64) + 2 ^ 8 * builtByte s (b / 2 ^ 6 % 64) + 2 ^ 16 * builtByte s (b / 2 ^ 12 % 64) +
        2 ^ 24 * builtByte s (b / 2 ^ 18 % 64))⟩
  match i with
  | .bfx g n d a b => bfx (twinDAB g n d a b)
  | .bfxExtended x => bfx x
  | .bfi g n d a b => bfi (twinDABC g n d a b)
  | .bfiExtended x => bfi x
  | .popc g n d a => one (twinDA g n d a) 1 ones
  | .popcExtended x => one x 1 ones
  | .clz g n d a => one (twinDA g n d a) 1 zeros
  | .clzExtended x => one x 1 zeros
  | .brev g n d a => one (twinDA g n d a) 1 turned
  | .brevExtended x => one x (wordsOf x 0x09) turned
  | .prmt g n d a b => prmt (twinDABC g n d a b)
  | .prmtExtended x => prmt x
  | _ => none

/-- `bfx`, `bfi`, `popc`, `clz`, `brev` and `prmt`. -/
def FieldsCountsAndBytes : Prop := Holds bitFieldRule

end Sys2Proof.Said

/-- Bitwise logic, shifts, rotation, bit fields, counts and byte selection: all of the parts above. (R173, R174, R175, R176, R177.) The
model's own choices and readings in it: logs 8, 15. -/
def Obligations.LogicAndShifts : Prop := BitwiseLogic ∧ ShiftsAndRotation ∧ FieldsCountsAndBytes

/-! ### R178 to R188 -/

namespace Sys2Proof.Said

/-- A comparison's result joined with a predicate by BOP. -/
def joined (op : Nat) (t p : Bool) : Bool := if op = 0 then t else if op = 1 then t && p else if op = 2 then t || p else t != p

/-- The relation of a CMP code. -/
def related (c : Nat) (a b : Int) : Bool :=
  if c = 0 then a = b else if c = 1 then !(a = b : Bool) else if c = 2 then a < b else if c = 3 then !(b < a : Bool)
  else if c = 4 then b < a else !(a < b : Bool)

/-- A predicate, and with WD its mask word. -/
def flagOut (x : X) (t : Bool) (fl : Fl) : FOut :=
  { d := if x.mb 28 then [if t then 0xFFFFFFFF#32 else 0#32] else [], ps := [(x.dx.toNat, t)], fl := fl }

def selectRule (i : Instr) : Option Rule :=
  match i with
  | .icmp x =>
    let w := widthOf x 0x07
    let sg := signedOf x 0x07
    some ⟨x, wordsOf x 0x07, wordsOf x 0x07, 0, fun f a b _ =>
      flagOut x (joined (x.mf 27 26) (related (x.mf 25 23) (asInt w sg a) (asInt w sg b)) (f.pred x.c.toNat)) 0#6⟩
  | .isel x =>
    some ⟨x, wordsOf x 0x09, wordsOf x 0x09, 0, fun f a b _ => wordsOut (wordsOf x 0x09) (if f.pred x.c.toNat then a else b)⟩
  | .plop3 x =>
    some ⟨x, 0, 0, 0, fun f _ _ _ =>
      { ps := [(x.dx.toNat, (x.mf 30 23).testBit ((if f.pred x.a.toNat then 1 else 0) + (if f.pred x.b.toNat then 2 else 0) +
          if f.pred x.c.toNat then 4 else 0))] }⟩
  | .pmov x => some ⟨x, 0, 0, 0, fun f _ _ _ => { ps := [(x.dx.toNat, f.pred x.a.toNat != x.mb 23)] }⟩
  | .pgetb x => some ⟨x, 0, 0, 0, fun f _ _ _ => wordsOut 1 (ofBits 32 f.pred)⟩
  | _ => none

/-- `icmp`, `isel`, `plop3`, `pmov` and `pgetb`. -/
def ComparesAndPredicates : Prop := Holds selectRule

def moveRule (i : Instr) : Option Rule :=
  let lea (x : X) : Option Rule :=
    some ⟨x, 2, 1, 0, fun _ a b _ =>
      let off : Int := (if x.mb 26 then (b : Int) else asInt 32 true b) * (2 ^ x.mf 25 23 : Nat)
      wordsOut 2 (a / 2 ^ 60 % 16 * 2 ^ 60 + (((a % 2 ^ 60 : Nat) + off) % (2 ^ 60 : Nat)).toNat)⟩
  match i with
  | .mov g n d a => some ⟨twinDA g n d a, 1, 0, 0, fun _ a _ _ => wordsOut 1 a⟩
  | .movExtended x => some ⟨x, wordsOf x 0x09, 0, 0, fun _ a _ _ => wordsOut (wordsOf x 0x09) a⟩
  | .movi g n d m => some ⟨twinDAI g n d 0#7 m, 0, 1, 0, fun _ _ _ _ => wordsOut 1 m.toNat⟩
  | .moviExtended x => some ⟨x, 0, wordsOf x 0x09, 0, fun _ _ b _ => wordsOut (wordsOf x 0x09) b⟩
  | .movk g n d k => some ⟨{ twinDA g n d 0#7 with b := k.setWidth 8, bk := true }, 0, 1, 0, fun _ _ b _ => wordsOut 1 b⟩
  | .movkExtended x => some ⟨x, 0, 1, 0, fun _ _ b _ => wordsOut 1 b⟩
  | .lea g n d a b => lea (twinDAB g n d a b)
  | .leaExtended x => lea x
  | .ptag x =>
    some ⟨x, 2, 1, 0, fun _ a b _ =>
      wordsOut 2 (if x.mf 24 23 = 0 then b % 16 * 2 ^ 60 + a % 2 ^ 60 else a / 2 ^ 60 * 2 ^ 60 + b % 256 * 2 ^ 52 + a % 2 ^ 52)⟩
  | .pspace x =>
    some ⟨x, 2, 0, 0, fun _ a _ _ =>
      let zeroUpTo (top lo : Nat) : Bool := a / 2 ^ lo % 2 ^ (top + 1 - lo) = 0
      let shaped : Bool :=
        match a / 2 ^ 60 % 16 with
        | 0 => a / 2 ^ 56 % 16 = 0 || a / 2 ^ 56 % 16 = 15
        | 1 => zeroUpTo 51 22
        | 2 => zeroUpTo 59 21
        | 3 => zeroUpTo 59 32
        | 4 => zeroUpTo 59 32
        | _ => false
      { d := natWords 1 (if x.mf 24 23 = 0 then a / 2 ^ 60 % 16 else a / 2 ^ 52 % 256), ps := [(x.dx.toNat, shaped)] }⟩
  | _ => none

/-- `mov`, `movi`, `movk`, `lea`, `ptag` and `pspace`. -/
def MovesAndPointers : Prop := Holds moveRule

end Sys2Proof.Said

/-- Compares, selects, predicate operations, moves and pointer operations: all of the parts above. (R178, R179, R180, R181, R182, R185,
R186, R187, R188.) The model's own choices and readings in it: logs 8, 15. -/
def Obligations.ComparesAndMoves : Prop := ComparesAndPredicates ∧ MovesAndPointers

/-! ### R205 to R211 -/

namespace Sys2Proof.Said

/-- The result of an FP instruction on the operands `vs` (R86, R89, R206): the canonical NaN for a NaN operand or an invalid operation,
an infinity where `inf` names one, else the exact number `x` rounded once; `zneg` is the sign of an exact zero. -/
def fpDone (t : FFmt) (m : Rm) (sat : Bool) (vs : List FV) (invalid : Bool) (inf : Option Bool) (zneg : Bool) (x : Q) : Nat × Fl :=
  let r : Nat × Fl :=
    if vs.any FV.isNaN || invalid then (t.cnan, 0#6)
    else match inf with
      | some neg => infTo t sat neg
      | none => roundQ t m sat zneg x
  (r.1, r.2 ||| if invalid || vs.any FV.isSNaN then flNV else 0#6)

/-- The sign that an exact zero sum of two terms takes (R89). -/
def zeroSum (m : Rm) (xzero xneg yzero yneg : Bool) : Bool :=
  if xzero && yzero && (xneg == yneg) then xneg else decide (m.code = 3)

/-- An infinite operand's sign. -/
def infOf : FV → Option Bool
  | .inf n => some n
  | _ => none

def addDone (t : FFmt) (m : Rm) (sat : Bool) (a b : FV) (vs : List FV) (invalid : Bool) : Nat × Fl :=
  fpDone t m sat vs (invalid || (a.isInf && b.isInf && !a.isNaN && !b.isNaN && (a.isNeg != b.isNeg)))
    (if a.isInf then some a.isNeg else infOf b) (zeroSum m a.isZero a.isNeg b.isZero b.isNeg) (a.q.add b.q)

/-- The value with its sign changed. -/
def negated : FV → FV
  | .nan s => .nan s
  | .inf n => .inf !n
  | .fin n m e => .fin (!n) m e

/-- 0 times infinity. -/
def zeroTimesInf (a b : FV) : Bool := (a.isZero && b.isInf) || (a.isInf && b.isZero)

def mulDone (t : FFmt) (m : Rm) (sat : Bool) (a b : FV) : Nat × Fl :=
  fpDone t m sat [a, b] (zeroTimesInf a b) (if a.isInf || b.isInf then some (a.isNeg != b.isNeg) else none) (a.isNeg != b.isNeg)
    (a.q.mul b.q)

/-- a · b + c, rounded once. -/
def fmaDone (t : FFmt) (m : Rm) (sat : Bool) (a b c : FV) : Nat × Fl :=
  let neg := a.isNeg != b.isNeg
  let pinf := a.isInf || b.isInf
  let invalid := zeroTimesInf a b || (!a.isNaN && !b.isNaN && pinf && c.isInf && (neg != c.isNeg))
  fpDone t m sat [a, b, c] invalid (if pinf then some neg else infOf c)
    (zeroSum m (a.isZero || b.isZero) neg c.isZero c.isNeg) ((a.q.mul b.q).add c.q)

/-- The lesser or the greater operand, bit for bit (R207). -/
def minMaxDone (t : FFmt) (greater : Bool) (a b : Nat) : Nat × Fl :=
  let u := t.val a
  let v := t.val b
  let below (p q : FV) : Bool := if p.isZero && q.isZero then p.isNeg && !q.isNeg else fpLt p q
  (if u.isNaN && v.isNaN then t.cnan else if u.isNaN then b else if v.isNaN then a
   else if (if greater then below u v else below v u) then b else a,
   if u.isSNaN || v.isSNaN then flNV else 0#6)

def resultOf (r : Nat × Fl) : FOut := { d := natWords 1 r.1, fl := r.2 }

/-- The rounding mode of the MOD word. -/
def modeOf (x : X) : Rm := { code := x.rnd }

def fpRule (i : Instr) : Option Rule :=
  let v (a : Nat) : FV := fF32.val a
  let two (x : X) (fn : Rm → Bool → Nat → Nat → Nat × Fl) : Option Rule :=
    some ⟨x, 1, 1, 0, fun _ a b _ => resultOf (fn (modeOf x) x.sat a b)⟩
  let add (m : Rm) (sat : Bool) (a b : Nat) : Nat × Fl := addDone fF32 m sat (v a) (v b) [v a, v b] false
  let sub (m : Rm) (sat : Bool) (a b : Nat) : Nat × Fl := addDone fF32 m sat (v a) (negated (v b)) [v a, v b] false
  let mul (m : Rm) (sat : Bool) (a b : Nat) : Nat × Fl := mulDone fF32 m sat (v a) (v b)
  let least (_ : Rm) (_ : Bool) (a b : Nat) : Nat × Fl := minMaxDone fF32 false a b
  let greatest (_ : Rm) (_ : Bool) (a b : Nat) : Nat × Fl := minMaxDone fF32 true a b
  let scaled (m : Rm) (sat : Bool) (a b : Nat) : Nat × Fl := fpScale m sat (v a) (asInt 32 true b)
  let fma (x : X) : Option Rule :=
    some ⟨x, 1, 1, 1, fun _ a b c => resultOf (fmaDone fF32 (modeOf x) x.sat (v a) (v b) (v c))⟩
  let rounded (x : X) : Option Rule := some ⟨x, 1, 0, 0, fun _ a _ _ => resultOf (fpRound (modeOf x) a)⟩
  match i with
  | .fadd g n d a b => two (twinDAB g n d a b) add
  | .faddExtended x => two x add
  | .fsub g n d a b => two (twinDAB g n d a b) sub
  | .fsubExtended x => two x sub
  | .fmul g n d a b => two (twinDAB g n d a b) mul
  | .fmulExtended x => two x mul
  | .ffma g n d a b => fma (twinDABC g n d a b)
  | .ffmaExtended x => fma x
  | .fmin g n d a b => two (twinDAB g n d a b) least
  | .fminExtended x => two x least
  | .fmax g n d a b => two (twinDAB g n d a b) greatest
  | .fmaxExtended x => two x greatest
  | .fscale g n d a b => two (twinDAB g n d a b) scaled
  | .fscaleExtended x => two x scaled
  | .frnd g n d a => rounded (twinDA g n d a)
  | .frndExtended x => rounded x
  | _ => none

/-- `fadd`, `fsub`, `fmul`, `ffma`, `fscale`, `fmin`, `fmax` and `frnd`: the exact result rounded once, the special operands of R206 and
R207, and the flags. -/
def FloatingPointArithmetic : Prop := Holds fpRule

/-- What a comparison finds: whether the pair is unordered, or the first operand is less, equal or greater (+0 equals −0). -/
def fpRelated (c : Nat) (a b : FV) : Bool :=
  let zeros := a.isZero && b.isZero
  let lt := !zeros && fpLt a b
  let gt := !zeros && fpLt b a
  if c = 0 then !lt && !gt else if c = 1 then lt || gt else if c = 2 then lt else if c = 3 then lt || (!lt && !gt)
  else if c = 4 then gt else gt || (!lt && !gt)

def classRule (i : Instr) : Option Rule :=
  let v (a : Nat) : FV := fF32.val a
  let classBit (a : Nat) : Nat :=
    let e := a / 2 ^ 23 % 256
    let m := a % 2 ^ 23
    let neg := a.testBit 31
    if e = 255 && m ≠ 0 then (if a.testBit 22 then 1 else 0)
    else if e = 255 then (if neg then 2 else 9)
    else if e ≠ 0 then (if neg then 3 else 8)
    else if m ≠ 0 then (if neg then 4 else 7)
    else if neg then 5 else 6
  match i with
  | .fcmp x =>
    some ⟨x, 1, 1, 0, fun f a b _ =>
      let c := x.mf 26 23
      let un := (v a).isNaN || (v b).isNaN
      let t := if c = 6 then !un else if c = 7 then un else if c ≤ 5 then !un && fpRelated c (v a) (v b) else un || fpRelated (c - 8) (v a) (v b)
      let nv := (v a).isSNaN || (v b).isSNaN || (un && decide (2 ≤ c) && decide (c ≤ 5))
      flagOut x (joined (x.mf 30 29) t (f.pred x.c.toNat)) (if nv then flNV else 0#6)⟩
  | .fclass x =>
    some ⟨x, 1, if x.mb 23 then 1 else 0, 0, fun _ a b _ =>
      if x.mb 23 then { ps := [(x.dx.toNat, b.testBit (classBit a))] } else wordsOut 1 (2 ^ classBit a)⟩
  | .fexp x =>
    some ⟨x, 1, 0, 0, fun _ a _ _ =>
      match v a with
      | .nan _ => resultOf (0x80000000, flNV)
      | .inf _ => resultOf (0x7FFFFFFF, flNV)
      | .fin _ m e => if m = 0 then resultOf (0x80000000, flNV) else resultOf ((((Nat.log2 m : Int) + e) % (2 ^ 32 : Nat)).toNat, 0#6)⟩
  | .fmant x =>
    some ⟨x, 1, 0, 0, fun _ a _ _ =>
      match v a with
      | .nan s => resultOf (fF32.cnan, if s then flNV else 0#6)
      | .inf _ => resultOf (a, 0#6)
      | .fin neg m _ =>
        -- a · 2^(−e): sign, exponent field 127, and the bits below the highest set one
        if m = 0 then resultOf (a, 0#6)
        else resultOf (fF32.encode neg 127 ((m - 2 ^ Nat.log2 m) * 2 ^ (23 - Nat.log2 m)), 0#6)⟩
  | _ => none

/-- `fcmp`, `fclass`, `fexp` and `fmant`. -/
def FloatingPointClasses : Prop := Holds classRule

/-! ### R216, R223, R224 -/

/-- Half `j` of a word. -/
def halfOf (v j : Nat) : Nat := v / 2 ^ (16 * j) % 2 ^ 16

/-- The two halves' results side by side, and the flags of both. -/
def halvesOut (fn : Nat → Nat × Fl) : FOut := { d := natWords 1 ((fn 0).1 + 2 ^ 16 * (fn 1).1), fl := (fn 0).2 ||| (fn 1).2 }

def packedRule (i : Instr) : Option Rule :=
  let tf (x : X) : FFmt := if x.tyOr 0x12 = 0x13 then fBF16 else fF16
  let two (x : X) (fn : FFmt → Nat → Nat → Nat × Fl) : Option Rule :=
    some ⟨x, 1, 1, 0, fun _ a b _ => halvesOut fun j => fn (tf x) (halfOf a j) (halfOf b j)⟩
  let add (x : X) (t : FFmt) (a b : Nat) : Nat × Fl := addDone t (modeOf x) x.sat (t.val a) (t.val b) [t.val a, t.val b] false
  let mul (x : X) (t : FFmt) (a b : Nat) : Nat × Fl := mulDone t (modeOf x) x.sat (t.val a) (t.val b)
  let fma (t : FFmt) (x : X) : Option Rule :=
    some ⟨x, 1, 1, 1, fun _ a b c =>
      halvesOut fun j => fmaDone t (modeOf x) x.sat (t.val (halfOf a j)) (t.val (halfOf b j)) (t.val (halfOf c j))⟩
  let dot2 (x : X) : Option Rule :=
    some ⟨x, 1, 1, 1, fun _ a b c =>
      let u (j : Nat) : FV := (tf x).val (halfOf a j)
      let v (j : Nat) : FV := (tf x).val (halfOf b j)
      let p (j : Nat) : Term × Bool := mulTerm (u j) (v j)
      let r := sumTo fF32 (modeOf x) x.sat [(p 0).1, (p 1).1, (fF32.val c).term]
      resultOf (r.1, r.2 ||| if (p 0).2 || (p 1).2 || [u 0, u 1, v 0, v 1, fF32.val c].any FV.isSNaN then flNV else 0#6)⟩
  let dot4 (x : X) : Option Rule :=
    some ⟨x, 1, 1, 1, fun _ a b c =>
      let both := x.mb 23 && x.mb 24
      let e (j : Nat) : Int := asInt 8 (!x.mb 23) (a / 2 ^ (8 * j)) * asInt 8 (!x.mb 24) (b / 2 ^ (8 * j))
      resultOf (narrowed 32 (!both) x.sat (asInt 32 (!both) c + e 0 + e 1 + e 2 + e 3))⟩
  match i with
  | .hadd2 g n d a b => two (twinDAB g n d a b) (add (twinDAB g n d a b))
  | .hadd2Extended x => two x (add x)
  | .hmul2 g n d a b => two (twinDAB g n d a b) (mul (twinDAB g n d a b))
  | .hmul2Extended x => two x (mul x)
  | .hfma2 g n d a b => fma fF16 (twinDABC g n d a b)
  | .hfma2Extended x => fma fF16 x
  | .bfma2 g n d a b => fma fBF16 (twinDABC g n d a b)
  | .bfma2Extended x => fma fBF16 x
  | .hmnx2 x => two x fun t a b => minMaxDone t (x.mb 23) a b
  | .fdot2 g n d a b => dot2 (twinDABC g n d a b)
  | .fdot2Extended x => dot2 x
  | .idot4 g n d a b => dot4 (twinDABC g n d a b)
  | .idot4Extended x => dot4 x
  | _ => none

/-- `hadd2`, `hmul2`, `hfma2`, `bfma2` and `hmnx2` per half; `fdot2` and `idot4`. -/
def PackedHalvesAndDotProducts : Prop := Holds packedRule

end Sys2Proof.Said

/-- FP32 arithmetic, compares and classes, packed halves and dot products: all of the parts above. (R89, R99, R100, R205, R206, R207, R208,
R209, R210, R211, R216, R223.) The model's own choices and readings in it: logs 15, 17, 45, 46. -/
def Obligations.FloatingPoint : Prop := FloatingPointArithmetic ∧ FloatingPointClasses ∧ PackedHalvesAndDotProducts

/-! ### R217 to R222 -/

namespace Sys2Proof.Said

/-- The format of a code of DF and SF3. -/
def srcFmt (c : Nat) : FFmt := if c = 1 then fF19 else if c = 2 then fF16 else if c = 3 then fBF16 else fF32

/-- The format of a TY or SF code 0x10 to 0x16. -/
def tyFmt (c : Nat) : FFmt :=
  if c = 0x11 then fF19 else if c = 0x12 then fF16 else if c = 0x13 then fBF16 else if c = 0x14 then fE4M3 else if c = 0x15 then fE5M2
  else if c = 0x16 then fE2M1 else fF32

/-- A finite value, an infinity or a NaN as an integer of `w` bits (R87). -/
def intDone (w : Nat) (sg : Bool) (m : Rm) (v : FV) : Int × Fl :=
  let lo : Int := if sg then -(2 ^ (w - 1) : Nat) else 0
  let hi : Int := if sg then (2 ^ (w - 1) : Nat) - 1 else (2 ^ w : Nat) - 1
  match v with
  | .nan _ => (0, flNV)
  | .inf neg => (if neg then lo else hi, flNV)
  | .fin .. =>
    let r := roundInt m v.q
    if r.1 < lo then (lo, flNV) else if r.1 > hi then (hi, flNV) else (r.1, if r.2 then flNX else 0#6)

def convertRule (i : Instr) : Option Rule :=
  let toF (x : X) : Option Rule :=
    some ⟨x, wordsOf x 0x07, 0, 0, fun _ a _ _ =>
      resultOf (roundQ (srcFmt (x.mf 25 23)) (modeOf x) x.sat false (Q.ofInt (asInt (widthOf x 0x07) (signedOf x 0x07) a)))⟩
  let toI (x : X) : Option Rule :=
    some ⟨x, 1, 0, 0, fun _ a _ _ =>
      let t := srcFmt (x.mf 25 23)
      let r := intDone (widthOf x 0x07) (signedOf x 0x07) (modeOf x) (t.val (a % 2 ^ (t.low + t.width)))
      { d := natWords (wordsOf x 0x07) (r.1 % (2 ^ (32 * wordsOf x 0x07) : Nat)).toNat, fl := r.2 }⟩
  match i with
  | .icvtf g n d a => toF (twinDA g n d a)
  | .icvtfExtended x => toF x
  | .fcvti g n d a => toI (twinDA g n d a)
  | .fcvtiExtended x => toI x
  | .fcvt x =>
    some ⟨x, 1, 0, 0, fun _ a _ _ =>
      let s := tyFmt (if x.mf 27 23 = 0 then 0x10 else x.mf 27 23)
      let v := s.val (a % 2 ^ (s.low + s.width))
      let t := tyFmt (x.tyOr 0x10)
      resultOf (match v with
        | .nan sg => (t.cnan, if sg || decide (t.kind = .plain) then flNV else 0#6)
        | .inf neg => infTo t x.sat neg
        | .fin neg _ _ => roundQ t (modeOf x) x.sat neg v.q)⟩
  | _ => none

/-- `icvtf`, `fcvti` and `fcvt`. -/
def FormatConversions : Prop := Holds convertRule

/-- `pack` and `unpk`, with the narrow format of NF or of a format slot. -/
def PackAndUnpack : Prop :=
  ∀ (i : Instr) (p : Ins) (x : X) (s : State) (rest : List Rope) (w k : Nat) (g : WG) (f : Fib) (l : Launch),
    Sole s rest w k g f l → Acts i p x s g f l →
    let slot := l.r.fmt.getD x.slot 0#32
    let t : EFmt := if x.mb 31 then slE slot else .fp (fmtF (x.mf 27 23))
    (i = .pack x →
      let m := if x.mb 31 then slRnd slot else x.rnd
      let sat := if x.mb 31 then slSat slot else x.sat
      let b := srcB s.clock g f x (if m = 5 then 1 else 0)
      let el (j : Nat) : Nat × Fl :=
        t.round { code := m, bits := b / 2 ^ (t.random * j) % 2 ^ t.random, n := t.random } sat (fF32.val (srcA s.clock g f x t.count / 2 ^ (32 * j) % 2 ^ 32))
      Computes i x s rest w k g f l
        { d := natWords 1 ((List.range t.count).foldl (fun v j => v + (el j).1 * 2 ^ (t.bits * j)) 0)
          fl := (List.range t.count).foldl (fun v j => v ||| (el j).2) 0#6 }) ∧
    (i = .unpk x →
      ∀ q, t = .fp q →
        let a := srcA s.clock g f x 1
        let n := if q.width = 4 then 8 else 4
        let el (j : Nat) : Nat := (cvtF fE4M3 rne false (q.val (a / 2 ^ (q.width * j) % 2 ^ q.width))).1
        Computes i x s rest w k g f l { d := natWords (n / 4) ((List.range n).foldl (fun v j => v + el j * 256 ^ j) 0) })

end Sys2Proof.Said

/-- Conversions between integers and formats, pack and unpk: all of the parts above. (R86, R87, R88, R217, R218, R219, R220, R221, R222.)
The model's own choices and readings in it: logs 15, 16, 46. -/
def Obligations.Conversions : Prop := FormatConversions ∧ PackAndUnpack

/-! ### R197, R198, R201: idle forms and traps -/

namespace Sys2Proof.Said

/-- `nop` only goes on. `yield` does, and enters the tail of its quadrant's queue. -/
def IdleForms : Prop :=
  ∀ (i : Instr) (x : X) (s : State) (r : Run), r.Of i x s →
    ((i = .nopExtended x ∨ ∃ g n, i = .nop g n ∧ x = twin g n) → r.Goes i s (r.next x s)) ∧
    ((i = .yieldExtended x ∨ ∃ g n, i = .yield g n ∧ x = twin g n) → r.Goes i s { r.next x s with order := 1 }) ∧
    (i = .sleep x →
      let n := srcB s.clock r.g r.f x 1
      (n = 0 → r.Goes i s (r.next x s)) ∧ (n ≠ 0 → r.Goes i s (r.held x s (.sleep (s.clock + n))))) ∧
    (i = .brk x → r.Traps i s cBreak (x.m.toNat % 2 ^ 16)) ∧
    (i = .trap x → r.Traps i s cSoftware (x.m.toNat % 2 ^ 16))

/-! ### R189 to R191: branches -/

/-- Where a branch goes, whether R189 checks the target, and its link word's place. -/
structure Jump where
  x : X
  dest : State → Run → Nat
  checked : Bool
  link : Option Nat

/-- PC + 4·o, modulo 2^64. -/
def relative (o : Int) (r : Run) : Nat := (((r.f.pc.toNat : Int) + 4 * o) % (2 ^ 64 : Nat)).toNat

def branchRule (i : Instr) : Option Jump :=
  let reg (s : State) (r : Run) (x : X) : Nat := srcA s.clock r.g r.f x 1
  match i with
  | .bra g n o => some ⟨twin g n, fun _ => relative o.toInt, false, none⟩
  | .braExtended x => some ⟨x, fun _ => relative x.m.toInt, false, none⟩
  | .call g n o d => some ⟨{ twin g n with d := d.setWidth 8 }, fun _ => relative o.toInt, false, some d.toNat⟩
  | .callExtended x => some ⟨x, fun _ => relative x.m.toInt, false, some x.d.toNat⟩
  | .ret g n a => some ⟨{ twin g n with a := a.setWidth 8 }, fun s r => reg s r { twin g n with a := a.setWidth 8 }, true, none⟩
  | .retExtended x => some ⟨x, fun s r => reg s r x, true, none⟩
  | .brx x =>
    some ⟨x, fun s r => (((reg s r x : Int) + asInt 32 true (srcB s.clock r.g r.f x 1)) % (2 ^ 32 : Nat)).toNat, true, none⟩
  | _ => none

/-- `bra`, `call`, `ret` and `brx`: the fibre goes on at the target, `call` with the link in D; a register target that is not a multiple
of 4 below the text size raises ILLEGAL_OPERAND, with no effect. -/
def Branches : Prop :=
  ∀ (i : Instr) (j : Jump) (s : State) (r : Run), branchRule i = some j → r.Of i j.x s →
    let t := j.dest s r
    let good := j.checked = false ∨ (t % 4 = 0 ∧ t < textSize r.g r.f r.l)
    (good →
      let f := issuedFib r.g r.f
      let f := match j.link with
        | some d => f.setWords d [BitVec.ofNat 32 (r.f.pc.toNat + j.x.len)]
        | none => f
      r.Goes i s { f with pc := BitVec.ofNat 64 t, readyAt := s.clock + 1, wait := .none }) ∧
    (¬ good → r.Illegal i s)

end Sys2Proof.Said

/-- nop, yield, sleep, brk, trap and the branches: all of the parts above. (R189, R190, R191, R197, R198, R201.) The model's own choices and
readings in it: logs 14, 19. -/
def Obligations.ControlFlow : Prop := IdleForms ∧ Branches

/-! ### R192, R37: callx -/

namespace Sys2Proof.Said

/-- `callx` joins the open collection of its quadrant, or opens one, and blocks; a bad target raises ILLEGAL_OPERAND. -/
def CallxJoins : Prop :=
  ∀ (x : X) (s : State) (r : Run), r.Of (.callx x) x s →
    let i := Instr.callx x
    let t := srcA s.clock r.g r.f x 1
    let quad := r.k / 32 % 4
    let me : Caller :=
      { wg := r.w, fib := r.k, target := t, key := srcB s.clock r.g r.f x 1, live := x.m.toNat / 2 ^ 23, d := x.d.toNat
        link := BitVec.ofNat 32 (r.f.pc.toNat + x.len) }
    let mine (c : Coll) : Bool :=
      c.quad = quad && c.closed.isNone && c.ctx = r.g.ctx.ctxid && c.text = r.l.r.text && c.w = r.l.r.w && s.clock ≤ c.opened + 16
    (¬ (t % 4 = 0 ∧ t < textSize r.g r.f r.l) → r.Illegal i s) ∧
    ((t % 4 = 0 ∧ t < textSize r.g r.f r.l) →
      ((s.d.core r.g.core).colls.find? mine = none →
        let id := s.d.nextId + 1
        let c : Coll :=
          { id := id, quad := quad, ctx := r.g.ctx.ctxid, text := r.l.r.text, w := r.l.r.w, opened := s.clock, members := [me] }
        r.Does i s { r.f with started := true, wait := .coll id, cand := false } fun d =>
          { d with nextId := id + 1 }.modCore r.g.core fun q => { q with colls := q.colls ++ [c] }) ∧
      (∀ c, (s.d.core r.g.core).colls.find? mine = some c →
        let c' := { c with members := c.members ++ [me] }
        let full := c'.members.all fun m => (c'.members.filter fun n => n.key = m.key).length ≥ 32
        r.Does i s { r.f with started := true, wait := .coll c.id, cand := false } fun d =>
          d.modCore r.g.core fun q =>
            { q with colls := q.colls.map fun o => if o.id = c.id then (if full then { c' with closed := some s.clock } else c') else o }))

/-! ### R194 to R196: spawn and exit -/

/-- `spawn` starts the lowest free index at the target with the words passed, and reports it: the fibre is live from the next cc on. With
none free it reports that. -/
def SpawnStartsAFibre : Prop :=
  ∀ (x : X) (s : State) (r : Run), r.Of (.spawn x) x s →
    let i := Instr.spawn x
    let t := srcA s.clock r.g r.f x 1
    let free (j : Nat) : Bool := match (r.g.modFib r.k fun _ => issuedFib r.g r.f).fib? j with
      | some h => !h.live && !h.unborn && h.readyAt ≤ s.clock
      | none => false
    let f := issuedFib r.g r.f
    (¬ (t % 4 = 0 ∧ t < textSize r.g r.f r.l) → r.Illegal i s) ∧
    ((t % 4 = 0 ∧ t < textSize r.g r.f r.l) →
      ((List.range r.g.fibs.length).find? free = none →
        r.Goes i s (((f.setWords x.d.toNat [0xFFFFFFFF#32]).setPred x.dx.toNat false).advance s.clock x.len)) ∧
      (∀ j, (List.range r.g.fibs.length).find? free = some j →
        let ws := r.f.words x.b.toNat (x.m.toNat / 2 ^ 23 % 16)
        let n : Fib :=
          { unborn := true, pc := BitVec.ofNat 64 t, priv := r.f.priv
            win := ws.take r.l.r.w ++ List.replicate (r.l.r.w - ws.length) 0#32 }
        r.Does i s (((f.setWords x.d.toNat [BitVec.ofNat 32 j]).setPred x.dx.toNat true).advance s.clock x.len) fun d =>
          d.modFib r.w j fun h =>
            { n with lane := h.lane, pos := h.pos, fslot := h.fslot, readyAt := s.clock + 1
                     pixel := r.f.pixel.map fun p => { p with cov := 0, cov0 := 0 } }))

/-- `exit`, where no other fibre waits in a rendezvous or at the latch: the fibre is exited, and its pending results are discarded. -/
def ExitEndsTheFibre : Prop :=
  ∀ (i : Instr) (x : X) (s : State) (r : Run), r.Of i x s →
    (i = .exitExtended x ∨ ∃ g n, i = .exit g n ∧ x = twin g n) →
    (∀ h ∈ r.g.fibs, match h.wait with
      | .conv .. => False
      | .latch .. => False
      | _ => True) →
    r.Does i s { issuedFib r.g r.f with live := false, wait := .none, cand := false, trav := none, readyAt := s.clock + 1 } fun d =>
      { d with ops := d.ops.map fun o => if o.wg = r.w && o.fib = r.k then { o with discard := true } else o }

end Sys2Proof.Said

/-- spawn starts a fibre and exit ends one: all of the parts above. (R16, R73, R194, R195, R196.) The model's own choices and readings in
it: log 20. -/
def Obligations.SpawnAndExit : Prop := SpawnStartsAFibre ∧ ExitEndsTheFibre

/-! ### R199: wait -/

namespace Sys2Proof.Said

/-- `wait` on a word: it goes on at once where the word differs from the value (an acquire beyond the core empties the L1), and blocks
on the word's line where it does not. -/
def WaitComparesAWord : Prop :=
  ∀ (i : Instr) (x : X) (s : State) (r : Run), r.Of i x s →
    (i = .waitExtended x ∨ ∃ g n a b, i = .wait g n a b ∧ x = { twin g n with a := a.setWidth 8, b := b.setWidth 8 }) →
    let q := r.f.nat x.a.toNat 2
    (∀ c v, resolve r.g (issuedFib r.g r.f) r.l r.k q 4 [0, 1, 3, 4] 4 true false = .error (c, v) → r.Traps i s c v) ∧
    -- a word of the work-group's own vault
    (∀ off, resolve r.g (issuedFib r.g r.f) r.l r.k q 4 [0, 1, 3, 4] 4 true false = .ok (.vault r.g.rank off) →
      r.g.vbad = [] → s.d.ops = [] →
      let v := leNat (r.g.vaultBytes off 4)
      (v ≠ srcB s.clock r.g r.f x 1 →
        r.Does i s (r.next x s) fun d =>
          if x.ord = 1 ∧ d.scopeWide s.env r.g x.scope x.grp = true then d.modCore r.g.core fun q => { q with l1 := [] } else d) ∧
      (v = srcB s.clock r.g r.f x 1 →
        r.Blocks i s (.memw (2 ^ 70 + r.g.id * 2 ^ 20 + off / 128) s.clock v false i)))

/-! ### R212 to R214: special functions -/

/-- A special-function instruction and its number in R213's order: `frcp`, `fsqrt`, `frsq`, `fex2`, `flg2`, `fsinpi`, `fcospi`, `ftanh`. -/
def sfuRule (i : Instr) : Option (X × Nat) :=
  match i with
  | .frcp g n d a => some (twinDA g n d a, 0)
  | .frcpExtended x => some (x, 0)
  | .fsqrt g n d a => some (twinDA g n d a, 1)
  | .fsqrtExtended x => some (x, 1)
  | .frsq g n d a => some (twinDA g n d a, 2)
  | .frsqExtended x => some (x, 2)
  | .fex2 g n d a => some (twinDA g n d a, 3)
  | .fex2Extended x => some (x, 3)
  | .flg2 g n d a => some (twinDA g n d a, 4)
  | .flg2Extended x => some (x, 4)
  | .fsinpi g n d a => some (twinDA g n d a, 5)
  | .fsinpiExtended x => some (x, 5)
  | .fcospi g n d a => some (twinDA g n d a, 6)
  | .fcospiExtended x => some (x, 6)
  | .ftanh g n d a => some (twinDA g n d a, 7)
  | .ftanhExtended x => some (x, 7)
  | _ => none

/-- The table of R214, as FP32 encodings, on NaNs, infinities, zeros and finite numbers below 0. -/
def specialOperand (fn : Nat) (v : FV) : Option (Nat × Fl) :=
  let nan : Nat × Fl := (0x7FC00000, flNV)
  match v with
  | .nan s => some (0x7FC00000, if s then flNV else 0#6)
  | .inf neg =>
    some (match fn with
      | 0 => (if neg then 0x80000000 else 0, 0#6)
      | 1 => if neg then nan else (0x7F800000, 0#6)
      | 2 => if neg then nan else (0, 0#6)
      | 3 => (if neg then 0 else 0x7F800000, 0#6)
      | 4 => if neg then nan else (0x7F800000, 0#6)
      | 5 => nan
      | 6 => nan
      | _ => (if neg then 0xBF800000 else 0x3F800000, 0#6))
  | .fin neg m _ =>
    if m = 0 then
      some (match fn with
        | 0 => (if neg then 0xFF800000 else 0x7F800000, flDZ)
        | 1 => (if neg then 0x80000000 else 0, 0#6)
        | 2 => (if neg then 0xFF800000 else 0x7F800000, flDZ)
        | 3 => (0x3F800000, 0#6)
        | 4 => (0xFF800000, flDZ)
        | 5 => (if neg then 0x80000000 else 0, 0#6)
        | 6 => (0x3F800000, 0#6)
        | _ => (if neg then 0x80000000 else 0, 0#6))
    else if neg && (fn = 1 || fn = 2 || fn = 4) then some nan
    else none

/-- The exact points of R213 where the result is a number that FP32 represents. -/
def exactPoint (fn : Nat) (v : FV) : Option Q :=
  match v with
  | .fin false m e =>
    let l := (Nat.log2 m : Int) + e
    if m = 0 then none
    else if fn = 2 && m = 2 ^ Nat.log2 m && l % 2 = 0 then some (Q.scale 1 (-(l / 2)))
    else if fn = 4 && m = 2 ^ Nat.log2 m then some (Q.ofInt l)
    else none
  | _ => none

/-- What R213 and R214 require of the result `y` with flags `fl` for the operand `a` in rounding mode `m`. -/
def sfuOk (fn : Nat) (m : Rm) (a : Nat) (y : Nat × Fl) : Prop :=
  let v := fF32.val a
  (∀ z, specialOperand fn v = some z → y = z) ∧
  (∀ q, specialOperand fn v = none → exactPoint fn v = some q → y = roundQ fF32 rne false false q) ∧
  (fn = 0 → specialOperand fn v = none → y = roundQ fF32 m false v.isNeg (Q.div Q.one v.q)) ∧
  (5 ≤ fn → v.isNaN = false → v.isInf = false → (fF32.val y.1).isNaN = false ∧ (fF32.val y.1).isInf = false ∧
    ((fF32.val y.1).q.abs.le Q.one) = true)

/-- The result and flags of function `fn` for the FP32 operand `a`. -/
def sfuResult (fn : Nat) (m : Rm) (a : Nat) : Nat × Fl :=
  match fn with
  | 0 => sfRcp m a
  | 1 => sfSqrt m a
  | 2 => sfRsq a
  | 3 => sfEx2 a
  | 4 => sfLg2 a
  | 5 => sfSinPi a
  | 6 => sfCosPi a
  | _ => sfTanh a

/-- The special functions complete their issue: D is marked empty, the fibre goes on, and the result, which meets R213 and R214, is on its
way, to land between 1 and 19 cc later; memory and the rest of the device stand. -/
def SpecialFunctionsIssue : Prop :=
  ∀ (i : Instr) (x : X) (fn : Nat) (s : State) (r : Run), sfuRule i = some (x, fn) → r.Of i x s →
    let y := sfuResult fn (modeOf x) (srcA s.clock r.g r.f x 1)
    let due := s.clock + 1 + (s.d.choose 19).1
    sfuOk fn (modeOf x) (srcA s.clock r.g r.f x 1) y ∧ s.clock < due ∧ due ≤ s.clock + 19 ∧
      r.Does i s (((issuedFib r.g r.f).empty x.d.toNat 1).advance s.clock x.len) fun d =>
        { d.afterChoice with
          nextId := s.d.nextId + 2
          ops := s.d.ops ++ [{ id := s.d.nextId + 1, kind := .sfu, wg := r.w, fib := r.k, grp := s.d.nextId, dst := x.d.toNat, dn := 1
                               core := r.g.core, res := [BitVec.ofNat 32 y.1], fl := y.2, due := due, ready := true }] }

/-- A special-function result lands: D and the flags are written; an enabled flag raises ARITH as an ASYNC cause instead, with D full
and unchanged (R71). Of a result that `callx` cut off (DN is 0 then) the flags alone count; a fibre that has ended gets nothing. -/
def SpecialFunctionResultLands : Prop :=
  ∀ (s : State) (o : Op) (g : WG) (f : Fib) (l : Launch), s.d.wb = [] → s.d.op? s.d.arg.a = some o → o.kind = .sfu →
    s.d.wg? o.wg = some g → g.fib? o.fib = some f → s.d.launch? g.launch = some l →
    let gone : Dev := { s.d with ops := s.d.ops.filter fun p => p.id ≠ o.id }
    ((f.live = false ∨ o.discard = true) → exec .specialFunctionResultLands s = .next { s with d := gone }) ∧
    (f.live = true → o.discard = false → arithTraps l.r.fpen o.fl = false →
      exec .specialFunctionResultLands s = .next { s with d := gone.modFib o.wg o.fib fun h => (h.setWords o.dst (o.res.take o.dn)).orFlags o.fl }) ∧
    (f.live = true → o.discard = false → arithTraps l.r.fpen o.fl = true →
      exec .specialFunctionResultLands s = .next { s with d :=
        (gone.modFib o.wg o.fib fun h => (h.fill o.dst o.dn).orFlags o.fl).modWg o.wg fun h =>
          { h with asyncs := h.asyncs ++ [{ cause := cArith, async := true, tval := o.fl.toNat, fib := o.fib }] } })

end Sys2Proof.Said

/-- Special functions issue with a result within its bound, which lands later: all of the parts above. (R65, R71, R212, R213, R214.) The
model's own choices and readings in it: log 4. -/
def Obligations.SpecialFunctions : Prop := SpecialFunctionsIssue ∧ SpecialFunctionResultLands

/-! ### R63, R180, R183, R184, R188: special and uniform registers, predicates -/

namespace Sys2Proof.Said

/-- The table of R63: width in words and value of a selector. -/
def selector (s : State) (r : Run) (n : Nat) : Option (Nat × Nat) :=
  let one (v : Nat) : Option (Nat × Nat) := some (1, v)
  match n with
  | 0x00 => one r.k
  | 0x01 => some (2, r.g.wid + r.k)
  | 0x02 => one (r.k / 32)
  | 0x03 => one r.f.lane
  | 0x04 => one (r.k / 32 % 4)
  | 0x05 => one r.g.slot
  | 0x06 => one r.g.core
  | 0x07 => one (r.g.core / 256)
  | 0x08 => one r.g.rank
  | 0x09 => one r.l.dev
  | 0x0A => one r.l.gen
  | 0x0B => one r.l.r.fcap
  | 0x0C => one r.l.r.w
  | 0x0D => one (if r.f.priv then 1 else 0)
  | 0x10 => some (2, s.clock)
  | 0x11 => one (s.d.core r.g.core).feature.toNat
  | 0x30 => one r.f.fpflags.toNat
  | 0x31 => one r.l.r.fpen.toNat
  | n => if 0x20 ≤ n ∧ n ≤ 0x27 then one (r.l.r.fmt.getD (n - 0x20) 0#32).toNat else none

/-- `movs`: a read writes the register's value to D, a write sets `%fpflags`; either waits for the special-function results of the
fibre where it names `%fpflags` (R72). -/
def SpecialRegisterMoves : Prop :=
  ∀ (i : Instr) (x : X) (s : State) (r : Run), r.Of i x s →
    (i = .movsExtended x ∨ ∃ g n d c, i = .movs g n d c ∧ x = { twinDA g n d 0#7 with m := c.setWidth 32 <<< 23 }) →
    let sel := x.m.toNat / 2 ^ 23 % 256
    let write := x.m.getLsbD 31
    let pending := s.d.ops.any fun o => o.wg = r.w && o.fib = r.k && o.kind = .sfu && !o.discard
    (sel = 0x30 → pending = true → r.Blocks i s .sfu) ∧
    ((sel ≠ 0x30 ∨ pending = false) →
      (write = true → r.Goes i s { r.next x s with fpflags := BitVec.ofNat 6 (srcA s.clock r.g r.f x 1) }) ∧
      (write = false → ∃ n v, selector s r sel = some (n, v) ∧
        r.Goes i s (((issuedFib r.g r.f).setWords x.d.toNat (natWords n v)).advance s.clock x.len)))

/-- `wk`: the value joins the pending copy of the uniform register, whose committed value stands (R57), unless a fibre of a higher index has
written the register in this cc (R36). `psetb`: each predicate that the
mask names is written, once none of them is pending. -/
def UniformRegistersAndPredicateSets : Prop :=
  ∀ (i : Instr) (x : X) (s : State) (r : Run), r.Of i x s →
    let a := srcA s.clock r.g r.f x 1
    ((i = .wkExtended x ∨ ∃ g n k c, i = .wk g n k c ∧ x = { twin g n with d := k.setWidth 8, a := c.setWidth 8 }) →
      r.Does i s (r.next x s) fun d =>
        d.modWg r.w fun h =>
          let now := if h.knAt = s.clock then h.kn else []
          let n := x.d.toNat % 64
          { h with
            kp := if h.knAt = s.clock then h.kp else h.kn.foldl (fun t p => putAt p.val t p.reg) h.kp
            kn := if now.any (fun v => v.reg = n && v.fib > r.k) then now else now ++ [{ reg := n, fib := r.k, val := BitVec.ofNat 32 a }]
            knAt := s.clock }) ∧
    (i = .psetb x →
      let ps := ((List.range 31).map (1 + ·)).filter fun p => (srcB s.clock r.g r.f x 1).testBit p
      let wait := ps.filter fun p => r.f.pend.contains p
      (r.f.hnd = false → wait ≠ [] → r.Blocks i s (.words [] wait)) ∧
      ((r.f.hnd = true ∨ wait = []) →
        r.Goes i s (((issuedFib r.g r.f).setPreds (ps.map fun p => (p, a.testBit p))).advance s.clock x.len)))

end Sys2Proof.Said

/-- movs, wk and psetb: all of the parts above. (R36, R57, R63, R69, R72, R183, R184, R188.) The model's own choices and readings in it: log
10. -/
def Obligations.SpecialAndUniformRegisters : Prop := SpecialRegisterMoves ∧ UniformRegistersAndPredicateSets

/-! ### R40, R225 to R230: squad instructions -/

namespace Sys2Proof.Said

/-- A contributor: its position, its A and B operands, and predicate A. -/
structure Part3 where
  pos : Nat
  a : Nat
  b : Nat
  p : Bool

/-- What one contributor gets. -/
abbrev SquadOut := List Part3 → Part3 → FOut

/-- `sqred`'s combination of values: for integers, the exact sum, the extremes or the bits, and R230's identity for none; `redValue` on
`.f32`. -/
def combined (x : X) (vs : List Nat) : Nat × Fl :=
  let t := x.tyOr 0x07
  let op := x.m.toNat / 2 ^ 27 % 8
  let v (u : Nat) : Int := asInt 32 (tyS t) u
  if t = 0x10 then redValue x vs
  else match vs, op with
    | vs, 0 => narrowed 32 (tyS t) x.sat (vs.foldl (fun s u => s + v u) 0)
    | [], 1 => (if t = 0x07 then 0x7FFFFFFF else 0xFFFFFFFF, 0#6)
    | [], 2 => (if t = 0x07 then 0x80000000 else 0, 0#6)
    | [], 3 => (0xFFFFFFFF, 0#6)
    | [], _ => (0, 0#6)
    | u :: us, 1 => (us.foldl (fun m n => if v n < v m then n else m) u, 0#6)
    | u :: us, 2 => (us.foldl (fun m n => if v m < v n then n else m) u, 0#6)
    | u :: us, 3 => (us.foldl (· &&& ·) u, 0#6)
    | u :: us, 4 => (us.foldl (· ||| ·) u, 0#6)
    | u :: us, _ => (us.foldl (· ^^^ ·) u, 0#6)

/-- The extended form, the words of A and of B, and the outcome of R226 to R230. -/
def squadRule (i : Instr) : Option (X × Nat × Nat × SquadOut) :=
  let mask (l : List Part3) : Nat := ofBits 32 fun j => l.any fun q => q.pos = j
  match i with
  | .shfl x =>
    some (x, wordsOf x 0x09, 1, fun cs q =>
      let j : Int :=
        match x.m.toNat / 2 ^ 23 % 4 with
        | 0 => (q.b % 32 : Nat)
        | 1 => (q.pos : Int) - q.b
        | 2 => (q.pos : Int) + q.b
        | _ => ((q.pos ^^^ (q.b % 32)) : Nat)
      match cs.find? fun o => (o.pos : Int) = j with
      | some o => { d := natWords (wordsOf x 0x09) o.a, ps := [(x.dx.toNat, true)] }
      | none => { ps := [(x.dx.toNat, false)] })
  | .vote x =>
    some (x, 0, 0, fun cs _ =>
      let t := cs.filter fun q => q.p != x.mb 25
      let n := cs.filter fun q => q.p == x.mb 25
      match x.m.toNat / 2 ^ 23 % 4 with
      | 0 => { d := natWords 1 (mask t), ps := [(x.dx.toNat, !t.isEmpty)] }
      | 1 => { d := if x.mb 28 then natWords 1 t.length else [], ps := [(x.dx.toNat, !t.isEmpty)] }
      | 2 => { d := if x.mb 28 then natWords 1 n.length else [], ps := [(x.dx.toNat, n.isEmpty)] }
      | _ => { d := if x.mb 28 then natWords 1 cs.length else [], ps := [(x.dx.toNat, t.isEmpty || n.isEmpty)] })
  | .matchSq x =>
    some (x, wordsOf x 0x09, 0, fun cs q =>
      let peers := cs.filter fun o => o.a = q.a
      let below := peers.filter fun o => o.pos < q.pos
      match x.m.toNat / 2 ^ 23 % 4 with
      | 0 => { d := natWords 1 (mask peers), ps := [(x.dx.toNat, below.isEmpty)] }
      | 1 =>
        { d := natWords 1 (cs.filter fun o => cs.all fun u => u.pos ≥ o.pos || u.a ≠ o.a).length
          ps := [(x.dx.toNat, cs.all fun o => o.a = q.a)] }
      | _ => { d := natWords 1 below.length, ps := [(x.dx.toNat, below.isEmpty)] })
  | .sqred x => some (x, 1, 0, fun cs _ => resultOf (combined x (cs.map (·.a))))
  | .sqscan x =>
    some (x, 1, 0, fun cs q =>
      resultOf (combined x ((cs.filter fun o => o.pos < q.pos || (o.pos = q.pos && !x.mb 26)).map (·.a))))
  | _ => none

/-- The fibre arrives at a convergent instruction: steps 3 to 8 pass, its guard being `b`. -/
structure Arrives (r : Run) (i : Instr) (x : X) (s : State) (b : Bool) : Prop where
  sole : Sole s r.rest r.w r.k r.g r.f r.l
  form : ∃ p, form i = some (p, x) ∧ p.check (lvOf s.d r.g r.f r.l) x ((encode i).headD 0#32) = none ∧
    p.gate (lvOf s.d r.g r.f r.l) b r.f x = .pass
  settled : r.f.pend.contains x.pg.toNat = false
  guard : (r.f.pred x.pg.toNat != x.pn) = b
  thread : r.f.hnd = false

/-- The member mask of R225. -/
def members (r : Run) (x : X) : Nat :=
  match x.m.toNat / 2 ^ 30 % 4 with
  | 0 => 2 ^ 32 - 1
  | 1 => (r.f.word x.c.toNat).toNat
  | _ => x.lit.toNat % 2 ^ 32

/-- Fibre `j` of the squad waits at the same instruction; its guard. -/
def waitsWith (r : Run) (j : Nat) (f : Fib) : Option Bool :=
  match f.wait with
  | .conv _ b _ => if f.live && f.pc = r.f.pc && j / 32 = r.k / 32 then some b else none
  | _ => none

/-- The other fibres of the squad agree with this arrival (R41). -/
def Agrees (r : Run) (m : Nat) : Prop :=
  ∀ j f, r.g.fibs[j]? = some f → j ≠ r.k → j / 32 = r.k / 32 → f.live = true →
    match f.wait with
    | .conv q _ _ => (f.pc = r.f.pc → q.toNat = m) ∧ (f.pc ≠ r.f.pc → m.testBit (j % 32) = false ∧ q.getLsbD (r.k % 32) = false)
    | _ => True

end Sys2Proof.Said

/-- The squad instructions. A fibre that its own mask does not name raises ILLEGAL_OPERAND. Else it waits until every named fibre that lives
waits at the instruction; the arrival that completes the rendezvous gives every contributor its result and lets every party go on (here with
no floating-point trap enabled); while the work-group stops, no rendezvous is performed. (R40, R41, R225, R226, R227, R228, R229, R230.) The model's own choices and readings in it: log 20. -/
def Obligations.SquadInstructions : Prop :=
  ∀ (i : Instr) (x : X) (na nb : Nat) (out : SquadOut) (s : State) (r : Run) (b : Bool),
    squadRule i = some (x, na, nb, out) → Arrives r i x s b →
    let m := members r x
    let guard (j : Nat) (f : Fib) : Option Bool := if j = r.k then some b else waitsWith r j f
    let party (j : Nat) (f : Fib) : Bool := m.testBit (j % 32) && (guard j f).isSome
    let complete := ∀ j f, r.g.fibs[j]? = some f → j / 32 = r.k / 32 → m.testBit (j % 32) = true → f.live = true → (guard j f).isSome = true
    let lit := x.m.toNat / 2 ^ 30 = 2
    let stopping := r.g.halt ≠ .none ∧ r.g.handling = false
    let cs : List Part3 := (r.g.fibs.zipIdx.filter fun p => party p.2 p.1 && guard p.2 p.1 = some true).map fun p =>
      { pos := p.2 % 32, a := srcA s.clock r.g p.1 x na, b := srcB s.clock r.g p.1 x nb lit, p := p.1.pred x.a.toNat }
    let done (j : Nat) (f : Fib) : Fib :=
      match r.g.fibs[j]? with
      | none => f
      | some h =>
        if party j h then
          let f' := if j = r.k then issuedFib r.g r.f else issuedFib r.g { f with wait := .none }
          (if guard j h = some true then
            f'.commit x.d.toNat (out cs
              { pos := j % 32, a := srcA s.clock r.g h x na, b := srcB s.clock r.g h x nb lit, p := h.pred x.a.toNat })
          else f').advance s.clock x.len
        else f
    (m.testBit (r.k % 32) = false → r.Illegal i s) ∧
    (m.testBit (r.k % 32) = true → Agrees r m → (¬ complete ∨ stopping) → r.Blocks i s (.conv (BitVec.ofNat 32 m) b i)) ∧
    (m.testBit (r.k % 32) = true → Agrees r m → complete → ¬ stopping → r.l.r.fpen = 0#6 →
      exec i s = .next { s with d := (s.d.popped r.rest).modWg r.w fun h => { h with fibs := h.fibs.mapIdx done } })

/-! ### R231 to R241, R264: memory operations -/

namespace Sys2Proof.Said

/-- What a memory instruction's entry says of one fibre's access. -/
structure MemOp where
  x : X
  kind : OpKind
  spaces : List Nat
  size : Nat
  align : Nat
  offset : Bool
  rd : Bool
  wr : Bool
  act : State → Run → Act
  dst : Nat
  words : Nat

def memRule (i : Instr) : Option MemOp :=
  let load (x : X) (k : OpKind) (sp : List Nat) : Option MemOp :=
    some ⟨x, k, sp, widthOf x 0x09 / 8, 1, true, true, false, fun _ _ => .read, x.d.toNat, wordsOf x 0x09⟩
  let store (x : X) : Option MemOp :=
    some ⟨x, .st, [0, 1, 2, 3, 4], widthOf x 0x09 / 8, 1, true, false, true,
      fun _ r => .write (leBytes (widthOf x 0x09 / 8) (srcC r.f x (wordsOf x 0x09))), 0, 0⟩
  let rmw (x : X) (ret : Bool) : Option MemOp :=
    let op := x.m.toNat / 2 ^ 23 % 16
    some ⟨x, if ret then .atom else .red, [0, 1, 3], widthOf x 0x09 / 8, widthOf x 0x09 / 8, false, true, true,
      fun s r => .int op (x.tyOr 0x09) (srcB s.clock r.g r.f x (wordsOf x 0x09)) (if ret && op = 7 then srcC r.f x (wordsOf x 0x09) else 0),
      if ret then x.d.toNat else 0, if ret then wordsOf x 0x09 else 0⟩
  let nr (x : X) : Bool := x.m.getLsbD 31
  match i with
  | .ld g n d a m => load (twinDAI g n d a m) .ld [0, 1, 2, 3, 4]
  | .ldExtended x => load x .ld [0, 1, 2, 3, 4]
  | .ldc g n d a m => load (twinDAI g n d a m) .ldc [0, 4]
  | .ldcExtended x => load x .ldc [0, 4]
  | .st g n d a m => store (twinDAIC g n d a m)
  | .stExtended x => store x
  | .atom x => rmw x true
  | .red x => rmw x false
  | .atomf x =>
    some ⟨x, .atomf, [0, 1, 3], 4, 4, false, true, true,
      fun s r => .flt (x.m.toNat / 2 ^ 23 % 4) (x.tyOr 0x10) x.rnd (srcB s.clock r.g r.f x 1), if nr x then 0 else x.d.toNat, if nr x then 0 else 1⟩
  | .atomfx x =>
    some ⟨x, .atomfx, [0, 1], 32, 32, false, true, true,
      fun s r => .fx (x.m.toNat / 2 ^ 23 % 128) (srcB s.clock r.g r.f x 1), if nr x then 0 else x.d.toNat, if nr x then 0 else 4⟩
  | _ => none

/-- The tag that the fibre's next tagged operation takes, where it takes one, and the device once it has (R391, R392). -/
def tagIf (b : Bool) (s : State) (r : Run) : Nat := if b then s.d.nextTag r.g r.f else 0

def tagTaken (b : Bool) (s : State) (r : Run) (d : Dev) : Dev :=
  let tag := s.d.nextTag r.g r.f
  if b then d.modCore r.g.core fun k => { k with seqs := Table.set 0 k.seqs r.f.fslot (tagSeq tag), outst := k.outst ++ [tag] } else d

/-- The address of `[dA + off]` or `[dA]` (R232): SPACE never changes. -/
def addressOf (s : State) (r : Run) (x : X) (offset : Bool) : Nat :=
  let p := r.f.nat x.a.toNat 2
  if offset then p / 2 ^ 60 % 16 * 2 ^ 60 + (((p % 2 ^ 60 : Nat) + asInt 32 true (srcB s.clock r.g r.f x 1)) % (2 ^ 60 : Nat)).toNat else p

/-- Bytes of an access travel in halves that do not cross a boundary (R117). -/
def halves (bound va n : Nat) : List Part :=
  let k := bound - va % bound
  if n ≤ k then [{ va := va, off := 0, len := n }] else [{ va := va, off := 0, len := k }, { va := va + k, off := k, len := n - k }]

end Sys2Proof.Said

/-- `ld`, `ldc`, `st`, `atom`, `red`, `atomf` and `atomfx`: a pointer that R102, R119 or R367 refuses traps. What the access must wait for
before it issues, and the tag rules of a write that acts at a home, hold the fibre at the instruction. Else the access is sent, as one
operation numbered, tagged where it writes at a home, with the values read at issue; D is marked empty, and the fibre goes on, or waits for
an acquire's result. Memory stands until the operation is performed at its home. (R102, R115, R117, R119, R121, R233, R235, R238, R392,
R395.) The model's own choices and readings in it: logs 13, 15, 21, 42. -/
def Obligations.MemoryOperationsIssue : Prop :=
  ∀ (i : Instr) (m : MemOp) (s : State) (r : Run), memRule i = some m → r.Of i m.x s →
    let x := m.x
    let q := addressOf s r x m.offset
    let f := issuedFib r.g r.f
    let id := s.d.nextId + 1
    let res := resolve r.g f r.l r.k q m.size m.spaces m.align m.rd m.wr
    (∀ c v, res = .error (c, v) → r.Traps i s c v) ∧
    (∀ t, res = .ok t →
      let isGlobal := match t with
        | .glob _ => true
        | _ => false
      let va := match t with
        | .glob a => a
        | .vault _ off => off
        | .acc off => off
      -- the bytes of a cell of `atomfx` above FLAGS are not written
      let n := if m.kind = .atomfx then 20 else m.size
      let parts := halves (if isGlobal || m.kind.isAtomic || ptrSpace q = 2 then 128 else 16) va n
      let remote := match t with
        | .glob _ => true
        | .vault k _ => (((r.dev s).member r.wg k).map (·.core)).getD r.g.core != r.g.core
        | .acc _ => false
      let acq := x.ord = 1 ∨ x.ord = 3 ∨ x.ord = 4
      let rel := x.ord = 2 ∨ x.ord = 3 ∨ x.ord = 4
      let due := s.clock + 1 + (s.d.choose 16).1
      let o : Op :=
        { id := id, kind := m.kind, wg := r.w, fib := r.k, ord := r.g.issue, grp := r.num s, dst := m.dst, dn := m.words
          tag := tagIf (m.wr && remote) s r, scope := x.scope, sgrp := x.grp, acq := acq, rel := rel, wide := s.d.scopeWide s.env r.g x.scope x.grp
          deep := s.d.scopeParks s.env r.g x.scope x.grp, core := r.g.core, addr := q, size := n, m := x.m, parts := parts
          act := m.act s r, bytes := List.replicate n 0#8, due := due, sentAt := s.clock }
      let cx := cxOf i x s r.w r.k r.f
      let held := if m.wr then (r.dev s).tagHeld cx r.wg f t else none
      (∀ w, (r.dev s).issueWait s.env cx r.wg t o = some w → r.Blocks i s w) ∧
      ((r.dev s).issueWait s.env cx r.wg t o = none → ∀ ia, held = some ia → r.TagHeld i s ia) ∧
      ((r.dev s).issueWait s.env cx r.wg t o = none → held = none →
        (isGlobal = true → ∀ p ∈ parts, (rangeLookup r.g.rng p.va).isSome = true) → (∀ o ∈ s.d.ops, o.id ≤ s.d.nextId) →
        s.clock < due ∧ due ≤ s.clock + 16 ∧
          r.Does i s { (f.empty m.dst m.words).advance s.clock x.len with wait := if acq then .op id else .none, cand := false } fun d =>
            let d := tagTaken (m.wr && remote) s r { d.afterChoice with nextId := id + 1, ops := d.ops ++ [o] }
            d.modWg r.w fun h => { h with issue := h.issue + 1 }))

namespace Sys2Proof.Said

/-- What an action makes of the old bytes of its window (R238, R240, R241): the new bytes. -/
def acted (a : Act) (old : List Byte) : List Byte :=
  let o := leNat old
  match a with
  | .read => old
  | .write bs => bs
  | .int op ty b c =>
    let w := tyBits ty
    let v (u : Nat) : Int := asInt w (tyS ty) u
    leBytes old.length (match op with
      | 0 => (o + b) % 2 ^ w
      | 1 => o &&& b
      | 2 => o ||| b
      | 3 => o ^^^ b
      | 4 => if v b < v o then b else o
      | 5 => if v o < v b then b else o
      | 6 => b
      | 7 => if o = b then c else o
      | 8 => if o ≥ b then 0 else o + 1
      | 9 => if o = 0 ∨ o > b then b else o - 1
      | _ => o)
  | a => (a.run old).1

end Sys2Proof.Said

/-- HOME_REQUEST of an operation that lies in one line of the direct window of local GDDR 7, once its turn has come, where no burst error
and no poison meets it: the bytes there become what the action makes of them, every other byte of memory stands, the operation holds the old
bytes, and no other operation changes. (R82, R83, R115, R125, R238, R239, R240, R241.) The model's own choices and readings in it: logs 13,
21, 30. -/
def Obligations.AnOperationIsPerformedAtItsHome : Prop :=
  ∀ (s : State) (o : Op) (p : Part) (ia : Nat), s.Ok → s.d.op? s.d.arg.a = some o → s.d.arg.b = 0 →
    (s.d.ops.filter fun q => q.id = o.id) = [o] → o.parts = [p] → p.st = .sent →
    (s.d.dirEnt (ia % 2 ^ 42 / 128)).recalls o.act.writes = false → s.d.mayArrive o p = true → ptrSpace o.addr ≠ 1 → ptrSpace o.addr ≠ 2 → s.d.partIa o p = some ia → ia / 2 ^ 42 = 0x3FC →
    ia % 2 ^ 42 + 1 ≤ gddrSize → p.off = 0 → 0 < p.len → ia % 128 + p.len ≤ 128 →
    (o.kind.isAtomic = true → ∀ q ∈ s.d.ops, q.grp = o.grp → q.kind.isAtomic = true → q.id = o.id) →
    s.d.l1? s.env o.core (ia / 128) = none → s.d.cc? o.core (ia / 128) = none → s.d.tagEnt? o.tag (ia / 128) = none →
    (∀ bs, o.act = .write bs → bs.length = p.len) → (∀ n c bs, o.act ≠ .unit n c bs) → (s.d.choose 2).1 = 0 → s.d.poison = [] →
    let k := ia % 2 ^ 42
    let old := (List.range p.len).map fun j => s.mem.byte (k + j)
    ∃ t, exec .homeRequest s = .next t ∧ t.clock = s.clock ∧
      (∀ a, t.mem.byte a = if k ≤ a ∧ a < k + p.len then (acted o.act old).getD (a - k) 0#8 else s.mem.byte a) ∧
      (∀ q ∈ s.d.ops, q.id ≠ o.id → q ∈ t.d.ops) ∧
      (o.lands = true → o.kind = .ld → o.act = .read → ∃ u, t.d.op? o.id = some u ∧ u.ready = true ∧ u.res = u.result ∧ u.bytes.take p.len = old)

namespace Sys2Proof.Said

/-- LOAD_RESULT_LANDS: the words are written and full, a fibre that waits for the operation goes on, an acquire beyond the core empties
its L1; poison leaves the words empty and raises HW_UNCORRECTABLE (with `%tval` 0: log 48); nothing lands for a fibre that has exited. -/
def AResultLands : Prop :=
  ∀ (s : State) (o : Op) (g : WG) (f : Fib), s.d.wb = [] → s.d.op? s.d.arg.a = some o → o.ready = true → o.frozen = false → o.tag = 0 →
    s.d.wg? o.wg = some g → g.fib? o.fib = some f →
    let gone : Dev := { s.d with ops := s.d.ops.filter fun p => p.id ≠ o.id }
    ((f.live = false ∨ o.discard = true) → exec .loadResultLands s = .next { s with d := gone }) ∧
    (f.live = true → o.discard = false → o.poisoned = true →
      exec .loadResultLands s = .next { s with d :=
        { (gone.modWg o.wg fun h => { h with asyncs := h.asyncs ++ [{ cause := cUncorrectable, async := true, tval := 0, fib := o.fib }] })
          with hub := { s.d.hub with eccu := s.d.hub.eccu + 1 } } }) ∧
    (f.live = true → o.discard = false → o.poisoned = false →
      exec .loadResultLands s = .next { s with d := (
        let d := gone.modFib o.wg o.fib fun h =>
          let h := h.setWords o.dst (o.res.take o.dn)
          let h := match o.dxp with
            | some p => { h.setPred p (o.mark = 1) with pend := h.pend.filter fun q => q ≠ p }
            | none => h
          if h.wait = .op o.id then { h with wait := .none, readyAt := s.clock } else h
        if o.acq && o.wide then d.modCore g.core fun k => { k with l1 := [] } else d) })

/-- `pfx` of a range in the direct window, or of no byte: only the caches can change, and the fibre goes on; a count above 65,536 raises
ILLEGAL_OPERAND, a pointer that R102 refuses SPACE_INVALID. -/
def PrefetchOnlyFillsCaches : Prop :=
  ∀ (x : X) (s : State) (r : Run), r.Of (.pfx x) x s →
    let i := Instr.pfx x
    let q := addressOf s r x false
    let n := srcB s.clock r.g r.f x 1
    let res := resolve r.g { issuedFib r.g r.f with hnd := true } r.l r.k q n [0, 3, 4] 1 true false
    (n > 65536 → r.Illegal i s) ∧
    (n ≤ 65536 → (∀ va, res ≠ .ok (.glob va)) → r.Traps i s cSpaceInvalid q) ∧
    (n ≤ 65536 → ∀ va, res = .ok (.glob va) →
      (n = 0 → r.Goes i s (r.next x s)) ∧
      (s.d.dir = [] → (∀ a ia, va / 128 * 128 ≤ a → a < va + n → rangeLookup r.g.rng a = some ia → isDirect ia = true) →
        -- in a full L1 another line gives way, which draws a choice
        ∃ cs n ch, r.Does i s (r.next x s) fun d => { d with cores := cs, fresh := n, choices := ch }))

end Sys2Proof.Said

/-- A result lands in its destination words, and a prefetch only fills caches: all of the parts above. (R65, R113, R114, R233, R264.) The
model's own choices and readings in it: logs 22, 48. -/
def Obligations.ResultsLand : Prop := AResultLands ∧ PrefetchOnlyFillsCaches

/-! ### R249 to R252, R58: barrier registers -/

namespace Sys2Proof.Said

/-- An evaluation of barrier register `j` (R250): a completed phase reloads PEND, flips PHASE, and commits the uniform registers; a write
of the same cc stays pending (R58). -/
def evaluated (now j : Nat) (h : WG) : WG :=
  let b := h.bars.getD j {}
  if b.init = true ∧ b.pend = 0 ∧ b.bytes = 0 then
    let kp := if h.knAt = now then h.kp else h.kn.foldl (fun t p => putAt p.val t p.reg) h.kp
    { h with
      bars := putAt { b with pend := b.expect, phase := !b.phase } h.bars j
      kp := kp
      kn := if h.knAt = now then h.kn else []
      knAt := now
      kOld := if h.kcAt = now then h.kOld else h.k
      kcAt := now
      k := kp }
  else h

/-- `bar.init`, `bar.arv`, `bar.exp`, `bar.wait` and `bar.test`: the register's new value, the faults of R252, and the waits. A register that
a fibre of a higher index has initialised in this cc keeps that value (R36). -/
def BarrierInstructions : Prop :=
  ∀ (i : Instr) (x : X) (s : State) (r : Run), r.Of i x s →
    let b := srcB s.clock r.g r.f x 1
    let j := x.m.toNat / 2 ^ 23 % 16
    let reg := r.g.bars.getD j {}
    let open_ := s.d.olderOpen r.w r.k (s.d.nextId + 1) = true
    let fault := r.Traps i s cBarrier j
    let set (v : Bar) (h : WG) : WG := { h with bars := putAt v h.bars j }
    let arv := x.m.getLsbD 27 = true
    (i = .barInit x →
      let bad := b = 0 ∨ b > 4095 ∨ (reg.init = true ∧ (reg.pend ≠ reg.expect ∨ reg.bytes ≠ 0))
      (bad → fault) ∧
      (¬ bad → r.Does i s (r.next x s) fun d => d.modWg r.w fun h =>
        if reg.initAt = s.clock ∧ reg.initBy > r.k then h
        else set { reg with expect := b, pend := b, bytes := 0, init := true, initAt := s.clock, initBy := r.k } h)) ∧
    (i = .barArv x →
      let bad := reg.init = false ∨ b = 0 ∨ b > 4095 ∨ b > reg.pend
      (open_ → r.Blocks i s (.ops (s.d.nextId + 1) false)) ∧
      (¬ open_ → bad → fault) ∧
      (¬ open_ → ¬ bad → r.Does i s (r.next x s) fun d =>
        d.modWg r.w fun h => evaluated s.clock j (set { reg with pend := reg.pend - b } h))) ∧
    (i = .barExp x →
      let bad := reg.init = false ∨ reg.bytes + b > 2 ^ 31 - 1 ∨ (arv ∧ reg.pend = 0)
      (arv → open_ → r.Blocks i s (.ops (s.d.nextId + 1) false)) ∧
      (¬ (arv ∧ open_) → bad → fault) ∧
      (¬ (arv ∧ open_) → ¬ bad → r.Does i s (r.next x s) fun d =>
        d.modWg r.w fun h => evaluated s.clock j
          (set { reg with bytes := reg.bytes + b, pend := if x.m.getLsbD 27 then reg.pend - 1 else reg.pend } h))) ∧
    (i = .barWait x →
      (reg.init = false → fault) ∧
      (reg.init = true → reg.phase = b.testBit 0 → r.Blocks i s (.bar j (b.testBit 0))) ∧
      (reg.init = true → reg.phase ≠ b.testBit 0 → r.Goes i s (r.next x s))) ∧
    (i = .barTest x →
      (reg.init = false → fault) ∧
      (reg.init = true →
        r.Goes i s (((issuedFib r.g r.f).setPred x.dx.toNat (reg.phase != b.testBit 0)).advance s.clock x.len)))

/-! ### R242, R243: fences -/

/-- A core's L1 emptied. -/
def emptyL1 (core : Nat) (d : Dev) : Dev := d.modCore core fun q => { q with l1 := [] }

end Sys2Proof.Said

/-- `fence` waits for the fibre's older operations (and at a wide scope for its parked ones); an acquire beyond the core empties the L1.
`fencep` does as much, and for a victim in its scope whose stores have all reached their homes it empties the victim's L1. (R128, R131,
R139, R242, R243.) The model's own choices and readings in it: log 21. -/
def Obligations.Fences : Prop :=
  ∀ (i : Instr) (x : X) (s : State) (r : Run), r.Of i x s →
    let wide := s.d.scopeWide s.env r.g x.scope x.grp = true
    let parks := s.d.scopeParks s.env r.g x.scope x.grp
    let open_ := s.d.olderOpen r.w r.k (s.d.nextId + 1) = true ∨ (parks = true ∧ s.d.parksOpen r.w r.k = true)
    (i = .fence x →
      (open_ → r.Blocks i s (.ops (s.d.nextId + 1) parks)) ∧
      (¬ open_ → (x.ord = 1 ∨ x.ord = 3 ∨ x.ord = 4) → wide → r.Does i s (r.next x s) (emptyL1 r.g.core)) ∧
      (¬ open_ → ¬ ((x.ord = 1 ∨ x.ord = 3 ∨ x.ord = 4) ∧ wide) → r.Goes i s (r.next x s))) ∧
    (i = .fencep x →
      let v := srcA s.clock r.g r.f x 1
      let byRank := x.m.getLsbD 23
      -- by physical core, or by a rank of the cohort
      let victim : Option Nat :=
        if byRank then (if v < r.l.r.members then (if v = r.g.rank then some r.g.core else (s.d.member r.g v).map (·.core)) else none)
        else if v < 512 then some v else none
      (victim = none → r.Illegal i s) ∧
      (∀ c, victim = some c →
        let named := (s.d.groupMask s.env r.g x.grp 0 64).testBit c = true ∧ (s.d.groupMask s.env r.g x.grp 64 16).testBit s.d.hub.rank = true
        let within := (x.scope = 1 ∧ c = r.g.core) ∨ (x.scope = 2 ∧ c / 256 = r.g.core / 256) ∨ (3 ≤ x.scope ∧ x.scope ≤ 5) ∨
          (x.scope = 6 ∧ (c = r.g.core ∨ named))
        (open_ → r.Blocks i s (.ops (s.d.nextId + 1) parks)) ∧
        (¬ open_ → ¬ within → r.Does i s (r.next x s) fun d => if wide then emptyL1 r.g.core d else d) ∧
        (¬ open_ → within → (∀ o ∈ s.d.ops, o.core = c → o.act.writes = false) →
          r.Does i s (r.next x s) fun d => emptyL1 (if wide then r.g.core else c) (emptyL1 c d))))

/-! ### R244 to R248: full and empty granules -/

namespace Sys2Proof.Said

/-- `ldfe`, `stfe`, `fezap` and `feprb` on the vault of a member `h` of the cohort. An older vault access of the fibre that is under way holds
it at the instruction, an `stfe` any older access, since it is a release. -/
def FullAndEmptyGranules : Prop :=
  ∀ (i : Instr) (x : X) (s : State) (r : Run) (k off : Nat) (h : WG), r.Of i x s → (r.dev s).member r.wg k = some h →
    let f := issuedFib r.g r.f
    let at_ := Tgt.vault k off
    let id := s.d.nextId + 1
    let open_ := s.d.vaultOpen r.w r.k = true
    let n := widthOf x 0x09 / 8
    let words := wordsOf x 0x09
    (i = .ldfe x →
      let q := addressOf s r x true
      (∀ c v, resolve r.g f r.l r.k q n [1] n true false = .error (c, v) → r.Traps i s c v) ∧
      (resolve r.g f r.l r.k q n [1] n true false = .ok at_ →
        let clr := x.m.getLsbD 31
        (open_ → r.Blocks i s (.ops id false)) ∧
        -- an empty granule blocks the fibre
        (¬ open_ → h.empt.contains (off / 16) = true → r.Blocks i s (.granule
          { rank := k, gran := off / 16, grp := s.d.nextId, clr := clr, addr := q, size := n, dst := x.d.toNat, dn := words
            len := x.len, m := x.m })) ∧
        -- a full one is read, and emptied with CLR, at once; the value lands later
        (¬ open_ → h.empt.contains (off / 16) = false → off = ptrAddr q % 2 ^ 22 →
          let due := s.clock + 6 + (s.d.choose 32).1
          let bs := h.vaultBytes off n
          s.clock < due ∧ due ≤ s.clock + 37 ∧ r.Does i s { (f.empty x.d.toNat words).advance s.clock x.len with wait := .op id, cand := false } fun d =>
            let d := if clr then d.modWg h.id fun h => { h with empt := insNat (off / 16) h.empt } else d
            { d.afterChoice with
              nextId := id + 1
              ops := d.ops ++ [{ id := id, kind := .local_, wg := r.w, fib := r.k, grp := s.d.nextId, dst := x.d.toNat, dn := words
                                 scope := 2, acq := true, wide := true, core := r.g.core, addr := q, size := n, m := x.m, bytes := bs
                                 res := natWords words (leNat bs), parts := [{ va := off, off := 0, len := n, st := .done }], ready := true
                                 due := due, poisoned := h.vaultBad off n }] }))) ∧
    (i = .stfe x →
      let q := addressOf s r x true
      (∀ c v, resolve r.g f r.l r.k q n [1] n false true = .error (c, v) → r.Traps i s c v) ∧
      (resolve r.g f r.l r.k q n [1] n false true = .ok at_ →
        let older := s.d.olderOpen r.w r.k id = true
        let remote := h.core != r.g.core
        let held := remote = true ∧ r.tagBlocked s none = true
        (older → r.Blocks i s (.ops id false)) ∧
        (¬ older → held → r.TagHeld i s none) ∧
        (¬ older → ¬ held → (∀ o ∈ s.d.ops, o.id ≤ s.d.nextId) →
          let due := s.clock + 1 + (s.d.choose 16).1
          s.clock < due ∧ due ≤ s.clock + 16 ∧
            r.Does i s { f.advance s.clock x.len with cand := false } fun d =>
              let o : Op :=
                { id := id, kind := .st, wg := r.w, fib := r.k, ord := r.g.issue, grp := r.num s, tag := tagIf remote s r, scope := 2
                  rel := true, wide := true, core := r.g.core, addr := q, size := n, m := x.m, parts := halves 16 off n
                  act := .write (leBytes n (srcC r.f x words)), bytes := List.replicate n 0#8, due := due, sentAt := s.clock, mark := 1 }
              tagTaken remote s r { d.afterChoice with nextId := id + 1, ops := d.ops ++ [o] }))) ∧
    (i = .fezap x →
      let q := addressOf s r x false
      let m := srcB s.clock r.g r.f x 1
      let res := resolve r.g { f with hnd := true } r.l r.k q m [1] 1 false true
      (∀ c v, res = .error (c, v) → r.Traps i s c v) ∧
      let granules := (List.range (if m = 0 then 0 else (off + m - 1) / 16 - off / 16 + 1)).map (off / 16 + ·)
      (res = .ok at_ → open_ → r.Blocks i s (.ops id false)) ∧
      (res = .ok at_ → ¬ open_ → r.Does i s (r.next x s) fun d =>
        d.modWg h.id fun h => { h with empt := granules.foldl (fun t k => insNat k t) h.empt })) ∧
    (i = .feprb x →
      let q := addressOf s r x false
      let res := resolve r.g { f with hnd := true } r.l r.k q 1 [1] 1 true false
      (∀ c v, res = .error (c, v) → r.Traps i s c v) ∧
      (res = .ok at_ → open_ → r.Blocks i s (.ops id false)) ∧
      (res = .ok at_ → ¬ open_ →
        let full (j : Nat) : Bool := 16 * (off / 16 + j) < r.l.r.v && !h.empt.contains (off / 16 + j)
        r.Goes i s (((f.setWords x.d.toNat [BitVec.ofNat 32 (ofBits 32 full)]).setPred x.dx.toNat (full 0)).advance s.clock x.len)))

end Sys2Proof.Said

/-- Barrier registers, their phases and faults, and full/empty granules: all of the parts above. (R58, R109, R135, R244, R245, R246, R247,
R248, R249, R250, R251, R252.) The model's own choices and readings in it: logs 21, 47. -/
def Obligations.BarriersAndGranules : Prop := BarrierInstructions ∧ FullAndEmptyGranules

namespace Sys2Proof.Said

/-- `cont`: the record of B and seven words of A is on its way to the pool, as a tagged release; without a pool it raises
ACCESS_DENIED, on a full pool it waits, and the tag rules may hold it (R392, R395). -/
def ContinuationsAreAppended : Prop :=
  ∀ (x : X) (s : State) (r : Run), r.Of (.cont x) x s →
    let i := Instr.cont x
    let id := s.d.nextId + 1
    let full := s.d.poolCount r.l ≥ 2 ^ r.l.poolLog
    let held := r.tagBlocked s none = true
    (r.l.r.pool = 0 → r.Traps i s cAccessDenied 0) ∧
    (r.l.r.pool ≠ 0 → full → r.Blocks i s .pool) ∧
    (r.l.r.pool ≠ 0 → ¬ full → held → r.TagHeld i s none) ∧
    (r.l.r.pool ≠ 0 → ¬ full → ¬ held →
      r.Does i s (r.next x s) fun d =>
        let o : Op :=
          { id := id, kind := .cont, wg := r.w, fib := r.k, ord := r.g.issue, grp := r.num s, tag := tagIf true s r, core := r.g.core, m := x.m
            st := BitVec.ofNat 32 (srcB s.clock r.g r.f x 1) :: r.f.words x.a.toNat 7, scope := 3, rel := true, deep := true, due := s.clock + 1
            sentAt := s.clock, parts := [{ va := 2 ^ 60 + 128 * id, off := 0, len := 0 }] }
        (tagTaken true s r { d with nextId := id + 1, ops := d.ops ++ [o] }).modWg r.w fun h => { h with issue := h.issue + 1 })

/-! ### R253 to R263: copies -/

/-- A fibre's copy counter of a tag raised by one. -/
def counted (f : Fib) (t : Nat) : Fib := { f with cnt := putAt (f.cnt.getD t 0 + 1) f.cnt t }

/-- `cpy`, `cpywait`, `cpytest`, `tcpy` and `tcpyc`. A `cpy` and a `tcpy` are checked, then sent as one operation each, tagged where they
write outside their core, and counted on their tag; a full counter, a core with 32 tile copies and the tag rules hold the fibre; the waits
look at the counter, and empty the L1 where it is 0; a `tcpyc` holds its fibre until it has ended. -/
def CopiesIssue : Prop :=
  ∀ (i : Instr) (x : X) (s : State) (r : Run), r.Of i x s →
    let f := issuedFib r.g r.f
    let id := s.d.nextId + 1
    let t := x.m.toNat / 2 ^ 12 % 8
    let ws := r.f.words x.a.toNat 8
    -- the operation acts outside the core's own vault
    let outside (q : Nat) : Bool :=
      match tgtOf r.g r.l r.k q with
      | .vault k _ => decide ((((r.dev s).member r.wg k).map (·.core)).getD r.g.core ≠ r.g.core)
      | _ => true
    (i = .cpy x →
      let dst := r.f.nat x.d.toNat 2
      let src := r.f.nat x.a.toNat 2
      let n := srcB s.clock r.g r.f x 1
      let to_ := spanOk r.g f r.l r.k dst 0 32 [1] true
      let from_ := spanOk r.g f r.l r.k src 0 n [0, 3, 4] false
      let spaces := ptrSpace dst = 1 ∧ ptrSpace src ∈ [0, 3, 4]
      (ptrSpace dst ≠ 1 → r.Traps i s cSpaceInvalid dst) ∧
      (ptrSpace dst = 1 → ¬ ptrSpace src ∈ [0, 3, 4] → r.Traps i s cSpaceInvalid src) ∧
      (spaces → ptrAddr dst % 16 ≠ 0 → r.Illegal i s) ∧
      (spaces → ptrAddr dst % 16 = 0 → ∀ c v, to_ = .error (c, v) → r.Traps i s c v) ∧
      (spaces → ptrAddr dst % 16 = 0 → (∃ a, to_ = .ok a) → n > 32 → r.Illegal i s) ∧
      (spaces → ptrAddr dst % 16 = 0 → (∃ a, to_ = .ok a) → n ≤ 32 → ∀ c v, from_ = .error (c, v) → r.Traps i s c v) ∧
      (spaces → ptrAddr dst % 16 = 0 → (∃ a, to_ = .ok a) → n ≤ 32 → ∀ a, from_ = .ok a →
        let held := outside dst = true ∧ r.tagBlocked s none = true
        (r.f.cnt.getD t 0 ≥ 255 → r.Blocks i s (.copyRoom t false)) ∧
        (r.f.cnt.getD t 0 < 255 → held → r.TagHeld i s none) ∧
        (r.f.cnt.getD t 0 < 255 → ¬ held →
          let due := s.clock + 1 + (s.d.choose 64).1
          let o : Op :=
            { id := id, kind := .cpy, wg := r.w, fib := r.k, ord := r.g.issue, grp := r.num s, tag := tagIf (outside dst) s r, core := r.g.core
              addr := src, size := n, m := x.m, st := natWords 2 dst, act := .write [], reads := spansOf r.g a n, due := due, sentAt := s.clock }
          s.clock < due ∧ due ≤ s.clock + 64 ∧ r.Does i s ((counted f t).advance s.clock x.len) fun d =>
            let d := tagTaken (outside dst) s r { d.afterChoice with nextId := id + 1, ops := d.ops ++ [o] }
            d.modWg r.w fun h => { h with issue := h.issue + 1 }))) ∧
    (i = .cpywait x →
      (r.f.cnt.getD t 0 = 0 → r.Does i s (r.next x s) (emptyL1 r.g.core)) ∧
      (r.f.cnt.getD t 0 ≠ 0 → r.Blocks i s (.tag t))) ∧
    (i = .cpytest x →
      let n := r.f.cnt.getD t 0
      r.Does i s (((f.setWords x.d.toNat [BitVec.ofNat 32 n]).setPred x.dx.toNat (decide (n = 0))).advance s.clock x.len) fun d =>
        if n = 0 then emptyL1 r.g.core d else d) ∧
    (i = .tcpy x →
      let c := tcdOf (x.m.toNat / 2 ^ 29) (r.l.r.fmt.getD x.slot 0#32) ws
      let absent := c.mode = 5 ∧ c.rop = 2 ∧ (s.d.core r.g.core).feature.getLsbD 0 = false
      let bad := c.check r.g f r.l r.k ((encode i).headD 0#32).toNat
      let bar := x.m.toNat / 2 ^ 23 % 16
      let barred := x.m.getLsbD 28 = true ∧ (r.g.bars.getD bar {}).init = false
      let room := r.f.cnt.getD t 0 < 255 ∧ s.d.copiesOn r.g.core < 32
      let held := outside c.dst = true ∧ r.tagBlocked s none = true
      (absent → r.Traps i s cFeatureAbsent 1) ∧
      (¬ absent → ∀ q v, bad = some (q, v) → r.Traps i s q v) ∧
      (¬ absent → bad = none → barred → r.Traps i s cBarrier bar) ∧
      (¬ absent → bad = none → ¬ barred → ¬ room → r.Blocks i s (.copyRoom t true)) ∧
      (¬ absent → bad = none → ¬ barred → room → held → r.TagHeld i s none) ∧
      (¬ absent → bad = none → ¬ barred → room → ¬ held →
        let o : Op :=
          { id := id, kind := .tcpy, wg := r.w, fib := r.k, ord := r.g.issue, grp := r.num s, tag := tagIf (outside c.dst) s r, core := r.g.core
            addr := c.dst, size := c.bytes, m := x.m, st := ws ++ [c.slot], act := .write [], reads := c.reads r.g r.l r.k, due := s.clock + 1
            sentAt := s.clock }
        r.Does i s ((counted f t).advance s.clock x.len) fun d =>
          let d := tagTaken (outside c.dst) s r { d with nextId := id + 1, ops := d.ops ++ [o] }
          d.modWg r.w fun h => { h with issue := h.issue + 1 })) ∧
    (i = .tcpyc x →
      let c := tcdOf (x.m.toNat / 2 ^ 29) 0#32 ws
      let bad := c.check r.g f r.l r.k ((encode i).headD 0#32).toNat
      let version := spanOk r.g f r.l r.k c.dst (-8) 0 [0, 1, 3] true
      let held := outside c.dst = true ∧ r.tagBlocked s none = true
      (∀ q v, bad = some (q, v) → r.Traps i s q v) ∧
      (bad = none → c.bytes > 4096 → r.Illegal i s) ∧
      (bad = none → c.bytes ≤ 4096 → ptrAddr c.dst % 8 ≠ 0 → r.Traps i s cMisaligned c.dst) ∧
      (bad = none → c.bytes ≤ 4096 → ptrAddr c.dst % 8 = 0 → ∀ q v, version = .error (q, v) → r.Traps i s cVaultRange v) ∧
      (bad = none → c.bytes ≤ 4096 → ptrAddr c.dst % 8 = 0 → (∃ a, version = .ok a) → held → r.TagHeld i s none) ∧
      (bad = none → c.bytes ≤ 4096 → ptrAddr c.dst % 8 = 0 → (∃ a, version = .ok a) → ¬ held →
        let due := s.clock + 1 + (s.d.choose 64).1
        let o : Op :=
          { id := id, kind := .tcpyc, wg := r.w, fib := r.k, ord := r.g.issue, grp := r.num s, tag := tagIf (outside c.dst) s r, core := r.g.core
            addr := c.dst, size := c.bytes, m := x.m, st := ws ++ natWords 2 (srcB s.clock r.g r.f x 2), dxp := some x.dx.toNat
            rel := true, scope := 3, deep := true, due := due, sentAt := s.clock, parts := [{ va := 0, off := 0, len := 0 }] }
        s.clock < due ∧ due ≤ s.clock + 64 ∧
        r.Does i s { (f.pendPred x.dx.toNat).advance s.clock x.len with wait := .op id, cand := false } fun d =>
          let d := tagTaken (outside c.dst) s r { d.afterChoice with nextId := id + 1, ops := d.ops ++ [o] }
          d.modWg r.w fun h => { h with issue := h.issue + 1 }))

/-- CPY_LANDING of a `cpy` of n bytes, at most 32, from one line of the direct window of local GDDR 7 to the work-group's own vault, no
fibre waiting on a granule: the two granules hold the bytes and then zeros, and are full; the counter falls; memory stands. -/
def ACopyLands : Prop :=
  ∀ (s : State) (o : Op) (g : WG) (f : Fib) (l : Launch) (va ia off : Nat), s.d.wb = [] →
    (s.d.ops.filter fun q => q.id = s.d.arg.a) = [o] → s.d.op? s.d.arg.a = some o → o.kind = .cpy → o.frozen = false → o.mark = 0 → o.tag = 0 →
    (s.d.wgs.filter fun h => h.id = o.wg) = [g] → s.d.wg? o.wg = some g → g.fib? o.fib = some f → s.d.launch? g.launch = some l →
    s.d.copyWaits o = false → (∀ q ∈ s.d.ops, q.id ≠ o.id → o.sharesGranule q = false) → o.discard = false →
    (∀ h ∈ s.d.wgs, ∀ q ∈ h.fibs, match q.wait with
      | .granule _ => False
      | _ => True) →
    s.d.poison = [] → s.d.dir = [] → Table.okFrom 0#8 0 g.vault = true →
    ptrSpace o.addr = 0 → ptrAddr o.addr = va → va + 32 ≤ 2 ^ 57 → o.size ≤ 32 → va % 128 + o.size ≤ 128 → ia % 128 = va % 128 →
    (∀ j < o.size, rangeLookup g.rng (va + j) = some (ia + j)) → (ia + o.size) / 2 ^ 42 = 0x3FC → ia / 2 ^ 42 = 0x3FC →
    ia % 2 ^ 42 + 32 ≤ gddrSize → wordsNat o.st = 2 ^ 60 + g.rank * 2 ^ 52 + off → g.rank < 256 → off < 2 ^ 22 → off % 16 = 0 →
    let t := bitsN o.m.toNat 14 12
    ∃ u g' f', exec .cpyLanding s = .next u ∧ u.mem = s.mem ∧ u.clock = s.clock ∧ u.d.ops = (s.d.ops.filter fun q => q.id ≠ o.id) ∧
      u.d.wg? o.wg = some g' ∧
      (∀ a, Table.get 0#8 g'.vault a =
        if off ≤ a ∧ a < off + o.size then s.mem.byte (ia % 2 ^ 42 + (a - off)) else if off ≤ a ∧ a < off + 32 then 0#8
        else Table.get 0#8 g.vault a) ∧
      g'.empt = g.empt.filter (fun n => n ≠ off / 16 ∧ n ≠ off / 16 + 1) ∧
      g'.fib? o.fib = some f' ∧ f'.cnt = putAt (f.cnt.getD t 0 - 1) f.cnt t ∧ f'.win = f.win

end Sys2Proof.Said

/-- cpy, cpywait, cpytest, tcpy and tcpyc issue, and a copy lands: all of the parts above. (R136, R253, R254, R255, R256, R257, R263, R392,
R395.) The model's own choices and readings in it: logs 23, 24. -/
def Obligations.Copies : Prop := CopiesIssue ∧ ACopyLands

namespace Sys2Proof.Said

/-- COPY_UNIT_COMPLETE of a unit inside the window of a tile copy from memory to memory: its bytes are written, and MARK and WIN hold it;
the last unit ends the copy and lowers its counter. A unit that is complete, lies beyond the window, or has to wait changes nothing. -/
def TileCopyUnits : Prop :=
  ∀ (s : State) (o : Op) (g : WG) (l : Launch) (f : Fib), s.d.wb = [] → s.d.op? s.d.arg.a = some o → s.d.ops.filter (fun q => q.id = o.id) = [o] →
    s.d.wg? o.wg = some g → s.d.wgs.filter (fun h => h.id = o.wg) = [g] → s.d.launch? g.launch = some l → g.fib? o.fib = some f →
    let u := s.d.arg.b
    let t := o.tcd
    let waits := o.kind ≠ .tcpy ∨ o.frozen = true ∨ o.unitDone u = true ∨ o.mark + 64 ≤ u ∨ s.d.tcpyWaits o = true ∨ t.behind o u = true
    (waits → exec .copyUnitComplete s = .next s) ∧
    (∀ r off n, ¬ waits → t.mode ≤ 1 → o.win < 2 ^ 64 → o.tag = 0 → o.discard = false → o.m.getLsbD 28 = false → t.unitAt t.dstRows 0 u = some (r, off, n) →
      let who : Asker := { wg := o.wg, core := o.core, unit := 1, fsvc := g.ctx.fsvc, h0 := bitsOf t.ss 64, h1 := t.srcRows - 1 - r }
      let dstWho : Asker := { who with h0 := bitsOf t.ds 64, h1 := t.dstRows - 1 - r }
      ∀ bs va d d', s.d.readT s.env g who ((tgtOf g l o.fib t.src).plus (r * t.ss + off)) n = (.ok bs false, d) →
        (tgtOf g l o.fib t.dst).plus (r * t.ds + off) = .glob va →
        d.writeLine s.env g.rng dstWho { o with mark := u } va n (.write bs) = (.done, d') → d'.ops = s.d.ops → d'.wgs = s.d.wgs →
        ∃ o', o' = { o with mark := o'.mark, win := o'.win } ∧ o'.unitDone o'.mark = false ∧
          (∀ v < o.mark + 64, o'.unitDone v = (decide (v = u) || o.unitDone v)) ∧
          (o'.mark < t.count → exec .copyUnitComplete s = .next (s.put { d' with ops := s.d.ops.map fun q => if q.id = o.id then o' else q })) ∧
          (t.count ≤ o'.mark →
            let c := o.m.toNat / 2 ^ 12 % 8
            exec .copyUnitComplete s = .next (s.put (({ d' with ops := s.d.ops.filter fun q => q.id ≠ o.id } : Dev).modFib o.wg o.fib fun f =>
              { f with cnt := putAt (f.cnt.getD c 0 - 1) f.cnt c }))))

/-- TCPYC_COMMIT, once what its fibre issued before it has been performed: one step reads the source and the version word. Where it is not
the version asked for, the predicate becomes 0 and memory stands; where it is, and every line can be written, the rows and the next version
are written and the predicate becomes 1. The fibre goes on. -/
def ACommitIsOneStep : Prop :=
  ∀ (s : State) (o : Op) (g : WG) (l : Launch) (f : Fib) (p : Nat), s.d.wb = [] → s.d.op? s.d.arg.a = some o → o.id = s.d.arg.a →
    s.d.ops.filter (fun q => q.id = o.id) = [o] → s.d.wg? o.wg = some g → s.d.wgs.filter (fun h => h.id = o.wg) = [g] →
    s.d.launch? g.launch = some l → g.fib? o.fib = some f → o.kind = .tcpyc → o.frozen = false → o.dxp = some p → o.tag = 0 →
    (s.d.commitWaits o = true → exec .tcpycCommit s = .next s) ∧
    (s.d.commitWaits o = false →
      let t := o.tcd
      let who : Asker := { wg := o.wg, core := o.core, unit := 1, fsvc := g.ctx.fsvc }
      let dst := tgtOf g l o.fib t.dst
      let version := dst.plus (-8)
      let asked := wordsNat ((o.st.drop 8).take 2)
      let ended (d : Dev) (b : Bool) : Dev :=
        ({ d with ops := d.ops.filter fun q => q.id ≠ o.id } : Dev).modFib o.wg o.fib fun (h : Fib) =>
          let h : Fib := { h.setPred p b with pend := h.pend.filter (· ≠ p) }
          if (h.wait = .op o.id) then { h with wait := .none, readyAt := s.clock } else h
      ∀ rows vb d d', Dev.commitSource s.env g who t (tgtOf g l o.fib t.src) (List.range t.srcRows) s.d = (.ok rows, d) →
        d.readT s.env g who version 8 = (.ok vb false, d') →
        (leNat vb ≠ asked → exec .tcpycCommit s = .next (s.put (ended d' false))) ∧
        (leNat vb = asked →
          let all : Pieces := (rows.map fun q => (q.1 + 1, dst.plus (q.1 * t.ds), q.2)) ++ [(0, version, leBytes 8 (asked + 1))]
          ∀ d1, Dev.probePieces s.env g who all d' = (.done, d1) →
            exec .tcpycCommit s = .next (s.put (ended ((d1.writePieces s.env g who o all).fillPieces s.env g all) true))))

end Sys2Proof.Said

/-- The units of a tile copy, and the one step of a commit: all of the parts above. (R256, R257, R261, R262, R263, R398.) The model's own
choices and readings in it: logs 13, 23, 24. -/
def Obligations.TileCopies : Prop := TileCopyUnits ∧ ACommitIsOneStep

/-! ### R266 to R291: matrix instructions -/

namespace Sys2Proof.Said

/-- A fibre's matrix operation joins matrix order (R267). -/
def released (s : State) (o : MOp) (d : Dev) (w : Nat) : Dev :=
  let id := s.d.nextId + 1
  { d with nextId := id + 1 }.modWg w fun h =>
    { h with mops := h.mops ++ [{ o with id := id, ord := h.issue, relAt := s.clock }], issue := h.issue + 1 }

end Sys2Proof.Said

/-- `gang`, `aclr`, `ald`, `ast`, `acvt`, `ascl`, `plan`, `await` and `await.test`. Each operation of one fibre is checked and joins matrix
order while fewer than 16 stand there; an `ast` outside the core takes a tag; the fibre goes on, and an `await` that finds its operations
ended empties the L1. (R267, R268, R271, R272, R276, R283, R284, R287, R288, R289, R290, R291.) The
model's own choices and readings in it: log 25. -/
def Obligations.MatrixOperationsOfOneFibre : Prop :=
  ∀ (i : Instr) (x : X) (s : State) (r : Run), r.Of i x s →
    let f := issuedFib r.g r.f
    let room := r.g.mops.length < 16
    let a := srcA s.clock r.g r.f x 2
    let zt := x.m.toNat / 2 ^ 23
    let zn := x.m.toNat / 2 ^ 11 % 2 ^ 9 + 1
    let op (k : MKind) (a b : Nat) : MOp := { id := 0, kind := k, fib := r.k, arrivals := [r.k], ord := 0, relAt := 0, m := x.m, a := a, b := b }
    let sent (o : MOp) := (¬ room → r.Blocks i s .matRoom) ∧ (room → r.Does i s (r.next x s) fun d => released s o d r.w)
    let near (o : MOp) : Bool := o.tiles.any fun z => decide (zt ≤ z) && decide (z < zt + zn)
    let named (o : MOp) : Bool := (o.relAt < s.clock || o.fib = r.k) && (x.m.getLsbD 10 || near o)
    (i = .gang x →
      let q := x.d.toNat % 4
      let held := ∃ h ∈ r.g.fibs, h.live = true ∧ ∃ b j, h.wait = .latch q b j
      (held → r.Traps i s cGangInvalid q) ∧
      -- the write is seen from the next cc on, the one of the highest index (R36, R276)
      (¬ held → r.Does i s (r.next x s) fun d => d.modWg r.w fun h => { h with gn := (
        if h.gn.any (fun v => v.reg = q && v.fib > r.k) then h.gn
        else h.gn ++ [{ reg := q, fib := r.k, val := BitVec.ofNat 32 (srcB s.clock r.g r.f x 1) }]) })) ∧
    (i = .aclr x → sent (op .aclr 0 (srcB s.clock r.g r.f x 1))) ∧
    (i = .acvt x → sent (op .acvt 0 0)) ∧
    ((i = .ald x ∨ i = .ast x) →
      let st : Bool := decide (i = .ast x)
      let b := srcB s.clock r.g r.f x 1
      let bytes := widthOf x 0x09 / 8
      let rows := rowSpan (32 * zn) (asInt 32 true b) (32 * bytes)
      let span := spanOk r.g f r.l r.k a rows.1 rows.2 (if st then [0, 1, 3] else [0, 1, 3, 4]) st
      (∀ c v, span = .error (c, v) → r.Traps i s c v) ∧
      (∀ t, span = .ok t → ptrAddr a % bytes ≠ 0 ∨ b % bytes ≠ 0 → r.Illegal i s) ∧
      (∀ t, span = .ok t → ptrAddr a % bytes = 0 → b % bytes = 0 →
        let away : Prop := match t with
          | .vault k _ => (((r.dev s).member r.wg k).map (·.core)).getD r.g.core ≠ r.g.core
          | _ => True
        let outside := st = true ∧ away
        let held := outside ∧ r.tagBlocked s none = true
        (¬ room → r.Blocks i s .matRoom) ∧
        (room → held → r.TagHeld i s none) ∧
        (room → ¬ held → outside → r.Does i s (r.next x s) fun d =>
          released s { op .ast a b with tag := tagIf true s r } (tagTaken true s r d) r.w) ∧
        (room → ¬ outside → r.Does i s (r.next x s) fun d => released s (op (if st then .ast else .ald) a b) d r.w))) ∧
    (i = .ascl x →
      let b := srcB s.clock r.g r.f x 2
      let rv := x.m.getLsbD 10 = true
      let cv := x.m.getLsbD 9 = true
      let vec (p : Nat) := resolve r.g { f with hnd := true } r.l r.k p 128 [1] 1 true false
      (∀ c v, rv → vec a = .error (c, v) → r.Traps i s c v) ∧
      ((rv → ∃ t, vec a = .ok t) → ∀ c v, cv → vec b = .error (c, v) → r.Traps i s c v) ∧
      ((rv → ∃ t, vec a = .ok t) → (cv → ∃ t, vec b = .ok t) →
        ((rv ∧ ptrAddr a % 128 ≠ 0) ∨ (cv ∧ ptrAddr b % 128 ≠ 0) → r.Illegal i s) ∧
        (¬ ((rv ∧ ptrAddr a % 128 ≠ 0) ∨ (cv ∧ ptrAddr b % 128 ≠ 0)) → sent (op .ascl a b)))) ∧
    (i = .plan x →
      let res := resolve r.g { f with hnd := true } r.l r.k a (zn * planSrc (r.l.r.fmt.getD x.slot 0#32)) [1] 1 true true
      (ptrSpace a ≠ 1 → r.Traps i s cSpaceInvalid a) ∧
      (ptrSpace a = 1 → ∀ c v, res = .error (c, v) → r.Traps i s c v) ∧
      (ptrSpace a = 1 → ∀ t, res = .ok t →
        (ptrAddr a / 2 ^ 52 ≠ r.g.rank ∨ ptrAddr a % 128 ≠ 0 → r.Illegal i s) ∧
        (ptrAddr a / 2 ^ 52 = r.g.rank → ptrAddr a % 128 = 0 → sent (op .plan a 0)))) ∧
    ((i = .await x →
        ((r.g.mops.filter named) = [] → r.Does i s (r.next x s) (emptyL1 r.g.core)) ∧
        ((r.g.mops.filter named) ≠ [] → r.Blocks i s (.mops ((r.g.mops.filter named).map (·.id))))) ∧
      (i = .awaitTest x →
        r.Does i s ((f.setPred x.dx.toNat (r.g.mops.filter named).isEmpty).advance s.clock x.len) fun d =>
          if (r.g.mops.filter named).isEmpty then emptyL1 r.g.core d else d))

/-! ### R43, R44, R272, R277 to R280, R286: the Belay latch -/

namespace Sys2Proof.Said

/-- The gang register that an instruction of the latch names. -/
def gangRule (i : Instr) : Option (X × Nat) :=
  match i with
  | .mma x => some (x, x.m.toNat / 2 ^ 12 % 4)
  | .aldFrag x => some (x, x.m.toNat / 2 ^ 18 % 4)
  | .astFrag x => some (x, x.m.toNat / 2 ^ 18 % 4)
  | _ => none

/-- A live fibre waits at the latch of register `q`; its guard. -/
def latched (q : Nat) (f : Fib) : Option Bool :=
  match f.wait with
  | .latch p b _ => if f.live && p = q then some b else none
  | _ => none

/-- `mma`, `ald.frag` and `ast.frag`: R44's conditions raise GANG_INVALID at the arrival. Else the fibre waits until every live fibre of
every listed squad waits there. When the last arrives, all having passed, they go on; some squads having passed and some arrived,
the last raises GANG_INVALID; all having arrived at an `mma` whose operands R280 accepts, it is released once, with the values of the
lowest fibre, and all go on. A fragment transfer is a step of its own, and its fibres still wait. -/
def TheBelayLatch : Prop :=
  ∀ (i : Instr) (x : X) (q : Nat) (s : State) (r : Run) (b : Bool), gangRule i = some (x, q) → Arrives r i x s b → r.g.halt = .none →
    let squads := (List.range 32).filter fun n => (r.g.gangs.getD q 0#32).getLsbD n
    -- a fibre other than this one, by index
    let other (j : Nat) (f : Fib) := r.g.fibs[j]? = some f ∧ j ≠ r.k
    let bad := squads.length < 2 ∨ squads.length > 6 ∨ ¬ (r.k / 32 ∈ squads) ∨
      (∃ n ∈ squads, ¬ ∃ j f, r.g.fibs[j]? = some f ∧ j / 32 = n ∧ f.live = true) ∨
      (∃ j f c, other j f ∧ latched q f = some c ∧ (f.pc ≠ r.f.pc ∨ (j / 32 = r.k / 32 ∧ c ≠ b)))
    let complete := ∀ j f, other j f → j / 32 ∈ squads → f.live = true → (latched q f).isSome = true
    let party (j : Nat) : Bool := decide (j / 32 ∈ squads) &&
      (decide (j = r.k) || ((r.g.fibs[j]?.bind (latched q)).isSome))
    let go (len : Nat) (j : Nat) (f : Fib) : Fib :=
      if party j then
        (if j = r.k then { r.f with started := true, critn := r.f.critn - 1, cand := false } else f.issued false).advance s.clock len
      else f
    let stay (j : Nat) (f : Fib) : Fib :=
      if party j then { (if j = r.k then { r.f with started := true, cand := false } else f) with wait := .none } else f
    let all (c : Bool) := b = c ∧ ∀ j f d, other j f → j / 32 ∈ squads → latched q f = some d → d = c
    -- who waits there waits at this instruction
    let alike : Prop := ∀ (j : Nat) (f : Fib) (c : Bool) (p : Instr), r.g.fibs[j]? = some f → f.wait = .latch q c p → f.live = true → p = i
    -- no live fibre of squad `n` has arrived
    let passed (n : Nat) : Prop := (r.k / 32 = n → b = false) ∧ ∀ j f d, other j f → j / 32 = n → latched q f = some d → d = false
    (bad → r.Traps i s cGangInvalid q) ∧
    (¬ bad → ¬ complete → r.Blocks i s (.latch q b i)) ∧
    (¬ bad → complete → all false → alike →
      exec i s = .next { s with d := (s.d.popped r.rest).modWg r.w fun h => { h with fibs := h.fibs.mapIdx (go x.len) } }) ∧
    (¬ bad → complete → (∃ n ∈ squads, passed n) → (∃ n ∈ squads, ¬ passed n) →
      exec i s = .next (s.put (((s.d.popped r.rest).modWg r.w fun h => { h with fibs := h.fibs.mapIdx stay }).raise s.env r.w r.k
        cGangInvalid q))) ∧
    (¬ bad → complete → all true → i ≠ .mma x → alike →
      r.Blocks i s (.latch q b i)) ∧
    (¬ bad → complete → all true → i = .mma x → alike →
      r.g.mops.length < 16 → (∀ o ∈ s.d.ops, o.wg ≠ r.w) →
      let lead := ((List.range r.g.fibs.length).filter party).headD 0
      ∀ f, r.g.fibs[lead]? = some f →
        let scaled := slScale (r.l.r.fmt.getD x.slot 0#32) ≠ 0 ∨ slScale (r.l.r.fmt.getD (x.m.toNat / 2 ^ 5 % 8) 0#32) ≠ 0
        let o : MOp :=
          { id := 0, kind := .mma, fib := lead, arrivals := (List.range r.g.fibs.length).filter party, ord := 0, relAt := 0, m := x.m
            a := srcA s.clock r.g f x 2, b := srcB s.clock r.g f x 2, c := if scaled then srcC f x 2 else 0 }
        mmaCheck r.g r.l o ((encode i).headD 0#32).toNat = none →
        let gone := (released s o (s.d.popped r.rest) r.w).modWg r.w fun h => { h with fibs := h.fibs.mapIdx (go x.len) }
        exec i s = .next { s with d := gone })

/-- MATRIX_OP_START of the next operation of a free engine: it starts. MATRIX_STEP_COMPLETE of an `aclr`, an `acvt` or an `mma`: the step's
tile holds the result, and the last step frees the engine and ends the operation (R267 to R269, R281, R284, R287). -/
def MatrixSteps : Prop :=
  ∀ (s : State) (g : WG) (o : MOp) (l : Launch), s.d.wb = [] → s.d.wg? s.d.arg.a = some g →
    (g.mops.find? fun p => p.id = s.d.arg.b) = some o → s.d.launch? g.launch = some l → g.frozen = false → g.handling = false →
    let array := decide (o.kind = .mma)
    let engine (v : Option Nat) (d : Dev) : Dev :=
      d.modCore g.core fun k => if array then { k with arrayBusy := v } else { k with accBusy := v }
    let begun (p : MOp) : MOp :=
      if p.id = s.d.arg.b then { p with started := true, startAt := s.clock, mark0 := p.mark, vecs := o.vecs } else p
    let stepped (p : MOp) : MOp := if p.id = s.d.arg.b then { p with mark := p.mark + 1, held := false } else p
    (o.started = false → g.stopping = false → s.d.mopNext g.core array = some (s.d.arg.a, s.d.arg.b) → o.kind ≠ .ascl →
      exec .matrixOpStart s = .next { s with d := (engine (some s.d.arg.b) s.d).modWg s.d.arg.a fun h => { h with mops := h.mops.map begun } }) ∧
    (o.started = true → o.halted = false → o.tag = 0 → ∀ (z : Nat) (ws : List Word),
      ((o.kind = .aclr ∧ z = zt o.m + o.mark ∧ ws = List.replicate 1024 (BitVec.ofNat 32 o.b)) ∨
       (o.kind = .acvt ∧ z = zt o.m + o.mark ∧
        ws = (List.range 1024).map fun j => BitVec.ofNat 32 (acvtElem o.m (Table.get 0#32 g.tiles (1024 * z + j)).toNat)) ∨
       (o.kind = .mma ∧ mmaTile g l o o.mark = some (z, ws))) →
      let tile (t : Table Word) : Table Word := ws.zipIdx.foldl (fun t p => Table.set 0#32 t (1024 * z + p.2) p.1) t
      let d := s.d.modWg g.id fun h => { h with tiles := tile h.tiles }
      (o.mark + 1 < o.steps →
        exec .matrixStepComplete s = .next { s with d := d.modWg s.d.arg.a fun h => { h with mops := h.mops.map stepped } }) ∧
      (¬ o.mark + 1 < o.steps →
        let ended := (engine none d).modWg s.d.arg.a fun h => { h with mops := h.mops.filter fun p => p.id ≠ s.d.arg.b }
        exec .matrixStepComplete s = .next { s with d := ended }))

/-- FRAGMENT_TRANSFER of a latch whose members have all arrived, no operation naming its tile and no older access open: `ald.frag` puts
every live owner's words into the tile's elements it owns, `ast.frag` the elements into its words, full; all go on within 8 cc. A
fragment beyond column 32 raises ILLEGAL_OPERAND at the lead fibre (R286). -/
def FragmentTransfers : Prop :=
  ∀ (s : State) (i : Instr) (x : X) (w q : Nat) (g : WG) (lead : Fib), s.d.wb = [] → s.d.arg.a = w → s.d.arg.b = q →
    gangRule i = some (x, q) → i ≠ .mma x → (s.d.wgs.filter fun h => h.id = w) = [g] → s.d.wg? w = some g → g.halt = .none →
    latchState g q = .arrived i → s.d.fragReady g q = true →
    let squads := (List.range 32).filter fun n => (g.gangs.getD q 0#32).getLsbD n
    let is := latchParty g q
    g.fib? (is.headD 0) = some lead →
    let nw := x.m.toNat / 2 ^ 13 % 32 + 1
    let c := srcB s.clock g lead x 1
    (c + nw * squads.length > 32 →
      let stay (j : Nat) (f : Fib) : Fib := if is.contains j then { f with wait := .none } else f
      exec .fragmentTransfer s = .next (s.put ((s.d.modWg w fun h => { h with fibs := h.fibs.mapIdx stay }).raise s.env w (is.headD 0)
        cIllegalOperand ((encode i).headD 0#32).toNat))) ∧
    (c + nw * squads.length ≤ 32 → ∃ t g', exec .fragmentTransfer s = .next t ∧ t.mem = s.mem ∧ t.clock = s.clock ∧ t.d.ops = s.d.ops ∧
      t.d.wg? w = some g' ∧
      (∀ (n j : Nat) (f : Fib), squads[n]? = some j → ∀ p < 32, g.fib? (32 * j + p) = some f → f.live = true →
        ∃ f', g'.fib? (32 * j + p) = some f' ∧ f'.pc = f.pc + BitVec.ofNat 64 x.len ∧ f'.wait = .none ∧ f'.readyAt ≤ s.clock + 8 ∧
          (i = .astFrag x → ∀ u < nw, x.d.toNat + u < f.win.length → f'.word (x.d.toNat + u) = g.tileWord (zt x.m) (32 * p + c + nw * n + u)) ∧
          (i = .aldFrag x → Table.okFrom 0#32 0 g.tiles = true → ∀ u < nw,
            g'.tileWord (zt x.m) (32 * p + c + nw * n + u) = f.word (x.d.toNat + u))))

end Sys2Proof.Said

/-- mma and fragment moves at the Belay latch, and the steps of a matrix operation: all of the parts above. (R43, R44, R96, R277, R278,
R280, R281, R282, R286.) The model's own choices and readings in it: log 25. -/
def Obligations.GangMatrix : Prop := TheBelayLatch ∧ FragmentTransfers ∧ MatrixSteps

/-! ### R292 to R304: mesh output, interpolation, the output merger's instructions -/

namespace Sys2Proof.Said

/-- `mvtx`, `mprim` and `mend`: a vertex word quad, a primitive or a cull, and the counts, go to the work-group's mesh output; what lies
beyond the draw's limits raises ILLEGAL_OPERAND. -/
def MeshOutput : Prop :=
  ∀ (i : Instr) (x : X) (s : State) (r : Run), r.Of i x s →
    let a := srcA s.clock r.g r.f x 1
    let b := srcB s.clock r.g r.f x 1
    (i = .mvtx x →
      let w := 36 * a + 4 * (x.m.toNat / 2 ^ 23 % 16)
      let v := r.f.words x.b.toNat 4
      (a ≥ r.l.meshV → r.Illegal i s) ∧
      (a < r.l.meshV → r.Does i s (r.next x s) fun d => d.modWg r.w fun h =>
        { h with mesh := ([0, 1, 2, 3].zip v).foldl (fun t p => Table.set 0#32 t (w + p.1) p.2) h.mesh })) ∧
    (i = .mprim x →
      -- vertices of a primitive; without a pass, three
      let n := ((s.d.pass? r.l.pass).map Pass.topo).getD 2 + 1
      let cull := x.m.getLsbD 23
      (a ≥ r.l.meshP ∨ (cull = false ∧ b ≥ 256 ^ n) → r.Illegal i s) ∧
      (a < r.l.meshP → (cull = true ∨ b < 256 ^ n) → r.Does i s (r.next x s) fun d => d.modWg r.w fun h =>
        { h with prims := Table.set 0#32 h.prims a (if cull then 0#32 else BitVec.ofNat 32 (2 ^ 31 + b)) })) ∧
    (i = .mend x →
      (a > r.l.meshV ∨ b > r.l.meshP → r.Illegal i s) ∧
      (a ≤ r.l.meshV → b ≤ r.l.meshP →
        (∀ h ∈ r.g.fibs, match h.wait with
          | .conv .. => False
          | .latch .. => False
          | _ => True) →
        r.Does i s { issuedFib r.g r.f with live := false, wait := .none, cand := false, trav := none,
                                            readyAt := s.clock + 1 } fun d =>
          { (d.modWg r.w fun h => { h with mends := h.mends ++ [(r.k, a, b)] }) with
            ops := d.ops.map fun o => if o.wg = r.w && o.fib = r.k then { o with discard := true } else o }))

/-- `attr` in a pixel fibre of an open pass that holds its primitive: D takes the word interpolated at the pixel's centre, at its centroid,
or at sample B; `.flat` takes the provoking vertex's. A sample beyond the pass's count raises ILLEGAL_OPERAND. A fibre without a pixel,
and a word that the primitive does not have, give a free value. `pxdisc` clears coverage bits. -/
def InterpolationAndDiscard : Prop :=
  ∀ (i : Instr) (x : X) (s : State) (r : Run), r.Of i x s →
    let b := srcB s.clock r.g r.f x 1
    let put (w : Word) : Fib := ((issuedFib r.g r.f).setWords x.d.toNat [w]).advance s.clock x.len
    let free := r.Does i s (put (Config.freeWord s.d.fresh)) fun d => { d with fresh := d.fresh + 1 }
    (i = .attr x →
      let loc := x.m.toNat / 2 ^ 25 % 4
      let mode := x.m.toNat / 2 ^ 23 % 4
      let j := x.m.toNat / 2 ^ 27
      (r.f.pixel = none → free) ∧
      (∀ p, r.f.pixel = some p → loc = 2 → b ≥ p.s → r.Illegal i s) ∧
      (∀ p, r.f.pixel = some p → (loc ≠ 2 ∨ b < p.s) → (s.d.pass? r.l.pass).bind (·.prim? p) = none → free) ∧
      (∀ p q, r.f.pixel = some p → (loc ≠ 2 ∨ b < p.s) → (s.d.pass? r.l.pass).bind (·.prim? p) = some q →
        (j ≥ q.flat.length → free) ∧
        (j < q.flat.length → mode = 2 → r.Goes i s (put (q.flat.getD j 0#32))) ∧
        (j < q.flat.length → mode ≠ 2 →
          let low := ((List.range p.s).filter fun n => p.cov0.testBit n).headD 0
          let point : Int × Int :=
            if loc = 2 then sampleAt p.s p.x p.y b
            else if loc = 1 ∧ p.cov0 ≠ 0 ∧ p.cov0 ≠ 2 ^ p.s - 1 then sampleAt p.s p.x p.y low
            else (256 * p.x + 128, 256 * p.y + 128)
          let ws := if mode = 0 then q.persp point.1 point.2 else q.lambda point.1 point.2
          let terms := (ws.zip q.attrs).map fun v => (mulTerm (fF32.val (weightWord v.1)) (fF32.val (v.2.getD j 0#32).toNat)).1
          r.Goes i s (put (BitVec.ofNat 32 (sumTo fF32 rne false terms).1))))) ∧
    (i = .pxdisc x →
      r.Goes i s { r.next x s with pixel := r.f.pixel.map fun p => { p with cov := p.cov &&& (2 ^ p.s - 1 - b % 2 ^ p.s) } })

end Sys2Proof.Said

/-- Mesh output, interpolation and coverage discard: all of the parts above. (R294, R296, R297, R298, R299, R300.) The model's own choices
and readings in it: logs 10, 27. -/
def Obligations.MeshAndPixelInstructions : Prop := MeshOutput ∧ InterpolationAndDiscard

namespace Sys2Proof.Said

/-- `omst`, `omld` and `kbins` in a pixel fibre of an open pass: an unbound target, a sample beyond the count or a misplaced pair raises
ILLEGAL_OPERAND; the second word of a pair that is empty raises FE_EMPTY or is waited for; nothing covered, or nothing to insert, only goes on;
a full queue blocks, and the tag rules may hold a write; else the access joins the merger's queue with the pixel's state, the data read at
issue and, where it writes, a tag, and `omld` marks D empty. -/
def MergerAccessesIssue : Prop :=
  ∀ (i : Instr) (x : X) (s : State) (r : Run) (p : Pixel) (ps : Pass), r.Of i x s → r.f.pixel = some p → s.d.pass? r.l.pass = some ps →
    (∀ o ∈ s.d.ops, o.id ≤ s.d.nextId) →
    let eng := 8 * ps.clu + (p.x / 32 + p.y / 32) % 8
    let full := s.d.mergerLoad eng ≥ 1024
    let t := ps.target (x.m.toNat / 2 ^ 23 % 16)
    let n := if t.b = 8 then 2 else 1
    -- the second word of a pair
    let misplaced (w : Nat) := t.b = 8 ∧ (w % 2 = 1 ∨ w + 1 ≥ r.l.r.w)
    let absent (w : Nat) := t.b = 8 ∧ r.f.emp.contains (w + 1) = true ∧ r.f.hnd = false
    let held := r.tagBlocked s none = true
    let sent (k : OpKind) (data : List Word) (dst dn mark : Nat) (f : Fib) : Prop :=
      let due := s.clock + 1 + (s.d.choose 64).1
      let id := s.d.nextId + 1
      let o : Op :=
        { id := id, kind := k, wg := r.w, fib := r.k, ord := r.g.issue, grp := r.num s, tag := tagIf (k ≠ .omld) s r, core := r.g.core
          addr := ps.id, m := x.m, act := if k = .omld then .read else .write [], parts := ps.mergeParts k t p.x p.y p.cov mark
          st := [p.x, p.y, p.cov, p.draw, p.g, p.p].map (BitVec.ofNat 32) ++ data, due := due, sentAt := s.clock, dst := dst, dn := dn
          mark := mark }
      s.clock < due ∧ due ≤ s.clock + 64 ∧ r.Does i s f fun d =>
        let d := tagTaken (k ≠ .omld) s r { d.afterChoice with nextId := id + 1, ops := d.ops ++ [o] }
        d.modWg r.w fun h => { h with issue := h.issue + 1 }
    (i = .omst x →
      let wrong := t.bound = false ∨ (x.ak = false ∧ misplaced x.a.toNat)
      (wrong → r.Illegal i s) ∧
      let gap := x.ak = false ∧ absent x.a.toNat
      (¬ wrong → gap → x.fa = true → r.Traps i s cFeEmpty (x.a.toNat + 1)) ∧
      (¬ wrong → gap → x.fa = false → r.Blocks i s (.words [x.a.toNat + 1] [])) ∧
      (¬ wrong → ¬ gap → p.cov = 0 → r.Goes i s (r.next x s)) ∧
      (¬ wrong → ¬ gap → p.cov ≠ 0 → full → r.Blocks i s (.merger eng)) ∧
      (¬ wrong → ¬ gap → p.cov ≠ 0 → ¬ full → held → r.TagHeld i s none) ∧
      (¬ wrong → ¬ gap → p.cov ≠ 0 → ¬ full → ¬ held → sent .omst (natWords n (srcA s.clock r.g r.f x n)) 0 0 0 (r.next x s))) ∧
    (i = .omld x →
      let b := srcB s.clock r.g r.f x 1
      let wrong := b ≥ p.s ∨ t.bound = false ∨ misplaced x.d.toNat
      (wrong → r.Illegal i s) ∧
      (¬ wrong → absent x.d.toNat → r.Blocks i s (.words [x.d.toNat + 1] [])) ∧
      (¬ wrong → ¬ absent x.d.toNat → full → r.Blocks i s (.merger eng)) ∧
      (¬ wrong → ¬ absent x.d.toNat → ¬ full → sent .omld [] x.d.toNat n b (((issuedFib r.g r.f).empty x.d.toNat n).advance s.clock x.len))) ∧
    (i = .kbins x →
      let depth := srcA s.clock r.g r.f x 1
      let idle := p.cov = 0 ∨ ps.kb = false ∨ (fF32.val depth).isNaN = true
      (idle → r.Goes i s (r.next x s)) ∧
      (¬ idle → full → r.Blocks i s (.merger eng)) ∧
      (¬ idle → ¬ full → held → r.TagHeld i s none) ∧
      (¬ idle → ¬ full → ¬ held → sent .kbins (BitVec.ofNat 32 depth :: natWords 2 (srcB s.clock r.g r.f x 2)) 0 0 0 (r.next x s)))

/-! ### R305 to R316: samplers and traversal -/

/-- `smp`, `tld`, `trace` and `trcont`: the operation is on its way with the words read at issue, D (and DX) wait for its result, and the
fibre goes on. A pointer that R306 refuses traps; a `trcont` without a candidate, reserved flags of `trace`, and a B above 2 raise
ILLEGAL_OPERAND; a `trace` whose last record has not landed waits for it. -/
def SamplersAndTraversalIssue : Prop :=
  ∀ (i : Instr) (x : X) (s : State) (r : Run), r.Of i x s →
    let f := issuedFib r.g r.f
    let id := s.d.nextId + 1
    let pointer (q : Nat) := resolve r.g { f with hnd := true } r.l r.k q 64 [0, 3, 4] 1 true false
    let n := x.m.toNat / 2 ^ 24 % 4 + 1
    let due := s.clock + 1 + (s.d.choose 64).1
    let sent (o : Op) (h : Fib) : Prop := s.clock < due ∧ due ≤ s.clock + 64 ∧ r.Does i s (h.advance s.clock x.len) fun d =>
      let d := { d.afterChoice with nextId := id + 1, ops := d.ops ++ [{ o with due := due }] }
      d.modWg r.w fun h => { h with issue := h.issue + 1 }
    let op (k : OpKind) (q : Nat) : Op :=
      { id := id, kind := k, wg := r.w, fib := r.k, ord := r.g.issue, grp := if k = .trav then r.num s else s.d.nextId, dst := x.d.toNat
        core := r.g.core, addr := q, m := x.m, sentAt := s.clock }
    let texture (k : OpKind) (words : List Word) :=
      let q := r.f.nat x.a.toNat 2
      (∀ c v, pointer q = .error (c, v) → r.Traps i s c v) ∧
      (∀ va, pointer q = .ok (.glob va) →
        sent { op k q with dn := n, dxp := some x.dx.toNat, size := va, st := words } ((f.empty x.d.toNat n).pendPred x.dx.toNat))
    let running := s.d.ops.find? fun o => o.wg = r.w && o.fib = r.k && o.kind = .trav
    (i = .smp x →
      let lod := x.m.toNat / 2 ^ 27 % 4
      texture .smp (r.f.words x.b.toNat 3 ++ r.f.words x.c.toNat (if lod = 0 then 1 else if lod = 1 then 4 else 0))) ∧
    (i = .tld x → texture .tld (r.f.words x.b.toNat 4)) ∧
    (i = .trace x →
      let q := r.f.nat x.b.toNat 2
      let flags := r.f.word x.c.toNat
      let ray := r.f.words x.a.toNat 8
      (∀ o, running = some o → r.Blocks i s (.words ((List.range 8).map (o.dst + ·)) [])) ∧
      (running = none → flags.toNat / 2 ^ 12 % 2 ^ 20 ≠ 0 → r.Illegal i s) ∧
      (running = none → flags.toNat / 2 ^ 12 % 2 ^ 20 = 0 →
        (∀ c v, pointer q = .error (c, v) → r.Traps i s c v) ∧
        (∀ va, pointer q = .ok (.glob va) → sent { op .trav q with dn := 8 } { f.empty x.d.toNat 8 with
          trav := some { ptr := q, ord := r.g.issue, ray := ray, flags := flags, root := va, inst := 0, refs := [mkRef va 255 false], commit := []
                         commitKey := [], cand := [], candKey := [], tcur := ray.getD 7 0#32, stage := 0 } }))) ∧
    (i = .trcont x →
      let b := srcB s.clock r.g r.f x 1
      (r.f.trav = none → r.Illegal i s) ∧
      (∀ t, r.f.trav = some t → t.stage ≠ 1 ∨ running.isSome = true ∨ b > 2 → r.Illegal i s) ∧
      (∀ t, r.f.trav = some t → t.stage = 1 → running = none → b ≤ 2 →
        let t0 : Trav := { t with stage := 0, cand := [], candKey := [] }
        let t' : Trav :=
          -- pass over the candidate, commit it, or commit it and end
          if b = 0 then t0
          else if b = 1 then t0.commitHit t.cand t.candKey
          else { t0 with commit := withStatus 1 t.cand, commitKey := t.candKey, tcur := t.cand.getD 1 0#32, refs := [] }
        sent { op .trav t.ptr with dn := 8 } { f.empty x.d.toNat 8 with trav := some t' }))

/-! ### R365 to R374: the privileged instructions -/

/-- A register of R365 and R366 as a fibre reads it: its width in words and its value; `b` names the fibre of `%frec`. -/
def systemRegister (s : State) (r : Run) (n b : Nat) : Option (Nat × Nat) :=
  let f := issuedFib r.g r.f
  match n with
  | 0x000 => some (1, (f.critn * 2 ^ 12 + (if f.hnd then 2 else 0) + (if f.priv then 1 else 0)) % 2 ^ 32)
  | 0x010 => some (1, r.g.tcause.toNat)
  | 0x011 => some (1, r.g.tpc.toNat)
  | 0x012 => some (2, r.g.tval.toNat)
  | 0x018 => some (2, (r.g.tscr.getD 0 0#64).toNat)
  | 0x019 => some (2, (r.g.tscr.getD 1 0#64).toNat)
  | 0x01A => some (2, (r.g.tscr.getD 2 0#64).toNat)
  | 0x01B => some (2, (r.g.tscr.getD 3 0#64).toNat)
  | 0x020 => some (2, r.g.ctx.ctxd)
  | 0x030 => some (1, s.d.hub.fswap)
  | 0x040 => some (2, (r.g.waddr.getD 0 0#64).toNat)
  | 0x041 => some (2, (r.g.waddr.getD 1 0#64).toNat)
  | 0x044 => some (1, r.g.wctl.toNat)
  | 0x050 =>
    match r.g.fib? b with
    | none => none
    | some h =>
      let h := if b = r.k then f else h
      -- the trapping fibre, in its handler, resumes at `%tpc`
      let pc := if h.hnd = true ∧ r.g.handling = true ∧ r.g.tcause.toNat / 2 ^ 8 % 2 ^ 10 = b then r.g.tpc.toNat else h.pc.toNat % 2 ^ 32
      some (2, pc + 2 ^ 32 * (h.pcause % 2 ^ 8) + (if h.live then 0 else 2 ^ 40) + 2 ^ 41 * (h.skid % 8))
  | _ => none

/-- `sysrd` writes a system register to D; `syswr` writes Src(A) to a writable one, keeping its read-only fields. An index beyond F_cap,
a watch size above 16 and a write to `%fswap` without FSVC trap. -/
def SystemRegisters : Prop :=
  ∀ (i : Instr) (x : X) (s : State) (r : Run), r.Of i x s →
    let f := issuedFib r.g r.f
    let n := x.m.toNat / 2 ^ 20
    let b := srcB s.clock r.g r.f x 1
    let v1 := srcA s.clock r.g r.f x 1
    let v2 := BitVec.ofNat 64 (srcA s.clock r.g r.f x 2)
    (i = .sysrd x →
      (n = 0x050 → b ≥ r.l.r.fcap → r.Illegal i s) ∧
      (∀ k v, (n = 0x050 → b < r.l.r.fcap) → systemRegister s r n b = some (k, v) →
        r.Goes i s ((f.setWords x.d.toNat (natWords k v)).advance s.clock x.len))) ∧
    (i = .syswr x →
      (∀ j < 4, n = 0x018 + j → r.Does i s (r.next x s) fun d => d.modWg r.w fun h => { h with tscr := putAt v2 h.tscr j }) ∧
      (∀ j < 2, n = 0x040 + j → r.Does i s (r.next x s) fun d => d.modWg r.w fun h => { h with waddr := putAt v2 h.waddr j }) ∧
      (n = 0x044 →
        (v1 % 2 ^ 6 > 16 ∨ v1 / 2 ^ 8 % 2 ^ 6 > 16 → r.Illegal i s) ∧
        (v1 % 2 ^ 6 ≤ 16 → v1 / 2 ^ 8 % 2 ^ 6 ≤ 16 →
          r.Does i s (r.next x s) fun d => d.modWg r.w fun h => { h with wctl := BitVec.ofNat 32 (v1 % 2 ^ 16) })) ∧
      (n = 0x030 →
        (r.g.ctx.fsvc = false → r.Traps i s cAccessDenied 0) ∧
        (r.g.ctx.fsvc = true → r.Does i s (r.next x s) fun d => { d with hub := { d.hub with fswap := v1 % 2 ^ 24 } })))

/-- `tret` in modes 0 to 2: handler mode ends, the trapping fibre has its privilege back and continues at `%tpc`, behind the instruction
there, or at Src(A); every fibre goes on with its skid and pending cause cleared, the frozen operations replay, and a pre-emption that was
requested meanwhile begins now. `tret.kill` posts the lane H record and ends the work-group. -/
def HandlerReturns : Prop :=
  ∀ (i : Instr) (x : X) (s : State) (r : Run), r.Of i x s →
    let trapper := r.g.tcause.toNat / 2 ^ 8 % 2 ^ 10
    let tpc := r.g.tpc.toNat
    let t := srcA s.clock r.g r.f x 1
    let asked := r.g.halt = .preempt
    let returns (d : Dev) (pc : Nat) := exec i s = .next (s.put ((d.modWg r.w fun h =>
      { h with
        fibs := h.fibs.mapIdx fun j q =>
          let q : Fib := { q with skid := 0, stuck := false, pcause := 0 }
          let q : Fib := if j = h.tcause.toNat / 2 ^ 8 % 2 ^ 10 then
            { q with pc := BitVec.ofNat 64 pc, priv := q.privBefore, privBefore := false, hnd := false, critn := 0, wait := .none } else q
          { q with readyAt := max q.readyAt (s.clock + 1) }
        handling := false, trap := none, halt := if asked then .preempt else .none, haltAt := if asked then s.clock else h.haltAt
        stopped := false, frozen := false, skidMax := 0, asyncs := h.asyncsLater ++ h.asyncs, asyncsLater := [] }).replay s.env r.w))
    (i = .tretRetry x → returns (r.dev s) tpc) ∧
    (i = .tretSkip x →
      ∀ v d, (r.dev s).fetchWord s.env r.wg { issuedFib r.g r.f with hnd := false } r.l tpc = (.ok v, d) →
        returns d (tpc + match v.toNat % 4 with
          | 0 => 4
          | 3 => 20
          | _ => 12)) ∧
    (i = .tretAt x →
      (t % 4 = 0 → t < r.l.r.tsize → returns (r.dev s) t) ∧
      (¬ (t % 4 = 0 ∧ t < r.l.r.tsize) → r.Illegal i s)) ∧
    (i = .tretKill x → (s.d.core r.g.core).laneH < 64 →
      let c := r.g.tcause.toNat % 2 ^ 8
      let async := r.g.tcause.getLsbD 31
      ∃ d, exec i s = .next { s with d := d } ∧
        d.laneH = s.d.laneH ++
          [{ seq := s.d.evSeq, core := r.g.core, part := r.l.part, ctx := r.g.ctx.ctxid
             data := leBytes 8 s.d.evSeq ++ leBytes 2 (r.g.ctx.ctxid % 2 ^ 12) ++ leBytes 2 r.g.core ++ leBytes 1 r.g.slot ++ leBytes 1 c ++
               leBytes 1 (if async then 6 else 4) ++ [0#8] ++ leBytes 8 (r.g.wid + trapper) ++ leBytes 4 tpc ++ leBytes 4 trapper ++
               leBytes 8 r.g.tval.toNat ++ List.replicate 24 0#8 }] ∧
        d.evSeq = s.d.evSeq + 1 ∧
        d.ops = (s.d.ops.filter fun o => o.wg ≠ r.w) ∧
        (∃ h, d.wg? r.w = some h ∧ (∀ q ∈ h.fibs, q.live = false) ∧ h.mops = [] ∧ h.halt = .none ∧ h.handling = false) ∧
        (∀ w, w ≠ r.w → d.wg? w = s.d.wg? w) ∧
        d.launches = s.d.launches.map fun l =>
          if l.id = r.g.launch then { l with ntrap := l.ntrap + 1, detail := if l.ntrap = 0 then c else l.detail } else l)

/-- `tmask`, `cachex`, `mtuinv`, `frmput` and `wgctl`. -/
def PrivilegedControl : Prop :=
  ∀ (i : Instr) (x : X) (s : State) (r : Run), r.Of i x s →
    let f := issuedFib r.g r.f
    let mode := x.m.toNat / 2 ^ 23 % 4
    let a := r.f.nat x.a.toNat 2
    let n := srcB s.clock r.g r.f x 1
    let t := srcA s.clock r.g r.f x 1
    -- acknowledged within `most` cc; the fibre blocks until then
    let acked (most : Nat) (f : Fib) (c : Dev → Dev) : Prop :=
      let u := s.clock + 1 + (s.d.choose most).1
      s.clock < u ∧ u ≤ s.clock + most ∧ r.Does i s { f.advance s.clock x.len with wait := .ack u, cand := false } fun d => c d.afterChoice
    (i = .tmaskCrit x →
      (r.f.critn ≠ 0 → r.Goes i s (r.next x s)) ∧ (r.f.critn = 0 → r.Goes i s { r.next x s with critn := 256, critAt := s.clock })) ∧
    (i = .tmaskEnd x → r.Goes i s { r.next x s with critn := 0 }) ∧
    -- the fibre stands at its instruction until the action is acknowledged
    (i = .cachex x →
      let u := s.clock + 1 + (s.d.choose 512).1
      s.clock < u ∧ u ≤ s.clock + 512 ∧ r.Does i s { r.f with started := true, wait := .cachex u, cand := false } fun d => d.afterChoice.modCore r.g.core fun c =>
      { c with
        l1 := if mode = 0 ∨ mode = 3 then [] else c.l1
        cc := if mode = 1 ∨ mode = 3 then [] else c.cc
        wtabs := if mode = 2 ∨ mode = 3 then c.wtabs.filter fun p => p.2 ≠ r.g.ctx.ctxid else c.wtabs }) ∧
    ((i = .mtuinvInv x ∨ i = .mtuinvRel x) →
      let covered (p : Nat) : Bool := decide (a / 2 ^ 16 ≤ p) && decide (p < a / 2 ^ 16 + n)
      let bad := a % 2 ^ 16 ≠ 0 ∨ a ≥ 2 ^ 52 ∨ n = 0 ∨ n > 512
      let open_ := s.d.olderOpen r.w r.k (s.d.nextId + 1) = true
      (r.g.ctx.fsvc = false → r.Traps i s cAccessDenied 0) ∧
      (r.g.ctx.fsvc = true → bad → r.Illegal i s) ∧
      (r.g.ctx.fsvc = true → ¬ bad → open_ → r.Blocks i s (.ops (s.d.nextId + 1) false)) ∧
      -- no large page is among them, and no line of them is dirty
      (r.g.ctx.fsvc = true → ¬ bad → ¬ open_ →
        (∀ p, covered p = true → ((s.d.popped r.rest).modFib r.w r.k fun _ => f).afterChoice.largeAt s.env p = false) →
        (∀ l ∈ s.d.l2, l.dirty = false) →
        acked 48 f fun d =>
          { d with
            l2 := d.l2.filter fun l => !covered (l.line / 512)
            agenda := d.agenda ++ (if i = .mtuinvRel x then
              ((d.eps.filter fun p => covered p.page).map fun p => Todo.ev .episodeRelease p.page 0 0 []) else []) })) ∧
    (i = .frmput x →
      let size := if mode = 1 then 2 ^ 25 else 2 ^ 16
      let bad := a % size ≠ 0 ∨ a + size > 192 * 10 ^ 9
      let room : Bool := if mode = 1 then s.d.fifoL.length < 64 else s.d.fifoS.length < 8192
      (r.g.ctx.fsvc = false → r.Traps i s cAccessDenied 0) ∧
      (r.g.ctx.fsvc = true → bad → r.Illegal i s) ∧
      -- no request waits for a frame
      (r.g.ctx.fsvc = true → ¬ bad → (∀ o ∈ s.d.ops, ∀ p ∈ o.parts, p.st ≠ .fill) →
        acked 48 (f.setPred x.dx.toNat room) fun d =>
          { d with
            fifoS := if room ∧ mode ≠ 1 then d.fifoS ++ [a] else d.fifoS
            fifoL := if room ∧ mode = 1 then d.fifoL ++ [a] else d.fifoL })) ∧
    (i = .wgctlYield x →
      r.Does i s (r.next x s) fun d => { d with agenda := d.agenda ++ [.ev .preemptRequest r.w 0 0 []] }) ∧
    (i = .wgctlSetpc x →
      let good := t < r.l.r.fcap ∧ t ≠ r.k ∧ n % 4 = 0 ∧ n < r.l.r.tsize
      (good → r.Does i s (r.next x s) fun d =>
        d.modFib r.w t fun h => { h with pc := BitVec.ofNat 64 n, pcause := 0, wait := .none }) ∧
      (¬ good → r.Illegal i s)) ∧
    (i = .wgctlKill x →
      let good := t < r.l.r.fcap ∧ t ≠ r.k
      (¬ good → r.Illegal i s) ∧
      (good → (∀ h, r.g.fib? t = some h → h.live = false) → r.Goes i s (r.next x s)) ∧
      (good → (∃ h, r.g.fib? t = some h ∧ h.live = true) →
        (∀ h ∈ r.g.fibs, match h.wait with
          | .conv .. => False
          | .latch .. => False
          | _ => True) →
        r.Does i s (r.next x s) fun d =>
          { d.modFib r.w t fun h => { h with live := false, wait := .none, cand := false, trav := none, readyAt := s.clock + 1 } with
            ops := d.ops.map fun o => if o.wg = r.w && o.fib = t then { o with discard := true } else o }))

end Sys2Proof.Said

/-- sysrd, syswr, tret, tmask, cachex, mtuinv, frmput and wgctl in supervisor mode: all of the parts above. (R365, R366, R367, R369, R370,
R371, R372, R373, R374, R424, R425.) The model's own choices and readings in it: logs 15, 19, 40. -/
def Obligations.SystemInstructions : Prop := SystemRegisters ∧ HandlerReturns ∧ PrivilegedControl

/-! ### R301, R305 to R331: units of graphics and traversal -/

namespace Sys2Proof.Said

/-- What the samplers or the traversal unit found for an operation lands, once the fibre's older writes are performed: its words go to D
and its flag to DX; a fibre that has exited takes nothing, and a decoded latent texture's weight table is bound to the context. A traversal
goes on from step to step; a candidate found lands at most 16 cc later, its state standing, and its final record ends it. -/
def TexturesAndTraversalsLand : Prop :=
  ∀ (s : State) (o : Op) (g : WG) (f : Fib), s.d.wb = [] → s.d.op? s.d.arg.a = some o → o.frozen = false → o.tag = 0 →
    s.d.wg? o.wg = some g → g.fib? o.fib = some f → o.acq = false → o.poisoned = false →
    let waits := s.d.unitWaits o = true
    let gone (d : Dev) : Dev := { d with ops := d.ops.filter fun p => p.id ≠ o.id }
    let taken (h : Fib) (ws : List Word) (mark : Bool) : Fib :=
      let h := h.setWords o.dst (ws.take o.dn)
      let h := match o.dxp with
        | some p => { h.setPred p mark with pend := h.pend.filter (· ≠ p) }
        | none => h
      if h.wait = .op o.id then { h with wait := .none, readyAt := s.clock } else h
    let x : X := { twin 0#2 false with m := o.m }
    let sampler : Asker := { wg := o.wg, core := o.core, unit := 2, fsvc := g.ctx.fsvc }
    let lands (i : Instr) (d : Dev) (ws : List Word) (mark : Bool) :=
      d.wgs = s.d.wgs →
      (f.live = true → o.discard = false → exec i s = .next (s.put ((gone d).modFib o.wg o.fib fun h => taken h ws mark))) ∧
      (f.live = false ∨ o.discard = true → exec i s = .next (s.put (gone d)))
    let landed (i : Instr) (d : Dev) (latent : Bool) (ws : List Word) (mark : Bool) :=
      ((latent && mark) = false → lands i d ws mark) ∧
      ((latent && mark) = true → ∀ bs bad ia d', rdBytes s.env g sampler (o.size + 8) 8 d = (.ok bs bad, d') →
        rangeLookup g.rng (va57 (leNat bs)) = some ia →
        lands i (d'.modCore o.core fun k =>
          { k with wtabs := ((ia, g.ctx.ctxid) :: k.wtabs.filter fun p => p ≠ (ia, g.ctx.ctxid)).take 64 }) ws mark)
    (waits → o.kind = .smp → exec .sampleLands s = .next s) ∧
    (waits → o.kind = .tld → exec .texelLands s = .next s) ∧
    (¬ waits → ∀ ws mark d, o.kind = .smp → sampleRun s.env g sampler o.size x (o.st.take 3) (o.st.drop 3) s.d = (.ok (ws, mark) false, d) →
      landed .sampleLands d (decide (o.m.toNat / 2 ^ 29 ≥ 3)) ws mark) ∧
    (¬ waits → ∀ ws mark d, o.kind = .tld → texelRun s.env g sampler o.size x o.st s.d = (.ok (ws, mark) false, d) →
      landed .texelLands d (o.m.getLsbD 23) ws mark) ∧
    (waits → o.kind = .trav → f.trav.isSome = true → exec .traversalRecordLands s = .next s) ∧
    (¬ waits → ∀ t, o.kind = .trav → f.trav = some t →
      let unit : Asker := { wg := o.wg, core := o.core, unit := 3, fsvc := g.ctx.fsvc }
      let kept (d : Dev) (t : Option Trav) (ws : List Word) :=
        let stands := d.modFib o.wg o.fib fun h => { h with trav := t }
        d.wgs = s.d.wgs →
        (f.live = true → o.discard = false →
          exec .traversalRecordLands s = .next (s.put ((gone stands).modFib o.wg o.fib fun h => taken h ws (o.mark = 1)))) ∧
        (f.live = false ∨ o.discard = true → exec .traversalRecordLands s = .next (s.put (gone stands)))
      -- a candidate found before lands
      (t.stage = 2 → kept s.d (some { t with stage := 1 }) t.cand) ∧
      (t.stage ≠ 2 → ∀ ws d, visits s.env g unit 256 t s.d = (.done ws, d) → kept d none ws) ∧
      (t.stage ≠ 2 → ∀ t' d, visits s.env g unit 256 t s.d = (.more t', d) →
        exec .traversalRecordLands s = .next (s.put (d.modFib o.wg o.fib fun h => { h with trav := some t' }))) ∧
      (t.stage ≠ 2 → ∀ t' d, visits s.env g unit 256 t s.d = (.found t', d) →
        let due := s.clock + 1 + (d.choose 16).1
        let d := d.afterChoice.modFib o.wg o.fib fun h => { h with trav := some t' }
        s.clock < due ∧ due ≤ s.clock + 16 ∧
          exec .traversalRecordLands s = .next (s.put (d.modOp s.d.arg.a fun q => { q with due := due }))))

end Sys2Proof.Said

/-- smp, tld, trace and trcont issue, and their results land: all of the parts above. (R306, R310, R311, R313, R314, R315, R339, R343.) The
model's own choices and readings in it: logs 10, 28, 29. -/
def Obligations.SamplersAndTraversal : Prop := SamplersAndTraversalIssue ∧ TexturesAndTraversalsLand

namespace Sys2Proof.Said

/-- The merger performs an access in primitive order, each pixel's accesses of one fibre in issue order: it waits while an earlier one of
its pixel can still come, while its work-group halts, and behind its fibre's own accesses of the same bytes; then a store's samples are
written, a load's bytes are read, or a layer is inserted in the k-buffer; the tag of a write retires. -/
def MergerAccessesPerformed : Prop :=
  ∀ (s : State) (o : Op) (p : Pass), s.d.wb = [] → s.d.op? s.d.arg.a = some o → s.d.pass? o.addr = some p →
    let pix := ((o.st.getD 0 0#32).toNat, (o.st.getD 1 0#32).toNat)
    let cov := (o.st.getD 2 0#32).toNat
    let order (n : Nat) : Nat := (o.st.getD n 0#32).toNat
    -- an earlier primitive
    let before (a b c : Nat) : Prop := a < order 3 ∨ (a = order 3 ∧ (b < order 4 ∨ (b = order 4 ∧ c < order 5)))
    let merges (q : Op) : Prop := (q.kind = .omst ∨ q.kind = .omld ∨ q.kind = .kbins) ∧ q.ready = false ∧ q.addr = p.id
    let mustWait :=
      (∃ q ∈ s.d.ops, merges q ∧ q.id ≠ o.id ∧
        ((q.wg = o.wg ∧ q.fib = o.fib ∧ q.id < o.id) ∨
          (((q.st.getD 0 0#32).toNat, (q.st.getD 1 0#32).toNat) = pix ∧
            before (q.st.getD 3 0#32).toNat (q.st.getD 4 0#32).toNat (q.st.getD 5 0#32).toNat))) ∨
      (∃ g ∈ s.d.wgs, g.launch = p.launch ∧ g.place ≠ .retired ∧ ∃ h ∈ g.fibs, h.live = true ∧
        ∃ z, h.pixel = some z ∧ (z.x, z.y) = pix ∧ z.cov ≠ 0 ∧ before z.draw z.g z.p) ∨
      (∃ g, s.d.wg? o.wg = some g ∧ g.halt ≠ .none ∧ ¬ (g.halt = .trap ∧ g.handling = true)) ∨
      (∃ q ∈ o.parts, s.d.bytesBusy o q = true) ∨
      (∃ q ∈ p.quads, before q.draw q.g q.p ∧ ∃ j < 4, (q.x + j % 2, q.y + j / 2) = pix ∧ q.cov.getD j 0 ≠ 0)
    let k := mergeAsker p o
    let t := p.target (o.m.toNat / 2 ^ 23 % 16)
    let retired (d : Dev) : Dev :=
      if o.tag = 0 then d
      else d.modCore o.core fun k =>
        { k with gathered := k.gathered ++ [o.tag], gatheredAt := if k.gathered.isEmpty then s.clock else k.gatheredAt }
    -- a write is over: its tile has state in a binned pass
    let gone (d : Dev) : Dev :=
      let d := d.modPass p.id fun h =>
        if h.binned then { h with touched := insNat (h.tileNo (pix.1 / 32) (pix.2 / 32)) h.touched } else h
      retired { d with ops := d.ops.filter fun q => q.id ≠ s.d.arg.a }
    p.id = o.addr → o.frozen = false → o.ready = false →
    (mustWait → exec .mergerAccessPerformed s = .next s) ∧
    (¬ mustWait → o.kind = .omst → ∀ d,
      Dev.samplesWrite s.env p.id k o t pix.1 pix.2 (bytesOfWords (o.st.drop 6)) ((List.range p.samples).filter cov.testBit) s.d = (.done, d) →
      exec .mergerAccessPerformed s = .next (s.put (gone d))) ∧
    (¬ mustWait → o.kind = .omld → ∀ bs bad d, s.d.pixelRead s.env p k t pix.1 pix.2 o.mark = (.ok bs bad, d) →
      let due := s.clock + 1 + (d.choose 64).1
      s.clock < due ∧ due ≤ s.clock + 64 ∧
        exec .mergerAccessPerformed s = .next (s.put (d.afterChoice.modOp s.d.arg.a fun q =>
          { q with ready := true, res := wordsOfBytes bs, poisoned := bad, due := due }))) ∧
    (¬ mustWait → o.kind = .kbins → ∀ bs bad d0 d1 w d2, s.d.passProbe s.env p k (p.kAddr pix.1 pix.2) 128 = (.done, d0) →
      d0.passRead s.env p k (p.kAddr pix.1 pix.2) 128 = (.ok bs bad, d1) →
      d1.passWrite s.env p k o (p.kAddr pix.1 pix.2)
        (kBytes bs (kInsert (kLayers bs) (o.st.getD 6 0#32).toNat (wordsNat (o.st.drop 7)))) = (w, d2) →
      exec .mergerAccessPerformed s = .next (s.put (gone d2)))

end Sys2Proof.Said

/-- omst, omld and kbins: the entry made at issue, and its effect in primitive order: all of the parts above. (R301, R302, R303, R304, R331,
R390, R392, R395.) The model's own choices and readings in it: log 27. -/
def Obligations.MergerAccesses : Prop := MergerAccessesIssue ∧ MergerAccessesPerformed

namespace Sys2Proof.Said

/-- A list without the first `k` that `hit` picks. -/
def without (hit : Quad → Bool) : Nat → List Quad → List Quad
  | 0, l => l
  | _, [] => []
  | k + 1, q :: l => if hit q then without hit k l else q :: without hit (k + 1) l

end Sys2Proof.Said

/-- Primitives are set up from mesh work-groups in primitive order, each once it has ended; a region's pixel work-group forms when its quads
fill it or have waited 256 cc; a closed pass with nothing left to render ends. (R319, R321, R323, R325, R326, R327, R328, R329.) The model's
own choices and readings in it: logs 9, 27. -/
def Obligations.RasterStages : Prop :=
  ∀ (s : State) (p : Pass), s.d.wb = [] → s.d.pass? s.d.arg.a = some p → p.id = s.d.arg.a → s.d.passes.filter (fun h => h.id = p.id) = [p] →
    let passIs (q : Pass → Pass) : Dev := { s.d with passes := s.d.passes.map fun h => if h.id = p.id then q h else h }
    (∀ dr rest l g, p.begun = true → p.owed = [] → p.draws = dr :: rest → s.d.launch? dr = some l → p.nextMesh < l.r.groups →
      s.d.wgs.find? (fun g => g.launch = dr && g.gidx = p.nextMesh) = some g →
      -- it has not ended
      ((g.place = .waiting ∨ ∃ h ∈ g.fibs, h.live = true) → exec .primitiveSetup s = .next s) ∧
      -- it has
      (g.place = .retired → (∀ h ∈ g.fibs, h.live = false) → p.binned = false →
        -- of the lowest-indexed fibre that executed `mend`
        let counts := ((minBy (fun m => m.1) g.mends).map (·.2)).getD (0, 0)
        let parts := (List.range counts.2).map fun n => setupPrim p g l.meshA counts.1 n
        let d := passIs fun h =>
          { h with
            nextMesh := h.nextMesh + 1
            prims := h.prims ++ parts.flatten
            quads := h.quads ++ ((parts.filter fun qs => !qs.isEmpty).map fun qs => quadsOf p qs s.clock).flatten }
        exec .primitiveSetup s = .next { s with d :=
          { d with wgs := d.wgs.filter fun h => !(h.id = g.id && decide (h.place = .retired)) } })) ∧
    (let region := s.d.arg.b
     let waiting := p.quads.filter fun q => q.rx + 4096 * q.ry = region && q.open_
     let due := waiting ≠ [] ∧ p.begun = true ∧ (4 * waiting.length ≥ p.fpix ∨ ∀ q ∈ waiting, q.since + 256 ≤ s.clock)
     (¬ due → exec .pixelLaunchTimeout s = .next s) ∧
     (due → ∀ l n, s.d.launch? p.launch = some l → n < 16384 → p.numbers.contains n = false → (∀ m < n, p.numbers.contains m = true) →
       ∃ g d, exec .pixelLaunchTimeout s = .next { s with d := d } ∧ d.wgs = s.d.wgs ++ [g] ∧
         g.id = s.d.nextId ∧ g.launch = l.id ∧ g.gidx = n ∧ g.place = .waiting ∧
         (∀ j q, (waiting.take (p.fpix / 4))[j]? = some q → (g.fibs.drop (4 * j)).take 4 = quadFibs p l.r q true) ∧
         d.passes = (passIs fun h => { h with
           quads := without (fun q => q.rx + 4096 * q.ry = region && q.open_) (waiting.take (p.fpix / 4)).length h.quads
           numbers := insNat n h.numbers }).passes ∧
         d.launches = s.d.launches.map fun h => if h.id = l.id then { h with formed := h.formed + 1 } else h)) ∧
    -- the bins of a closed pass are rendered; then nothing is left to render, to store or to resolve
    (p.closePkt.isSome = true → p.draws = [] → p.binned = true → (∃ q ∈ p.quads, q.open_ = false) →
      exec .passEnd s = .next { s with d := passIs fun h => { h with
        quads := h.quads.map fun q => if q.open_ then q else { q with open_ := true, since := s.clock } } }) ∧
    (p.closePkt.isSome = true → p.begun = true → p.draws = [] → p.quads = [] → p.owed = [] → p.ended = false → p.kb = false →
      p.storeRuns.drop p.storeAt = [] → s.d.eps = [] → (∀ g ∈ s.d.wgs, g.launch = p.launch → g.place = .retired) →
      (∀ o ∈ s.d.ops, o.addr ≠ p.id) →
      exec .passEnd s = .next { s with d := passIs fun h => { h with stored := true, ended := true, tileStore := [] } })

/-! ### R33 to R46, R114, R192 to R200, R371, R394, R395: what a core does by itself -/

namespace Sys2Proof.Said

/-- A step of a unit changes fibre `k` of work-group `w` to `f`, and nothing else. -/
def TurnsFibre (i : Instr) (s : State) (w k : Nat) (f : Fib) : Prop :=
  ∃ d, exec i s = .next { s with d := d } ∧ d.fib? w k = some f ∧ (∀ v j, (v, j) ≠ (w, k) → d.fib? v j = s.d.fib? v j) ∧
    (d.wgs.map fun g => { g with fibs := [] }) = (s.d.wgs.map fun g => { g with fibs := [] }) ∧ { d with wgs := s.d.wgs } = s.d

/-- A step of a unit changes the device as `c` says, and writes no memory. -/
def Turns (i : Instr) (s : State) (c : Dev → Dev) : Prop := exec i s = .next { s with d := c s.d }

/-- The wait `f` has for a word of its own group's vault is due for another read, of the word at byte `off`, for a value other than `v`, with
instruction `i` of fields `x` (R199). -/
def VaultWaitDue (s : State) (g : WG) (k : Nat) (f : Fib) (x : X) (v : Nat) (i : Instr) (off : Nat) : Prop :=
  (∃ key last hit, f.wait = .memw key last v hit i ∧ (hit = true ∨ last + 4096 ≤ s.clock)) ∧ f.stuck = false ∧ waitX i = some x ∧ g.vbad = [] ∧
    ∃ l, s.d.launch? g.launch = some l ∧ waitTarget g f l k x = .ok (.vault g.rank off)

/-- The end of a `sleep`, of a critical region's 4,096 cc, and the age limit of an L1 line: each acts once its time has passed, and not
before. A `wait` reads its word again 4,096 cc after its last read, or once something wrote the word, and not before: it stays blocked while the
word is the value it compares with, and goes on when it is another. -/
def TimesThatEndInACore : Prop :=
  ∀ (s : State) (f : Fib), s.d.wb = [] →
    let w := s.d.arg.a
    let k := s.d.arg.b
    (s.d.fib? w k = some f →
      (∀ t, f.wait = .sleep t →
        (t ≤ s.clock → TurnsFibre .sleepExpiry s w k { f with wait := .none, readyAt := s.clock }) ∧
        (s.clock < t → TurnsFibre .sleepExpiry s w k f)) ∧
      (∀ key last v i, f.wait = .memw key last v false i → s.clock < last + 4096 → Turns .waitRecheckTimeout s id) ∧
      (∀ p v i, f.wait = .memp p v i → s.d.pageFree p = false → Turns .waitRecheckTimeout s id) ∧
      (∀ g x v i off, s.d.wg? w = some g → VaultWaitDue s g k f x v i off →
        let word := leNat (g.vaultBytes off 4)
        (word = v → TurnsFibre .waitRecheckTimeout s w k { f with wait := .memw (vaultRowKey g off) s.clock v false i }) ∧
        (word ≠ v → ordAcq x.ord = false → TurnsFibre .waitRecheckTimeout s w k ((f.issued g.skids).advance s.clock x.len))) ∧
      (f.critn ≠ 0 → f.critAt + 4096 ≤ s.clock → TurnsFibre .criticalRegionTimeout s w k { f with critn := 0 }) ∧
      (s.clock < f.critAt + 4096 → TurnsFibre .criticalRegionTimeout s w k f)) ∧
    Turns .l1LineExpiry s fun d => d.modCore w fun c => { c with l1 := c.l1.filter fun l => !(l.line = k && l.stamp + 8192 ≤ s.clock) }

end Sys2Proof.Said

/-- wait on a word, and the times that end waits, critical regions and L1 lines: all of the parts above. (R114, R193, R198, R199, R200,
R371.) The model's own choices and readings in it: logs 14, 42. -/
def Obligations.WaitsAndTimes : Prop := WaitComparesAWord ∧ TimesThatEndInACore

namespace Sys2Proof.Said

/-- A collection closes when its 16 cc are over. When its moves are complete, its members, sorted by target, key, slot and index, stand in
the members' positions and lanes, in that order, at their targets: each keeps the words below its L, the others are zero, and its
link word is written at once or when those words are full. -/
def CallxMoves : Prop :=
  ∀ (s : State) (c : Coll), s.d.wb = [] → (s.d.core s.d.arg.a).colls.find? (fun o => o.id = s.d.arg.b) = some c →
    Turns .collectionClose s (fun d => d.modCore s.d.arg.a fun q => { q with colls := q.colls.map fun o =>
      if o.id = s.d.arg.b then (if o.closed = none ∧ o.opened + 16 < s.clock then { o with closed := some s.clock } else o) else o }) ∧
    ((c.closed = none → Turns .regroupMoveComplete s id) ∧
      (c.closed ≠ none → (c.members.map fun m => (m.wg, m.fib)).Nodup →
        (∀ m ∈ c.members, ∃ f, s.d.fib? m.wg m.fib = some f ∧ f.hnd = false) →
        (∀ o ∈ s.d.ops, ∀ m ∈ c.members, ¬ (o.wg = m.wg ∧ o.fib = m.fib)) →
        let place (m : Caller) : Option (Nat × Nat) := (s.d.fib? m.wg m.fib).map fun f => (f.pos, f.lane)
        let slot (m : Caller) : Nat := ((s.d.wg? m.wg).map (·.slot)).getD 0
        let sorted := sortBy (fun m => ((m.target * 2 ^ 32 + m.key) * 64 + slot m) * 1024 + m.fib) c.members
        let places := sortBy (fun p => p.1 * 32 + p.2) (c.members.filterMap place)
        ∃ d, exec .regroupMoveComplete s = .next { s with d := d } ∧ d.ops = s.d.ops ∧ d.launches = s.d.launches ∧
          (Table.okFrom {} 0 s.d.cores = true → (d.core s.d.arg.a).colls = ((s.d.core s.d.arg.a).colls.filter fun o => o.id ≠ s.d.arg.b)) ∧
          (∀ v j, (v, j) ∉ c.members.map (fun m => (m.wg, m.fib)) → d.fib? v j = s.d.fib? v j) ∧
          ∀ (j : Nat) (m : Caller) (f : Fib) (p : Nat × Nat), sorted[j]? = some m → places[j]? = some p → s.d.fib? m.wg m.fib = some f →
            let win := f.win.take m.live ++ List.replicate (f.win.length - m.live) 0#32
            let missing := f.emp.filter fun n => n < m.live
            let f' : Fib :=
              { f with
                started := true, critn := f.critn - 1, cand := false, pos := p.1, lane := p.2, pc := BitVec.ofNat 64 m.target
                readyAt := s.clock + 1 }
            d.fib? m.wg m.fib = some (if missing = [] then { f' with win := putAt m.link win m.d, emp := [], wait := .none }
              else { f' with win := win, emp := missing, wait := .linkw missing m.d m.link })))

end Sys2Proof.Said

/-- callx joins a collection, which closes and regroups its fibres: all of the parts above. (R37, R38, R39, R192.) The model's own choices
and readings in it: logs 14, 20. -/
def Obligations.Callx : Prop := CallxJoins ∧ CallxMoves

namespace Sys2Proof.Said

/-- Tags on their way, and quotas: a core sends what it gathered; a home drops a retired tag, and the tag's own core releases its number,
at once or through the forwarded retirement; a stop stands at a core until the slice's go, which a slice that had sent one stop sends once the
context holds at most QUOTA − 64 entries there. An uncached access that the hub did not complete ends its work-group. -/
def TagsRetireAndQuotasStop : Prop :=
  ∀ (s : State), s.d.wb = [] →
    let a := s.d.arg.a
    let b := s.d.arg.b
    let c := s.d.arg.c
    Turns .tagRetireBatch s (fun d => { d with retq := d.retq ++ (d.core a).gathered.map fun t => (t, a) }.modCore a fun k =>
      { k with gathered := [] }) ∧
    (s.d.retq[a]? = none → Turns .tagRetirementReceive s id) ∧
    (∀ t from_, s.d.retq[a]? = some (t, from_) → s.d.quotaStops = [] ∨ (∃ q < 64, s.d.quotaStops = [(tagCtx t, q)]) →
      let left := s.d.tags.filter fun u => u.tag ≠ t
      let count (q : Nat) := (left.filter fun u => tagCtx u.tag = tagCtx t && u.line < 2 ^ 45 && homeSlice (u.line * 128) = q).length
      let goes := s.d.quotaStops.filter fun p => count p.2 ≤ Table.get 0 s.d.hub.tagq (tagCtx t) - 64
      let gone (d : Dev) : Dev :=
        { d with
          retq := d.retq.eraseIdx a, tags := left, quotaStops := if goes = [] then d.quotaStops else []
          agenda := d.agenda ++ goes.flatMap fun p => (List.range 512).map fun n => .ev .tagQuotaGo n p.1 p.2 [] }
      (tagCore t = from_ → Turns .tagRetirementReceive s fun d =>
        (gone d).modCore from_ fun k => { k with outst := k.outst.filter (· ≠ t) }) ∧
      (tagCore t ≠ from_ → Turns .tagRetirementReceive s fun d => { gone d with fwd := d.fwd ++ [(tagCore t, t)] })) ∧
    ((a, b) ∉ s.d.fwd → Turns .tagPinRelease s id) ∧
    ((a, b) ∈ s.d.fwd → Turns .tagPinRelease s fun d =>
      { d with fwd := d.fwd.filter fun p => p ≠ (a, b) }.modCore a fun k => { k with outst := k.outst.filter (· ≠ b) }) ∧
    Turns .tagQuotaStop s (fun d => d.modCore a fun k => { k with stops := (b, c) :: k.stops.filter fun p => p ≠ (b, c) }) ∧
    Turns .tagQuotaGo s (fun d => d.modCore a fun k => { k with stops := k.stops.filter fun p => p ≠ (b, c) }) ∧
    (∀ (o : Op) (g : WG) (p : Part) (ia : Nat), s.d.op? a = some o → s.d.wg? o.wg = some g → o.parts = [p] → p.st = .sent → o.tag = 0 →
      s.d.partIa o p = some ia → s.d.uncachedAt s.env ia = true →
      let c : Cause := { cause := cTimeout, async := true, tval := vaWide p.va, fib := o.fib }
      Turns .hwTimeout s fun d =>
        { d with ops := d.ops.filter fun q => q.id ≠ o.id }.modWg o.wg fun h => { h with asyncs := h.asyncs ++ [c] })

end Sys2Proof.Said

/-- Tags retire, quotas stop a core, and an uncached access can time out: all of the parts above. (R234, R391, R392, R393, R394, R395.) The
model's own choices and readings in it: logs 13, 40. -/
def Obligations.Tags : Prop := TagsRetireAndQuotasStop

/-! ### R376 to R387: traps, halts, the freeze, handler entry, pre-emption -/

namespace Sys2Proof.Said

/-- A precise trap outside a handler, of a work-group that is not stopping: it begins its trap halt, with at most 4 further
instructions for the others; a later one pends. In a handler it is a double trap and ends the work-group. A debugger's halt makes it
pend. -/
def TrapsAreRaised : Prop :=
  ∀ (e : Env) (d : Dev) (w k cause tval : Nat) (g : WG) (f : Fib), d.wg? w = some g → g.fib? k = some f →
    let c : Cause := { cause := cause, async := false, tval := tval, fib := k }
    let pends (h : WG) (j z : Nat) : WG := { h with fibs := modAt (fun q => { q with pcause := z }) h.fibs j, trapPend := true }
    (g.halt = .debug → d.raise e w k cause tval = d.modWg w fun h => pends h k cause) ∧
    (g.halt ≠ .debug → f.hnd = true → d.raise e w k cause tval = d.endWg w c 1) ∧
    (g.halt ≠ .debug → f.hnd = false → g.trap = none → ∃ skid < 5, d.raise e w k cause tval = d.afterChoice.modWg w fun h =>
      { h with
        halt := .trap, haltAt := e.now, skidMax := skid, trap := some c, stopped := false
        wantPreempt := h.wantPreempt || decide (h.halt = .preempt) }) ∧
    (∀ t, g.halt ≠ .debug → f.hnd = false → g.trap = some t →
      -- of traps raised in one cc, the lowest-indexed fibre's counts, and an ARITH that no longer counts leaves no flags
      let unflagged (h : WG) : WG :=
        if t.cause = cArith then { h with fibs := modAt (fun q => { q with fpflags := h.trapFl }) h.fibs t.fib } else h
      (g.haltAt = e.now → t.async = false → k < t.fib →
        d.raise e w k cause tval = d.modWg w fun h => { unflagged (pends h t.fib t.cause) with trap := some c }) ∧
      ((g.haltAt ≠ e.now ∨ t.async = true ∨ t.fib ≤ k) → d.raise e w k cause tval = d.modWg w fun h => pends h k cause))

/-- The halt of a work-group completes, its operations freeze, and it goes on: the trapping fibre enters the handler; without one, or on a
hardware cause, the work-group ends; a pre-emption saves it; a debugger's halt reports. -/
def HaltsAndHandlerEntry : Prop :=
  ∀ (s : State) (g : WG), s.d.wb = [] → s.d.wg? s.d.arg.a = some g → g.id = s.d.arg.a →
    let w := s.d.arg.a
    let waitless (h : Wait) : Wait := match h with
      | .op o => .op o
      | .linkw ws r l => .linkw ws r l
      | _ => .none
    -- nothing of it moves, is acknowledged or must land before the stop
    let still := s.d.ops = [] ∧ (∀ c ∈ (s.d.core g.core).colls, ∀ m ∈ c.members, m.wg ≠ w) ∧
      (∀ f ∈ g.fibs, match f.wait with
        | .ack _ => False
        | _ => True) ∧ (∀ o ∈ g.mops, o.started = false ∨ o.halted = true ∨ o.held = true)
    -- every fibre has stopped
    let stands := match g.halt with
      | .none => False
      | .preempt => ∀ f ∈ g.fibs, f.live = true → f.critn = 0
      | _ => (g.halt = .trap → g.handling = false) ∧ s.clock ≥ g.haltAt + 15
    (still → stands → g.stopped = false → ∃ d, exec .haltComplete s = .next { s with d := d } ∧
      d.wg? w = some { g with
        stopped := true, frozenAt := s.clock, blockedAt := none, faultAt := none
        fibs := g.fibs.map fun f => { f with wait := waitless f.wait, cand := false, tagGrp := 0 } } ∧
      (∀ v, v ≠ w → d.wg? v = s.d.wg? v) ∧ d.ops = s.d.ops) ∧
    (g.halt = .none ∨ g.stopped = true → exec .haltComplete s = .next s) ∧
    ((g.stopped = false ∨ s.clock < g.frozenAt + 20) → exec .freezeComplete s = .next s) ∧
    (∀ c, g.halt = .trap → g.handling = false → g.stopped = true → g.ending = none → g.trap = some c → g.wantPreempt = false →
      g.frozenAt + 20 ≤ s.clock → s.d.ops = [] → s.d.eps = [] → g.markers = [] → g.mops = [] → g.ctx.tbase ≠ 0 → c.cause ≠ cUncorrectable → c.cause ≠ cTimeout →
      ∀ f, g.fib? c.fib = some f →
        ∃ d, exec .freezeComplete s = .next { s with d := d } ∧
          d.wg? w = some { g with
            frozen := true, frozenAt := s.clock, handling := true, stopped := false, trapPend := false, trapIssue := g.issue
            tcause := BitVec.ofNat 32 ((if c.async then 2 ^ 31 else 0) + (if g.trapPend then 2 ^ 30 else 0) + c.fib % 2 ^ 10 * 2 ^ 8 + c.cause % 2 ^ 8)
            tpc := f.pc.setWidth 32, tval := BitVec.ofNat 64 c.tval, asyncs := [], asyncsLater := g.asyncsLater ++ g.asyncs
            fibs := modAt (fun f =>
              { f with
                privBefore := f.priv, priv := true, hnd := true, pc := 0#64, wait := .none, stuck := false, cand := false
                readyAt := s.clock + 1 })
              g.fibs c.fib } ∧
          (∀ v, v ≠ w → d.wg? v = s.d.wg? v)) ∧
    (∀ c, g.halt = .trap → g.handling = false → g.stopped = true → g.ending = none → g.trap = some c → g.frozenAt + 20 ≤ s.clock →
      s.d.ops = [] → (g.ctx.tbase = 0 ∨ c.cause = cUncorrectable ∨ c.cause = cTimeout) → (s.d.core g.core).laneH < 64 →
      ∃ d h, exec .freezeComplete s = .next { s with d := d } ∧ d.wg? w = some h ∧ (∀ f ∈ h.fibs, f.live = false) ∧
        d.laneH.length = s.d.laneH.length + 1) ∧
    (g.halt = .preempt → g.stopped = true → g.ending = none → g.image.isSome = true → g.frozenAt + 20 ≤ s.clock → s.d.ops = [] →
      ∃ d, exec .freezeComplete s = .next { s with d := d } ∧ d.agenda = s.d.agenda ++ [.ev .saveComplete w 0 0 []] ∧
        (d.wg? w).map (·.frozen) = some true)

end Sys2Proof.Said

/-- A trap is raised, the halt completes, and the handler is entered: all of the parts above. (R375, R376, R377, R378, R379, R380, R401.)
The model's own choices and readings in it: logs 17, 19. -/
def Obligations.TrapsAndHandlerEntry : Prop := TrapsAreRaised ∧ HaltsAndHandlerEntry

/-- An ASYNC cause is taken at the boundary of its fibre, or of the lowest live one where that fibre has exited; not in a stopped or
stopping work-group, an ARITH that meets the debugger's halt excepted; in its handler it is a double trap. With no live fibre left it ends the
work-group, makes the launch fatal or goes. A pre-emption takes a run of the save pool for every work-group it stops, or posts
an event of kind 4 and stops none. The save writes the image, from which the work-group can come back. (R375, R380, R383, R384, R386, R387.)
The model's own choices and readings in it: logs 18, 41. -/
def Obligations.AsyncTrapsAndPreemption : Prop :=
  ∀ (s : State) (g : WG), s.d.wb = [] → s.d.wg? s.d.arg.a = some g → g.id = s.d.arg.a →
    let w := s.d.arg.a
    (g.asyncs = [] → exec .asyncTrapTaken s = .next s) ∧
    -- with no live fibre
    (∀ c rest, g.asyncs = c :: rest → (∀ f ∈ g.fibs, f.live = false) →
      let fatal := c.cause = cUnmapped ∨ c.cause = cPageFatal
      ((c.cause = cUncorrectable ∨ c.cause = cTimeout) → (s.d.core g.core).laneH < 64 →
        ∃ d h, exec .asyncTrapTaken s = .next { s with d := d } ∧ d.wg? w = some h ∧ (∀ q ∈ h.fibs, q.live = false) ∧
          d.laneH.length = s.d.laneH.length + 1) ∧
      (fatal → exec .asyncTrapTaken s = .next { s with d := (s.d.modWg w fun h => { h with asyncs := rest }).modLaunch g.launch fun l =>
        { l with fatal := if l.fatal = 0 then c.cause else l.fatal } }) ∧
      (¬ fatal → c.cause ≠ cUncorrectable → c.cause ≠ cTimeout →
        exec .asyncTrapTaken s = .next { s with d := s.d.modWg w fun h => { h with asyncs := rest } })) ∧
    (∀ c rest i f, g.asyncs = c :: rest → g.fib? i = some f → f.live = true →
      (i = c.fib ∨ ((∀ q, g.fib? c.fib = some q → q.live = false) ∧ ∀ j < i, ∀ q, g.fib? j = some q → q.live = false)) →
      let blocked := g.halt = .debug ∧ c.cause ≠ cArith
      ((g.stopped = true ∨ blocked) → exec .asyncTrapTaken s = .next s) ∧
      (g.stopped = false → ¬ blocked → f.hnd = false → (g.handling = true ∨ g.halt = .trap) → exec .asyncTrapTaken s = .next s) ∧
      (g.stopped = false → ¬ blocked → g.halt ≠ .trap → f.hnd = false → g.handling = false →
        ∃ skid < 5, ∃ d, exec .asyncTrapTaken s = .next { s with d := d } ∧
          d.wg? w = some { g with
            asyncs := rest, halt := .trap, haltAt := s.clock, skidMax := skid, trap := some { c with fib := i }
            wantPreempt := g.wantPreempt || decide (g.halt = .preempt)
            fibs := modAt (fun f => match f.wait with
              | .linkw _ r l => { f.setWords r [l] with wait := .none }
              | .op _ => { f with wait := .none }
              | _ => f) g.fibs i } ∧
          (∀ v, v ≠ w → d.wg? v = s.d.wg? v)) ∧
      (g.stopped = false → ¬ blocked → f.hnd = true → (s.d.core g.core).laneH < 64 →
        ∃ d h, exec .asyncTrapTaken s = .next { s with d := d } ∧ d.wg? w = some h ∧ (∀ q ∈ h.fibs, q.live = false) ∧
          d.laneH.length = s.d.laneH.length + 1)) ∧
    (g.place ≠ .resident → exec .preemptRequest s = .next s) ∧
    -- what one request stops: the cohort, or the pixel work-groups of a pass on one engine
    (let begun (h : WG) : WG :=
        if h.halt = .none ∨ (h.halt = .trap ∧ h.handling = true) then
          { h with halt := .preempt, haltAt := s.clock, stopped := false, frozen := false, wantPreempt := false }
        else { h with wantPreempt := true }
      let all := s.d.stopsWith g
      g.place = .resident →
        ((∃ h ∈ all, h.image.isSome = true) → exec .preemptRequest s = .next s) ∧
        ((∀ h ∈ all, h.image = none) →
          (∀ rs d, Dev.takeRuns s.env all s.d = (some rs, d) → exec .preemptRequest s = .next (s.put
            (rs.foldl (fun d p => d.modWg p.1 fun h => { begun h with image := some (p.2, 0) }) d))) ∧
          (∀ d, Dev.takeRuns s.env all s.d = (none, d) →
            exec .preemptRequest s = .next (s.put (s.d.postEvent s.env 4 (s.d.partOf g) g.ctx.ctxid []))))) ∧
    (∀ l ia, g.place = .resident → g.image = none → s.d.launch? g.launch = some l → s.d.stopsWith g = [g] →
      let crit := g.fibs.any fun f => f.critn ≠ 0
      let entries := s.d.entryCount g + 8 * g.fibs.length + if crit then 256 * g.fibs.length else 0
      ∀ d, s.d.takeRun s.env g.ctx.savep (imageLen l entries) = (some ia, d) →
        exec .preemptRequest s = .next (s.put (d.modWg w fun h =>
          if g.halt = .none ∨ (g.halt = .trap ∧ g.handling = true) then
            { h with halt := .preempt, haltAt := s.clock, stopped := false, frozen := false, wantPreempt := false, image := some (ia, 0) }
          else { h with wantPreempt := true, image := some (ia, 0) }))) ∧
    (∀ l, g.place = .resident → g.image = none → s.d.launch? g.launch = some l → s.d.stopsWith g = [g] →
      let crit := g.fibs.any fun f => f.critn ≠ 0
      let entries := s.d.entryCount g + 8 * g.fibs.length + if crit then 256 * g.fibs.length else 0
      (s.d.takeRun s.env g.ctx.savep (imageLen l entries)).1 = none →
        exec .preemptRequest s = .next (s.put (s.d.postEvent s.env 4 l.part g.ctx.ctxid []))) ∧
    (∀ l ia n, s.d.launch? g.launch = some l → g.image = some (ia, n) → g.kind ≠ .pixel → g.vbad = [] →
      ((g.halt ≠ .preempt ∨ g.stopped = false ∨ g.frozen = false) → exec .saveComplete s = .next s) ∧
      (g.halt = .preempt → g.stopped = true → g.frozen = true →
        ∃ d m, exec .saveComplete s = .next { clock := s.clock, mem := m, d := d } ∧
          (d.ops = s.d.ops.filter fun o => o.wg ≠ w) ∧
          ∃ h, d.wg? w = some h ∧ h.place = .suspended ∧ h.halt = (if g.handling then .trap else .none) ∧ h.stopped = false ∧
            h.frozen = g.handling ∧ h.entries = (s.d.record g).length ∧ (h.image.map (·.1)) = some ia ∧ h.tpc = g.tpc ∧ h.tcause = g.tcause ∧
            h.k = g.k ∧ h.bars = g.bars ∧ h.gangs = g.gangs))

/-! ### R17 to R32, R47, R439 to R447: the hub scheduler and the pool front end -/

namespace Sys2Proof.Said

/-- A cohort of one that the scheduler places stands on a core that its partition and its features allow, within every budget, in a slot
of its own. -/
def PlacementKeepsTheRules : Prop :=
  ∀ (e : Env) (d d' : Dev) (l : Launch) (w : Nat) (g : WG), d.wg? w = some g → g.place = .waiting → l.r.argn = 0 → l.kind = .grid →
    Table.okFrom {} 0 d.cores = true → d.tryPlace e l [w] none false = (true, d') →
      let p := d.parts.getD l.part {}
      (p.on = true ∧ p.bw < p.bwq ∧ p.est < p.pwr ∧ d.hub.pest < d.hub.pwrlim ∧ Table.get 0 d.hub.tagq l.ctx.ctxid ≠ 0) ∧
      ∃ g', d'.wg? w = some g' ∧ g'.place = .resident ∧ g'.core < 512 ∧ g'.slot < 64 ∧ p.cmask.getD g'.core false = true ∧
        l.r.feat &&& ~~~(d.core g'.core).feature = 0#32 ∧
        (∀ h ∈ d.wgs, h.place = .resident → h.core = g'.core → h.slot ≠ g'.slot) ∧
        (d'.core g'.core).l1 = []

/-- The scheduler's step with nothing to place only measures. The resume bound: a work-group blocked for the whole spin window, with a
suspended peer of its context at its rank or above, gives way to it. The fault swap: past its threshold a work-group blocked on faults may
give way. A work-group with no live fibre and nothing outstanding retires. -/
def SchedulerSteps : Prop :=
  ∀ (s : State), s.d.wb = [] →
    (s.d.launches = [] → s.d.wgs = [] → ∃ d, exec .schedulingStep s = .next { s with d := d } ∧
      d.parts.length = s.d.parts.length ∧ (∀ (j : Nat) (p q : Partition), s.d.parts[j]? = some p → d.parts[j]? = some q →
        q = { p with bw := q.bw, est := q.est } ∧ (j < 16 → q.bw ≤ 1024 ∧ q.est ≤ 1600)) ∧
      d.hub = { s.d.hub with pest := d.hub.pest } ∧ d.hub.pest ≤ 1600 ∧ d.wgs = [] ∧ d.launches = [] ∧ d.cores = s.d.cores) ∧
    (∀ (g : WG) (l : Launch), s.d.wg? s.d.arg.a = some g → s.d.launch? g.launch = some l →
      let rank (l : Launch) : Nat := if l.r.deadline ≠ 0 then l.r.deadline else 2 ^ 64 + (7 - l.prio)
      let late := ∃ t, g.blockedAt = some t ∧ t + s.d.hub.spinw ≤ s.clock ∧ s.d.hub.spinw ≠ 0
      let peer (h : WG) : Prop := h ∈ s.d.wgs ∧ h.place = .suspended ∧ h.ctx.ctxid = g.ctx.ctxid ∧
        ∃ m, s.d.launch? h.launch = some m ∧ rank m ≤ rank l
      ((¬ late ∨ g.place ≠ .resident ∨ g.halt ≠ .none ∨ (∀ h ∈ s.d.wgs, h.place ≠ .suspended)) → exec .spinWindowExpiry s = .next s) ∧
      (∀ p m, late → g.place = .resident → g.halt = .none → peer p → s.d.launch? p.launch = some m → s.d.wgs.filter (·.place = .suspended) = [p] →
        s.d.allBack p = true →
        let d := s.d.modWg s.d.arg.a fun h => { h with blockedAt := some s.clock }
        (∀ d', d.tryPlace s.env m [p.id] p.eng true = (true, d') → exec .spinWindowExpiry s = .next (s.put d')) ∧
        (∀ d', d.tryPlace s.env m [p.id] p.eng true = (false, d') →
          let d'' := d'.modWg p.id fun h => { h with urgent := true }
          exec .spinWindowExpiry s = .next (s.put (if d''.budgetOk m then d''.preemptRequest s.env s.d.arg.a else d''))))) ∧
    (∀ (g : WG) (l : Launch), s.d.wg? s.d.arg.a = some g → s.d.launch? g.launch = some l →
      let due := ∃ t, g.faultAt = some t ∧ t + s.d.hub.fswap < s.clock
      let all := ∀ (j : Nat) (f : Fib), g.fib? j = some f → f.live = true → s.d.faultBlocked s.d.arg.a j f = true
      (¬ due ∨ g.place ≠ .resident ∨ g.halt ≠ .none ∨ ¬ all ∨ s.d.someoneWaits g l = false → exec .faultSwapThreshold s = .next s) ∧
      (due → g.place = .resident → g.halt = .none → all → s.d.someoneWaits g l = true →
        exec .faultSwapThreshold s = .next { s with d := s.d.afterChoice } ∨
        exec .faultSwapThreshold s = .next (s.put (s.d.afterChoice.preemptRequest s.env s.d.arg.a)))) ∧
    (∀ (g : WG) (l : Launch), s.d.wg? s.d.arg.a = some g → g.id = s.d.arg.a → s.d.launch? g.launch = some l →
      let done := g.place = .resident ∧ (∀ f ∈ g.fibs, f.live = false) ∧ g.mops = [] ∧ g.ending = none ∧ g.asyncs = [] ∧
        ∀ o ∈ s.d.ops, o.wg ≠ g.id
      (g.place ≠ .resident ∨ (∃ f ∈ g.fibs, f.live = true) ∨ g.mops ≠ [] ∨ g.ending ≠ none ∨ g.asyncs ≠ [] →
        exec .workgroupRetire s = .next s) ∧
      (done → (g.kind = .grid ∨ g.kind = .pool) → g.image = none →
        ∃ d, exec .workgroupRetire s = .next { s with d := d } ∧ d.wgs = (s.d.wgs.filter fun h => h.id ≠ g.id) ∧ d.ops = s.d.ops ∧
          d.launches = s.d.launches.map fun h => if h.id = g.launch then { h with retired := h.retired + 1 } else h))

end Sys2Proof.Said

/-- Placement keeps every budget, and the scheduler takes its steps: all of the parts above. (R18, R20, R22, R47, R50, R442, R443, R444,
R446.) The model's own choices and readings in it: logs 13, 31. -/
def Obligations.Scheduling : Prop := PlacementKeepsTheRules ∧ SchedulerSteps

namespace Sys2Proof.Said

/-- The pool front end: a record, the initial ones first, goes to the bin of its PCOFF, else to the lowest empty one. A bin that is full,
too old, or of a drained pool forms a work-group with one fibre for each record, in order, whose PC is the record's first word and
whose window begins with the other seven, unless its field-1 value is still held. -/
def PoolFrontEnd : Prop :=
  ∀ (s : State) (l : Launch), s.d.wb = [] → s.d.launch? s.d.arg.a = some l → l.id = s.d.arg.a → s.d.launches.filter (fun h => h.id = l.id) = [l] →
    let initial := l.initGet < l.initN
    let at_ := if initial then l.initBase + 32 * l.initGet else l.poolBase + 32 * (l.poolGet % 2 ^ l.poolLog)
    let gets (h : Launch) : Launch := if initial then { h with initGet := h.initGet + 1 } else { h with poolGet := h.poolGet + 1 }
    let launchIs (h : Launch) (d : Dev) : Dev := { d with launches := d.launches.map fun m => if m.id = l.id then h else m }
    (s.d.ops = [] →
      ((l.kind ≠ .pool ∨ l.held = true ∨ (¬ initial ∧ l.poolPut ≤ l.poolGet)) → exec .poolRecordArrival s = .next s) ∧
      (∀ bs bad d, l.kind = .pool → l.held = false → (initial ∨ l.poolGet < l.poolPut) → l.bins.length = 64 →
        Dev.readG s.env (s.d.ctxRanges s.env l.ctx) l.asker 2 s.d (va57 at_) 32 = (.ok bs bad, d) → d.launches = s.d.launches →
        let rec_ := wordsOfBytes bs
        (∀ j b, l.bins[j]? = some b → b.recs ≠ [] → b.pcoff = rec_.headD 0#32 → b.recs.length < l.r.fcap →
          (∀ i < j, ∀ c, l.bins[i]? = some c → c.recs = [] ∨ c.pcoff ≠ b.pcoff) →
          exec .poolRecordArrival s =
            .next (s.put (launchIs (gets { l with bins := l.bins.set j { b with recs := b.recs ++ [rec_] } }) d))) ∧
        (∀ j b, l.bins[j]? = some b → b.recs = [] → (∀ i < j, ∀ c, l.bins[i]? = some c → c.recs ≠ []) →
          (∀ c ∈ l.bins, c.recs ≠ [] → c.pcoff ≠ rec_.headD 0#32) →
          exec .poolRecordArrival s =
            .next (s.put (launchIs (gets { l with bins := l.bins.set j { pcoff := rec_.headD 0#32, recs := [rec_], since := s.clock } }) d))))) ∧
    (∀ b, l.bins[s.d.arg.b]? = some b →
      let n := l.formed % (l.r.em1.getD 1 0 + 1)
      let taken := ∃ g ∈ s.d.wgs, g.launch = l.id ∧ g.gidx = n ∧ g.place ≠ .retired
      let aged := b.since + l.r.binage ≤ s.clock
      let drained := s.d.poolCount l = 0 ∧ ∀ g ∈ s.d.wgs, g.launch = l.id → ∀ f ∈ g.fibs, f.live = false
      let forms (i : Instr) := ∃ g, exec i s = .next { s with d :=
          { launchIs { l with formed := l.formed + 1, total := l.total + 1, next := l.next + 1, bins := l.bins.set s.d.arg.b { recs := [] } } s.d with
            nextId := s.d.nextId + 1, wgs := s.d.wgs ++ [g] } } ∧
        g.id = s.d.nextId ∧ g.launch = l.id ∧ g.kind = l.kind ∧ g.gidx = n ∧ g.place = .waiting ∧
        ∀ (j : Nat) (r : List Word), b.recs[j]? = some r → ∃ f, g.fib? j = some f ∧ f.live = true ∧ f.pc = (r.headD 0#32).setWidth 64 ∧
          f.priv = l.r.priv ∧ f.win = (r.drop 1).take l.r.w ++ List.replicate (l.r.w - (r.drop 1).length) 0#32
      ((b.recs = [] ∨ ¬ aged ∨ taken) → exec .binAgeLimit s = .next s) ∧
      (b.recs ≠ [] → aged → ¬ taken → forms .binAgeLimit) ∧
      ((b.recs = [] ∧ 0 < l.r.fcap) ∨ (b.recs.length < l.r.fcap ∧ ¬ drained) ∨ taken → exec .poolWorkgroupForm s = .next s) ∧
      (b.recs ≠ [] → (l.r.fcap ≤ b.recs.length ∨ drained) → ¬ taken → forms .poolWorkgroupForm))

end Sys2Proof.Said

/-- cont appends a record to its pool, whose bins form work-groups: all of the parts above. (R28, R29, R30, R265, R392, R395, R439.) The
model's own choices and readings in it: log 31. -/
def Obligations.Continuations : Prop := ContinuationsAreAppended ∧ PoolFrontEnd

/-! ### R381, R407 to R422: translation, the page cache, episodes, the lanes and the Cairn engine -/

namespace Sys2Proof.Said

/-- The byte of memory at address `a` of local GDDR 7, of the second tier, and so on. -/
def gddr8 (s : State) (a : Nat) : Nat := leNat ((List.range 8).map fun j => s.mem.byte (a + j))

/-- A walk of three levels in local GDDR 7: the kind of each entry, its address bits and its flags give the place, the fill, the fault or
the fatal end of R410 to R412. -/
def TheWalk : Prop :=
  ∀ (s : State) (ia : Nat) (acc : Acc), s.d.wb = [] → s.d.poison = [] → (∀ line, (s.d.dirEnt line).recalls false = false) →
    s.d.hub.ptroot.getLsbD 0 = true →
    let root := s.d.hub.ptroot.toNat / 2 ^ 18 % 2 ^ 20 * 2 ^ 18
    let e2 := root + 16 * (ia / 2 ^ 38 % 2 ^ 14)
    let w2 := gddr8 s e2
    let t1 := w2 / 2 ^ 16 % 2 ^ 36 * 2 ^ 16
    let e1 := t1 + 16 * (ia / 2 ^ 25 % 2 ^ 13)
    let w1 := gddr8 s e1
    let t0 := w1 / 2 ^ 16 % 2 ^ 36 * 2 ^ 16
    let e0 := t0 + 16 * (ia / 2 ^ 16 % 2 ^ 9)
    let w := gddr8 s e0
    let v := gddr8 s (e0 + 8)
    let clean (w v : Nat) : Prop := w / 2 ^ 52 = 0 ∧ w / 2 ^ 10 % 2 ^ 6 = 0 ∧ v / 2 ^ 38 = 0 ∧ v / 2 ^ 3 % 2 ^ 13 = 0
    let outcome := s.d.walk s.env ia acc
    let addr := w / 2 ^ 16 % 2 ^ 36 * 2 ^ 16
    let loc := w / 2 ^ 2 % 4
    let flag (n : Nat) : Prop := w.testBit n = true
    e2 + 16 ≤ gddrSize →
    (w2 % 4 = 0 → outcome = .fault 1 false) ∧ (w2 % 4 = 2 → outcome = .fatal false) ∧ (w2 % 4 = 3 → outcome = .fatal (w2.testBit 8)) ∧
    (w2 % 4 = 1 → (¬ clean w2 (gddr8 s (e2 + 8)) ∨ t1 % 2 ^ 17 ≠ 0) → outcome = .fatal false) ∧
    (w2 % 4 = 1 → clean w2 (gddr8 s (e2 + 8)) → t1 % 2 ^ 17 = 0 → t1 + 2 ^ 17 ≤ gddrSize →
      (w1 % 4 = 0 → outcome = .fault 1 true) ∧ (w1 % 4 = 3 → outcome = .fatal (w1.testBit 8)) ∧
      (w1 % 4 = 1 → (¬ clean w1 (gddr8 s (e1 + 8)) ∨ t0 % 2 ^ 13 ≠ 0) → outcome = .fatal false) ∧
      (w1 % 4 = 1 → clean w1 (gddr8 s (e1 + 8)) → t0 % 2 ^ 13 = 0 → t0 + 2 ^ 13 ≤ gddrSize →
        (w % 4 = 0 → outcome = .fault 1 false) ∧ (w % 4 = 1 → outcome = .fatal false) ∧ (w % 4 = 3 → outcome = .fatal (w.testBit 8)) ∧
        (w % 4 = 2 → (¬ clean w v ∨ flag 4 ∨ (flag 7 ∧ loc ≠ 2)) → outcome = .fatal false) ∧
        (w % 4 = 2 → clean w v → ¬ flag 4 → (flag 7 → loc = 2) →
          (loc = 3 → flag 8 ∨ flag 9 → outcome = .fault 2 false) ∧
          (loc = 0 → gddrSize < addr + 2 ^ 16 → outcome = .fatal false) ∧
          (loc = 0 → addr + 2 ^ 16 ≤ gddrSize →
            (acc = .wr → ¬ flag 5 → outcome = .fault 3 false) ∧
            (acc = .fetch → flag 6 → outcome = .fatal false) ∧
            ((acc = .wr → flag 5) → (acc = .fetch → ¬ flag 6) → outcome = .ok (some (addr + ia % 2 ^ 16)) (w.testBit 5) 0 false)) ∧
          (loc = 1 → s.d.installed 1 addr (2 ^ 16) = true → (acc = .wr → flag 5) → (acc = .fetch → ¬ flag 6) →
            let frame := v / 2 ^ 16 % 2 ^ 22 * 2 ^ 16
            (v.testBit 0 = true → frame + 2 ^ 16 ≤ gddrSize → outcome = .ok (some (frame + ia % 2 ^ 16)) (w.testBit 5) e0 false) ∧
            (v.testBit 0 = false → outcome = .fill { page := ia / 2 ^ 16, n := 1, pte := e0, frame := 0, home := 2 ^ 60 + addr })))))

/-- The bytes of a fault record (R417). -/
def faultBytes (seq ctx core kind reason : Nat) (large : Bool) (va ia : Nat) : List Byte :=
  leBytes 8 seq ++ leBytes 2 (ctx % 2 ^ 12) ++ leBytes 2 (core % 2 ^ 9) ++ leBytes 1 kind ++ leBytes 1 reason ++
    leBytes 1 (if large then 1 else 0) ++ [0#8] ++ leBytes 8 va ++ leBytes 8 ia ++ List.replicate 32 0#8

/-- MTU_WALK of a request that finds no line, no episode and no fill of its page: a true fault opens an episode, posts its record on lane R
and holds a request that returns a value; a fatal end raises its ASYNC cause; a page of the second tier begins its fill. The fill's end
moves the page, writes its entry and the frame map, and the waiting requests walk again; the end of an episode performs its log. -/
def WalksFillsAndEpisodes : Prop :=
  ∀ (s : State), s.d.wb = [] →
    (∀ (o : Op) (p : Part) (g : WG) (l : Launch) (ia : Nat), s.d.op? s.d.arg.a = some o → s.d.arg.b = 0 → o.parts = [p] → p.st = .walk →
      o.frozen = false → s.d.wg? o.wg = some g → s.d.launch? g.launch = some l → s.d.partIa o p = some ia → isDirect ia = false →
      s.d.l2? (ia / 128) = none → s.d.episode? (ia / 2 ^ 16) = none → s.d.fills = [] → s.d.uncachedAt s.env ia = false →
      -- no other atomic of its instruction stands at its place
      (o.kind.isAtomic = true → (s.d.ops.filter fun q => q.kind.isAtomic && decide (q.grp = o.grp)) = [o]) →
      let acc : Acc := if o.act.writes then .wr else .rd
      let kind := if o.kind.isAtomic then 2 else if o.act.writes then 1 else 0
      let setSt (st : PartSt) (d : Dev) : Dev := d.modOp o.id fun q => { q with parts := putAt { p with st := st } q.parts 0 }
      -- the operation is over, and its fibre has the cause
      let givenUp (cause : Nat) : Dev :=
        let c : Cause := { cause := cause, async := true, tval := vaWide p.va, fib := o.fib }
        let d := s.d.modWg o.wg fun h => { h with asyncs := h.asyncs ++ [c] }
        { d with ops := s.d.ops.filter fun q => q.id ≠ o.id }
      (∀ reason large, s.d.walk s.env ia acc = .fault reason large → g.ctx.fsvc = false → s.d.laneR.length < 16384 → o.parks = false →
        let ep : Episode := if large then { page := ia / 2 ^ 25 * 512, n := 512 } else { page := ia / 2 ^ 16, n := 1 }
        let r : LaneRec :=
          { seq := s.d.evSeq, core := o.core, part := l.part, ctx := g.ctx.ctxid
            data := faultBytes s.d.evSeq g.ctx.ctxid o.core kind reason large (vaWide p.va) ia }
        let d : Dev := { s.d with eps := s.d.eps ++ [ep], evSeq := s.d.evSeq + 1, laneR := s.d.laneR ++ [r] }
        exec .mtuWalk s = .next { s with d := setSt PartSt.held d }) ∧
      (∀ reason large, s.d.walk s.env ia acc = .fault reason large → g.ctx.fsvc = true → o.lost = false → o.tag = 0 →
        exec .mtuWalk s = .next { s with d := givenUp cPageFatal }) ∧
      (∀ u, s.d.walk s.env ia acc = .fatal u → o.lost = false → o.tag = 0 →
        exec .mtuWalk s = .next { s with d := givenUp (if u then cUnmapped else cPageFatal) }) ∧
      (∀ (f : Fill) a rest, s.d.walk s.env ia acc = .fill f → f.n = 1 → s.d.fifoS = a :: rest →
        let d : Dev := { s.d with fifoS := rest, fills := [{ f with frame := a }] }
        exec .mtuWalk s = .next { s with d := setSt PartSt.fill d })) ∧
    (∀ (f : Fill), s.Ok → s.d.fills.filter (fun h => h.page = s.d.arg.a) = [f] → f.n = 1 → f.frame % 2 ^ 16 = 0 → f.frame + 2 ^ 16 ≤ gddrSize →
      2 ^ 60 ≤ f.home → f.home < 2 ^ 61 → f.pte + 16 ≤ gddrSize →
      let map := s.d.hub.fmbase.toNat / 2 ^ 12 % 2 ^ 26 * 2 ^ 12 + 8 * (f.frame / 2 ^ 16)
      -- the frame, the entry and the frame map do not overlap
      (f.pte + 16 ≤ f.frame ∨ f.frame + 2 ^ 16 ≤ f.pte) → (map + 8 ≤ f.frame ∨ f.frame + 2 ^ 16 ≤ map) →
      (map + 8 ≤ f.pte + 8 ∨ f.pte + 16 ≤ map) →
      ∃ t, exec .pageFillComplete s = .next t ∧ (∀ j < 2 ^ 16, t.mem.byte (f.frame + j) = s.mem.byte (f.home + j)) ∧
        gddr8 t (f.pte + 8) = f.frame + 3 ∧ gddr8 t map = f.pte + 1 ∧ t.d.fills = (s.d.fills.filter fun h => h.page ≠ s.d.arg.a) ∧
        ∀ o ∈ t.d.ops, ∀ p ∈ o.parts, p.st ≠ .fill) ∧
    (∀ (ep : Episode), s.d.eps.filter (fun q => q.page = s.d.arg.a) = [ep] →
      -- no log: the held requests walk again
      (ep.log = [] → (∀ p d, ({ s.d with eps := s.d.eps.filter fun q => q.page ≠ ep.page } : Dev).reach s.env (ep.page * 2 ^ 16) .rd ≠ (.filling p, d)) →
        (∀ c d, ({ s.d with eps := s.d.eps.filter fun q => q.page ≠ ep.page } : Dev).reach s.env (ep.page * 2 ^ 16) .rd ≠ (.fatal c, d)) →
        ∃ t, exec .episodeRelease s = .next t ∧ t.d.eps = (s.d.eps.filter fun q => q.page ≠ ep.page) ∧
          ∀ o ∈ t.d.ops, ∀ p ∈ o.parts, ∀ a, t.d.partIa o p = some a → inPages ep.page ep.n (a / 2 ^ 16) = true → p.st ≠ .held) ∧
      -- a parked store, its line at hand with the write grant
      (∀ q bs ln, s.Ok → ep.log = [q] → q.act = .write bs → bs ≠ [] → q.ia % 128 + bs.length ≤ 128 → isDirect q.ia = false →
        s.d.l2? (q.ia / 128) = some ln → ln.grant = true → ln.dirty = true → ln.pte = 0 →
        (s.d.dirEnt ((ln.phys + q.ia % 128) / 128)).recalls true = false →
        ∃ t, exec .episodeRelease s = .next t ∧ t.d.eps = (s.d.eps.filter fun q => q.page ≠ ep.page) ∧
          ∀ a, t.mem.byte a = if ln.phys + q.ia % 128 ≤ a ∧ a < ln.phys + q.ia % 128 + bs.length
            then bs.getD (a - (ln.phys + q.ia % 128)) 0#8 else s.mem.byte a))

end Sys2Proof.Said

/-- The walk of the page table, fills and fault episodes: all of the parts above. (R407, R409, R411, R412, R414, R416, R417, R420.) The
model's own choices and readings in it: logs 13, 42. -/
def Obligations.Walks : Prop := TheWalk ∧ WalksFillsAndEpisodes

/-- Records of lane H go to the firmware before those of lane R, in order; a record of lane R gives Cairn its page. A batch closes when its
window is over, and the oldest closed batch enters the ring when HEAD − TAIL leaves room. (R381, R382, R421, R422.) The model's own choices
and readings in it: log 42. -/
def Obligations.LanesAndCairn : Prop :=
  ∀ (s : State), s.d.wb = [] →
    -- no line's directory entry is unreadable
    (∀ r rest, s.d.laneH = r :: rest → (∀ line, (s.d.dirEnt line).st ≠ 3) → ∃ t, exec .laneRecordHandover s = .next t ∧ t.d.laneH = rest ∧ t.d.laneR = s.d.laneR ∧
      t.d.handed = s.d.handed ++ [r] ∧ t.d.hub.evput = (s.d.hub.evput + 1) % 2 ^ 64 ∧ t.d.msix = s.d.msix ++ [r.part]) ∧
    (s.d.laneH = [] → s.d.laneR = [] → exec .laneRecordHandover s = .next s) ∧
    (∀ r rest, s.d.laneH = [] → s.d.laneR = r :: rest →
      (1024 ≤ s.d.cairnHeld → exec .laneRecordHandover s = .next s) ∧
      (s.d.cairnHeld < 1024 → s.d.laneRHeld = [] → ∃ t, exec .laneRecordHandover s = .next t ∧ t.mem = s.mem ∧ t.d.laneR = rest ∧
        t.d.handed = s.d.handed ++ [r] ∧
        ∃ p ∈ t.d.cairnOpen ++ t.d.cairnClosed.flatten, p.seq = r.seq ∧ p.page = fieldN r.data 24 8 / 2 ^ 16 ∧ p.pred = false)) ∧
    (let window := max 1 (s.d.hub.cairnctl.toNat % 2 ^ 11)
     let ends := s.d.cairnOpen ≠ [] ∧ s.d.cairnSince + window ≤ s.clock
     (ends → exec .cairnBatchWindow s = .next { s with d := { s.d with cairnClosed := s.d.cairnClosed ++ [s.d.cairnOpen], cairnOpen := [] } }) ∧
     (¬ ends → exec .cairnBatchWindow s = .next s)) ∧
    (let v := s.d.hub.fqbase.toNat
     let base := v / 2 ^ 12 % 2 ^ 26 * 2 ^ 12
     let n := 2 ^ max 4 (v % 16)
     let head := gddr8 s base
     let used := (head + 2 ^ 64 - gddr8 s (base + 8)) % 2 ^ 64
     (s.d.cairnClosed = [] → exec .cairnRingWrite s = .next s) ∧
     -- HEAD and TAIL lie in memory, and no agent outside holds their line
     ((s.d.dirEnt (base / 128)).recalls false = false → n ≤ used → exec .cairnRingWrite s = .next s) ∧
     (∀ b rest, s.Ok → (s.d.dirEnt (base / 128)).recalls false = false → s.d.cairnClosed = b :: rest → used < n → s.d.poison = [] → base + 64 + 64 * n ≤ gddrSize → b.length ≤ 6 →
       let page (p : BPage) : Nat := p.page % 2 ^ 36 + 2 ^ 36 * (p.ctx % 2 ^ 12) + 2 ^ 48 * (p.reason % 4) + (if p.pred then 2 ^ 50 else 0) +
         if p.large then 2 ^ 51 else 0
       let slot := base + 64 + 64 * (head % n)
       ∃ t, exec .cairnRingWrite s = .next t ∧ t.d.cairnClosed = rest ∧ gddr8 t base = (head + 1) % 2 ^ 64 ∧
         gddr8 t slot = ((b.head?.map (·.seq)).getD 0) % 2 ^ 64 ∧ gddr8 t (slot + 8) = b.length ∧
         (∀ j p, b[j]? = some p → gddr8 t (slot + 16 + 8 * j) = page p) ∧ gddr8 t (base + 8) = gddr8 s (base + 8)))

/-! ### R430 to R442, R450, R451: doorbells, packets and the Equinox barrier -/

namespace Sys2Proof.Said

/-- The next packet of the queue that the step names is `n`, every slot of it may be read, and BAR and the number in flight let it
start. `s` is the state once the slot was read. -/
structure Ready (before s : State) (n : Next) : Prop where
  peek : before.d.peek before.env before.d.arg.a = (some n, s.d)
  rest : before = { s with d := before.d }
  queue : s.d.arg.a = before.d.arg.a
  seen : n.span false ≤ n.qd.unread
  start : s.d.canStart n = true
  quiet : s.d.wb = []

/-- The packet as it stands once it was read; the packets take the next number. -/
def packetOf (s : State) (n : Next) : Pkt :=
  { id := s.d.nextId, q := s.d.arg.a, ridx := n.qd.ridx, ty := n.ty, flg := n.f 1 1, cstat := n.f 8 8, csig := n.f 16 8, cval := n.f 24 8
    body := n.bs.drop 32, ctx := n.ctx, part := n.qd.part, started := true }

def numbered (s : State) (k : Nat) : Dev := { s.d with nextId := s.d.nextId + k }

/-- The device with packet `p` read: RIDX goes past its slots. -/
def pktJoined (s : State) (n : Next) (slots : Nat) (p : Pkt) (d : Dev) : Dev :=
  ({ d with pkts := d.pkts ++ [p] } : Dev).qdPut s.env s.d.arg.a 8 (leBytes 4 ((n.qd.ridx + slots) % 2 ^ 32))

/-- The step reads packet `p`, and the device is otherwise `d`. -/
def Reads (i : Instr) (before s : State) (n : Next) (slots : Nat) (p : Pkt) (d : Dev) : Prop :=
  exec i before = .next (s.put (pktJoined s n slots p d))

/-- The packet is refused (R437): nothing of it happens but its completion with CODE 1. -/
def Refuses (i : Instr) (before s : State) (n : Next) (slots code : Nat) (d : Dev) : Prop :=
  Reads i before s n slots { packetOf s n with finished := true, code := 1, detail := code } d

/-- The step that reads a packet of a TYPE. -/
def rowOf (ty op : Nat) : Instr :=
  match ty with
  | 2 => .poolLaunch
  | 3 => if op = 1 then .renderPassClose else .renderPassOpen
  | 4 => .drawMesh
  | 5 => .copy
  | 6 => .waitPacket
  | 7 => .signal
  | 8 => .link
  | 9 => .fencePacket
  | 10 => .partitionSet
  | _ => .launch

/-- A launch that a packet starts; it takes the number after its packet's. -/
def launchOf (s : State) (n : Next) (kind : WKind) (r : Record) (gen total : Nat) : Launch :=
  { id := s.d.nextId + 1, r := r, kind := kind, q := s.d.arg.a, pkt := s.d.nextId, part := n.qd.part, prio := n.qd.prio, ctx := n.ctx, gen := gen
    dev := s.d.hub.rank, seq := s.d.nextId + 1, total := total }

end Sys2Proof.Said

/-- DOORBELL sets WIDX where it advances it by up to 2^31 slots, and makes an idle queue ready; every other one is ignored. A packet that
breaks a rule of R434 or R435 is refused, with the code of the first rule in the order of R437. The model's own choices and readings in it:
logs 26, 32. -/
def Obligations.DoorbellsAndRefusals : Prop :=
  (∀ (s : State), s.d.wb = [] →
    let q := s.d.arg.a % 2 ^ 18
    let wcnt := s.d.arg.a / 2 ^ 32 % 2 ^ 32
    (s.d.hub.qdbase.getLsbD 0 = false ∨ s.d.qd? s.env q = none → exec .doorbell s = .next s) ∧
    (∀ qd, s.d.hub.qdbase.getLsbD 0 = true → s.d.qd? s.env q = some qd →
      let ahead := (wcnt + 2 ^ 32 - qd.widx) % 2 ^ 32
      (ahead = 0 ∨ 2 ^ 31 < ahead → exec .doorbell s = .next s) ∧
      (1 ≤ ahead → ahead ≤ 2 ^ 31 → s.d.queue? q = none →
        let d := s.d.qdPut s.env q 12 (leBytes 4 wcnt)
        let d := if qd.state = 0 then d.qdPut s.env q 34 [1#8] else d
        exec .doorbell s = .next (s.put (({ d with nextId := d.nextId + 1, queues := d.queues ++ [{ q := q, order := d.nextId }] } : Dev).hartEvent 1 q))))) ∧
  (∀ (b s : State) (n : Next), Ready b s n →
    let opn := (s.d.openPass s.d.arg.a).isSome
    let i := rowOf n.ty (n.f 32 1)
    let slots := if n.ty = 1 ∨ n.ty = 2 then 5 else 1
    (∀ code, n.refusal opn = some code → s.d.arg.b = 0 → Refuses i b s n (n.span true) code (numbered s 1)) ∧
    (n.ty = 0 ∨ 10 < n.ty ∨ n.f 2 1 ≠ slots ∨ 64 < n.pos + slots ∨ 4 ≤ n.f 1 1 → n.refusal opn = some 0x01) ∧
    (n.ty = 3 ∧ 1 < n.f 32 1 ∨ n.ty = 6 ∧ 2 < n.f 48 1 ∨ n.ty = 7 ∧ 1 < n.f 48 1 ∨ n.ty = 5 ∧ (n.f 48 8 = 0 ∨ 2 ^ 40 < n.f 48 8) →
      n.refusal opn = some 0x01) ∧
    (n.refusal opn ≠ some 0x01 →
      let odd := n.f 8 8 % 8 ≠ 0 ∨ n.f 16 8 % 8 ≠ 0 ∨ n.ty = 8 ∧ n.f 32 8 % 4096 ≠ 0 ∨ (n.ty = 6 ∨ n.ty = 7) ∧ n.f 32 8 % 8 ≠ 0 ∨
        n.ty = 3 ∧ n.f 32 1 = 0 ∧ n.f 40 8 % 64 ≠ 0
      let inPass := n.ty = 4 ∨ n.ty = 6 ∨ n.ty = 7 ∨ n.ty = 3 ∧ n.f 32 1 = 1
      let needsPass := n.ty = 4 ∨ n.ty = 3 ∧ n.f 32 1 = 1
      (odd → n.refusal opn = some 0x04) ∧
      (¬ odd → n.ty = 10 → n.qd.privq = false → n.refusal opn = some 0x06) ∧
      (¬ odd → (n.ty = 10 → n.qd.privq = true) → (opn = true ∧ ¬ inPass) ∨ (opn = false ∧ needsPass) → n.refusal opn = some 0x05) ∧
      (¬ odd → (n.ty = 10 → n.qd.privq = true) → (opn = true → inPass) → (opn = false → ¬ needsPass) → n.refusal opn = none)))

/-- LAUNCH, POOL_LAUNCH, RENDER_PASS and DRAW_MESH start what their structures describe, or are refused with the code of R437. The model's
own choices and readings in it: logs 26, 32. -/
def Obligations.LaunchPackets : Prop :=
  ∀ (b s : State) (n : Next), Ready b s n → n.refusal (s.d.openPass s.d.arg.a).isSome = none →
    let p := packetOf s n
    -- a structure that is read, and the device once it was read
    let gets (d : Dev) (va k : Nat) (bs : List Byte) (d' : Dev) : Prop :=
      n.read s.env d va k = (.ok bs false, d') ∧ d'.nextId = d.nextId ∧ d'.hub = d.hub
    -- the caches of the context's launches are dropped where a launch starts (R236, R339)
    let fresh (d : Dev) : List (Nat × Core) := d.cores.map fun q => (q.1, { q.2 with cc := [], wtabs := q.2.wtabs.filter fun u => u.2 ≠ n.ctx.ctxid })
    let more (d : Dev) (l : Launch) : Dev :=
      { d with nextId := d.nextId + 1, fresh := d.fresh + 1, cores := fresh d, launches := d.launches ++ [l] }
    let gen (d : Dev) := (Config.freeWord d.fresh).toNat
    let runs : Pkt := { p with launch := some (s.d.nextId + 1) }
    let recordAt := n.qd.seg + 64 * (n.pos + 1)
    (∀ rb d, (n.ty = 1 ∨ n.ty = 2) → gets (numbered s 1) recordAt 256 rb d →
      let r := parseRecord rb
      (∀ code, n.ty = 1 → r.refused .grid (fieldN rb 20 1) n.ctx.sup s.d.hub = some code → Refuses .launch b s n 5 code d) ∧
      (n.ty = 1 → r.refused .grid (fieldN rb 20 1) n.ctx.sup s.d.hub = none → r.nmod ≤ 1 →
        Reads .launch b s n 5 runs (more d (launchOf s n .grid r (gen d) r.groups))) ∧
      -- over several modules the packet goes to each of them with its generation, and the launch is held
      (n.ty = 1 → r.refused .grid (fieldN rb 20 1) n.ctx.sup s.d.hub = none → 1 < r.nmod → (∀ l ∈ d.launches, l.id ≠ s.d.nextId + 1) →
        let g := ((d.domains.foldl (fun g m => max g m.gen) s.d.hub.gencnt) + 1) % 2 ^ 32
        let data := leBytes 8 g ++ leBytes 8 n.qd.ctxd ++ leBytes 1 n.qd.part ++ leBytes 1 n.qd.prio ++ n.bs ++ rb
        let d := more d { launchOf s n .grid r g r.groups with held := true }
        let dom : Domain := { gen := g, launch := s.d.nextId + 1, pkt := s.d.nextId, nmod := r.nmod, sentAt := s.clock, reports := [(0, 0)], origin := true }
        let sent := (List.range (r.nmod - 1)).map fun k => ({ dst := 1 + k, kind := mPacket, line := g, arg := 0, bytes := data } : Msg)
        Reads .launch b s n 5 runs { d with domains := d.domains ++ [dom], msgs := d.msgs ++ sent }) ∧
      (n.ty = 2 → r.refused .pool (fieldN rb 20 1) n.ctx.sup s.d.hub = none →
        (r.pool = 0 → Refuses .poolLaunch b s n 5 0x08 d) ∧ (r.pool ≠ 0 → r.pool % 64 ≠ 0 → Refuses .poolLaunch b s n 5 0x04 d) ∧
        (∀ pb d₂, r.pool ≠ 0 → r.pool % 64 = 0 → gets d r.pool 64 pb d₂ →
          let base := fieldN pb 0 8
          let log := fieldN pb 8 1
          let init := fieldN pb 16 8
          let count := fieldN pb 24 8
          let odd := base % 4096 ≠ 0 ∨ init % 32 ≠ 0
          let wrong := log < 10 ∨ 24 < log ∨ 2 ^ log < count
          (odd → Refuses .poolLaunch b s n 5 0x04 d₂) ∧ (¬ odd → wrong → Refuses .poolLaunch b s n 5 0x02 d₂) ∧
          (¬ odd → ¬ wrong → r.nmod ≤ 1 →
            Reads .poolLaunch b s n 5 runs
              (more d₂ { launchOf s n .pool r (gen d₂) 0 with poolBase := base, poolLog := log, initBase := init, initN := count }))))) ∧
    (∀ blk d, n.ty = 3 → n.f 32 1 = 0 → gets (numbered s 1) (n.f 40 8) 512 blk d →
      let p0 : Pass := { id := s.d.nextId + 1, blk := blk, launch := s.d.nextId + 2, pkt := s.d.nextId, part := n.qd.part, ctx := n.ctx, rng := n.rs }
      (p0.ok = false → Refuses .renderPassOpen b s n 1 0x02 d) ∧
      (∀ rb d₂, p0.ok = true → gets d (fieldN blk 16 8) 256 rb d₂ →
        let r := parseRecord rb
        (∀ code, r.refused .pixel 0 n.ctx.sup s.d.hub = some code → Refuses .renderPassOpen b s n 1 code d₂) ∧
        (r.refused .pixel 0 n.ctx.sup s.d.hub = none →
          ∃ l, l.id = s.d.nextId + 2 ∧ l.kind = .pixel ∧ l.pass = s.d.nextId + 1 ∧ l.r.fcap = p0.fpix ∧ l.r.fstart = p0.fpix ∧ l.r.priv = false ∧
            l.r.text = r.text ∧ l.r.w = r.w ∧ l.ctx = n.ctx ∧ l.total = 0 ∧
            Reads .renderPassOpen b s n 1 { p with pass := some (s.d.nextId + 1) }
              { d₂ with nextId := s.d.nextId + 3, fresh := d₂.fresh + 1, cores := fresh d₂, launches := d₂.launches ++ [l]
                        passes := d₂.passes ++ [p0], queues := d₂.queues.map fun u => if u.q = s.d.arg.a then { u with openPass := some (s.d.nextId + 1) } else u }))) ∧
    (∀ pid, s.d.openPass s.d.arg.a = some pid →
      let d := numbered s 1
      (n.ty = 3 → n.f 32 1 = 1 →
        Reads .renderPassClose b s n 1 { p with pass := some pid }
          { d with passes := d.passes.map (fun k => if k.id = pid then { k with closePkt := some s.d.nextId } else k)
                   queues := d.queues.map fun u => if u.q = s.d.arg.a then { u with openPass := none } else u }) ∧
      (n.ty = 4 →
        let nv := n.f 40 2
        let np := n.f 42 2
        let na := n.f 44 1
        let wrong := nv = 0 ∨ 256 < nv ∨ np = 0 ∨ 512 < np ∨ 32 < na
        (wrong → Refuses .drawMesh b s n 1 0x02 d) ∧
        (∀ rb d', ¬ wrong → gets d (n.f 32 8) 256 rb d' →
          let r := parseRecord rb
          (∀ code, r.refused .grid (fieldN rb 20 1) n.ctx.sup s.d.hub = some code → Refuses .drawMesh b s n 1 code d') ∧
          (r.refused .grid (fieldN rb 20 1) n.ctx.sup s.d.hub = none →
            let d := more d' { launchOf s n .mesh r (gen d') r.groups with pass := pid, meshV := nv, meshP := np, meshA := na }
            Reads .drawMesh b s n 1 runs
              { d with passes := d.passes.map fun k => if k.id = pid then { k with draws := k.draws ++ [s.d.nextId + 1] } else k }))))

namespace Sys2Proof.Said

/-- COPY moves its bytes in pieces, in an order of the choices; WAIT compares and parks; SIGNAL writes or adds; LINK moves to the next segment and gives the
old one to the free list; FENCE only keeps order; PARTITION_SET writes a partition's controls. -/
def PacketsOfAQueue : Prop :=
  (∀ (b s : State) (n : Next), Ready b s n → n.refusal (s.d.openPass s.d.arg.a).isSome = none →
    let d := numbered s 1
    let p := packetOf s n
    let fin : Pkt := { p with finished := true }
    let holds (x : Nat) : Prop := (n.f 48 1 = 0 → n.f 40 8 ≤ x) ∧ (n.f 48 1 = 1 → x = n.f 40 8) ∧ (n.f 48 1 = 2 → x ≠ n.f 40 8)
    (n.ty = 5 → s.d.arg.b = 0 → Reads .copy b s n 1 { p with left := [(0, n.f 48 8)] } d) ∧
    (∀ bs d, n.ty = 6 → n.read s.env (numbered s 1) (n.f 32 8) 8 = (.ok bs false, d) →
      (holds (leNat bs) → Reads .waitPacket b s n 1 fin d) ∧
      (¬ holds (leNat bs) →
        let parks (u : Queue) : Queue :=
          { u with slot := none, parked := some (n.f 32 8, n.f 40 8, n.f 48 1, s.d.nextId), watched := none, parkedAt := s.clock }
        let d := (d.qdPut s.env s.d.arg.a 34 [3#8]).qdPut s.env s.d.arg.a 36 (leBytes 8 (n.f 32 8))
        Reads .waitPacket b s n 1 p
          { d with queues := d.queues.map (fun u => if u.q = s.d.arg.a then parks u else u)
                   agenda := d.agenda ++ [.ev .waitWatchRecheck s.d.arg.a 0 0 []] })) ∧
    (∀ d', n.ty = 7 →
      let act : Act := if n.f 48 1 = 0 then .write (leBytes 8 (n.f 40 8)) else .int 0 0x0B (n.f 40 8) 0
      let write := d.writeLine s.env n.rs n.asker (pktOp s.d.nextId) (n.f 32 8 % 2 ^ 57) 8 act
      (write = (.done, d') → Reads .signal b s n 1 fin d') ∧
      (∀ c v, write = (.lost c v, d') → Reads .signal b s n 1 { fin with code := 4, detail := c } d')) ∧
    (n.ty = 8 →
      let d := d.qdPut s.env s.d.arg.a 0 (leBytes 8 (n.f 32 8))
      let d : Dev := { d with queues := d.queues.map fun u => if u.q = s.d.arg.a then { u with heldSeg := some n.qd.seg } else u }
      exec .link b = .next (s.put ((pktJoined s n (64 - n.qd.ridx % 64) fin d).freePush s.env s.d.arg.a))) ∧
    (n.ty = 9 → Reads .fencePacket b s n 1 fin d) ∧
    (∀ bs d, n.ty = 10 → n.read s.env (numbered s 1) (n.f 40 8) 128 = (.ok bs false, d) →
      let cores := fieldN bs 64 2
      let bwq := fieldN bs 66 2
      let pwr := fieldN bs 68 2
      let flags := fieldN bs 70 1
      let i := n.f 32 1
      (4 ≤ flags → Refuses .partitionSet b s n 1 0x01 d) ∧
      (flags < 4 → 15 < i ∨ 512 < cores ∨ 1024 < bwq ∨ 1600 < pwr → Refuses .partitionSet b s n 1 0x02 d) ∧
      (flags < 4 → i ≤ 15 → cores ≤ 512 → bwq ≤ 1024 → pwr ≤ 1600 → d.parts.length = 16 →
        let old := d.parts.getD i {}
        let new : Partition :=
          { cmask := (List.range 512).map fun c => (bs.getD (c / 8) 0#8).getLsbD (c % 8), cores := cores, bwq := bwq, pwr := pwr
            on := flags.testBit 0, fsvc := flags.testBit 1, bw := old.bw, est := old.est }
        Reads .partitionSet b s n 1 { p with pos := s.clock } { d with parts := d.parts.set i new }))) ∧
  -- a COPY goes on, by as many bytes as lie in one line on both sides
  (∀ (s : State) (p : Pkt), s.d.wb = [] → s.d.arg.b = p.id → p.id ≠ 0 → s.d.pkts.filter (fun k => k.id = p.id) = [p] →
    p.ty = 5 → p.finished = false → (∃ r ∈ p.left, r.1 < r.2) →
    ∃ o lo hi, (lo, hi) ∈ p.left ∧ lo ≤ o ∧ o < hi ∧
    let src := (fieldN p.body 0 8 + o) % 2 ^ 57
    let dst := (fieldN p.body 8 8 + o) % 2 ^ 57
    let m := min (min (128 - src % 128) (128 - dst % 128)) (hi - o)
    let rs := s.d.ctxRanges s.env p.ctx
    let who := { askerOf p.ctx p.part with unit := 1 }
    ∀ bs d d', Dev.readG s.env rs who 2 s.d.afterChoice src m = (.ok bs false, d) →
      (Dev.writeG s.env rs who (pktOp p.id) 2 d dst bs = (.done, d') →
        exec .copy s = .next (s.put (d'.modPkt p.id fun k => { k with left := cutRun o bs.length k.left }))) ∧
      (∀ c v, Dev.writeG s.env rs who (pktOp p.id) 2 d dst bs = (.lost c v, d') →
        exec .copy s = .next (s.put (d'.modPkt p.id fun k => { k with finished := true, code := 4, detail := c })))) ∧
  -- the signal unit reads the word of a parked queue again
  (∀ (s : State) (u : Queue) (qd : QD) (p : Pkt) va v cmp, s.d.wb = [] → s.d.queue? s.d.arg.a = some u → s.d.qd? s.env s.d.arg.a = some qd →
    u.parked = some (va, v, cmp, p.id) → s.d.pkts.find? (fun k => k.id = p.id) = some p → u.watched.isSome = true → cmp ≤ 2 →
    let rs := s.d.ctxRanges s.env p.ctx
    let d := s.d.modQueue s.d.arg.a fun w => { w with parkedAt := s.clock, watched := s.d.lineAt s.env rs va }
    ∀ bs d', Dev.readG s.env rs (askerOf p.ctx p.part) 2 d (va % 2 ^ 57) 8 = (.ok bs false, d') →
      let x := leNat bs
      let holds := (cmp = 0 ∧ v ≤ x) ∨ (cmp = 1 ∧ x = v) ∨ (cmp = 2 ∧ x ≠ v)
      let freed := ((d'.qdPut s.env s.d.arg.a 34 [1#8]).modQueue s.d.arg.a fun w => { w with parked := none, watched := none }).hartEvent 2 s.d.arg.a
      (holds → exec .waitWatchRecheck s = .next (s.put (freed.modPkt p.id fun k => { k with finished := true }))) ∧
      (¬ holds → exec .waitWatchRecheck s = .next (s.put d'))) ∧
  (∀ (s : State), s.d.wb = [] →
    let late := ∃ u, s.d.queue? s.d.arg.a = some u ∧ u.parked.isSome = true ∧ u.parkedAt + 65536 ≤ s.clock
    (s.d.queue? s.d.arg.a = none → exec .waitWatchRecheck s = .next s) ∧
    (late → exec .waitWatchTimeout s = exec .waitWatchRecheck s) ∧ (¬ late → exec .waitWatchTimeout s = .next s)) ∧
  -- a segment goes into the free list where that has room
  (∀ (s : State) (u : Queue) (qd : QD) (c : Ctx), s.d.wb = [] → s.d.queue? s.d.arg.a = some u → s.d.qd? s.env s.d.arg.a = some qd →
    s.d.readCtx s.env qd.ctxd = some c →
    (u.heldSeg = none → exec .freeListGetAdvance s = .next s) ∧
    (∀ seg bs d, u.heldSeg = some seg →
      let rs := s.d.ctxRanges s.env c
      let who := askerOf c qd.part
      Dev.readG s.env rs who 2 s.d (qd.freel % 2 ^ 57) 16 = (.ok bs false, d) →
      let put := fieldN bs 0 8
      let used := (put + 2 ^ 64 - fieldN bs 8 8) % 2 ^ 64
      (2 ^ qd.fln ≤ used → exec .freeListGetAdvance s = .next (s.put d)) ∧
      (∀ d' d'', used < 2 ^ qd.fln →
        Dev.writeG s.env rs who (noOp who) 2 d ((qd.freel + 64 + 8 * (put % 2 ^ qd.fln)) % 2 ^ 57) (leBytes 8 seg) = (.done, d') →
        Dev.writeG s.env rs who (noOp who) 2 d' (qd.freel % 2 ^ 57) (leBytes 8 (put + 1)) = (.done, d'') →
        exec .freeListGetAdvance s = .next (s.put (d''.modQueue s.d.arg.a fun w => { w with heldSeg := none })))))

/-- A launch of nobody's work-group and no parked write is over once everything of it was offered: its CODE is 3 after an abort, 4 after a
fatal end of the engine's own, 2 where a work-group ended under R380, else 0. A packet that completes writes its status, adds to its
signal word, posts its event, and is gone. -/
def PacketsComplete : Prop :=
  ∀ (s : State), s.d.wb = [] →
    (∀ (p : Pkt) (l : Launch), p.finished = false → p.launch = some l.id → s.d.launch? l.id = some l → (∀ m ∈ s.d.domains, m.pkt ≠ p.id) →
      (∀ ep ∈ s.d.eps, ep.log = []) →
      ((∃ g ∈ s.d.wgs, g.launch = l.id ∧ g.place ≠ .retired) → s.d.pktResult s.env p = none) ∧
      ((∀ g ∈ s.d.wgs, g.launch = l.id → g.place = .retired) →
        (l.aborted = true → s.d.pktResult s.env p = some (3, l.detail, l.ntrap)) ∧
        (l.aborted = false → l.kind ≠ .pool → (l.held = true ∨ l.next < l.total) → s.d.pktResult s.env p = none) ∧
        (l.aborted = false → l.kind ≠ .pool → l.held = false → l.total ≤ l.next →
          (l.fatal ≠ 0 → s.d.pktResult s.env p = some (4, l.fatal, l.ntrap)) ∧
          (l.fatal = 0 → l.ntrap ≠ 0 → s.d.pktResult s.env p = some (2, l.detail, l.ntrap)) ∧
          (l.fatal = 0 → l.ntrap = 0 → s.d.pktResult s.env p = some (0, 0, 0))))) ∧
    (s.d.pkts.find? (fun p => p.id = s.d.arg.a) = none → exec .packetComplete s = .next s) ∧
    (∀ (p : Pkt), s.d.pkts.filter (fun k => k.id = s.d.arg.a) = [p] →
      (s.d.pktResult s.env p = none → exec .packetComplete s = .next s) ∧
      (∀ code detail ntrap, s.d.pktResult s.env p = some (code, detail, ntrap) → (∀ m ∈ s.d.domains, m.pkt ≠ p.id) → (∀ ep ∈ s.d.eps, ep.log = []) →
        let rs := s.d.ctxRanges s.env p.ctx
        let done (k : Pkt) : Pkt := { k with finished := true, code := code, detail := detail, ntrap := ntrap }
        let d := s.d.modPkt p.id done
        let gone (d : Dev) : State := s.put ({ d with
          pkts := d.pkts.filter fun k => k.id ≠ p.id
          cores := d.cores.map fun q => (q.1, { q.2 with cc := [], wtabs := q.2.wtabs.filter fun u => u.2 ≠ p.ctx.ctxid }) } : Dev).tidy
        let event (d : Dev) : Dev :=
          if p.flg.testBit 1 then d.postEvent s.env 6 p.part p.ctx.ctxid (leBytes 4 p.q ++ leBytes 4 p.ridx) else d
        let status : Act := .write (leBytes 4 (code + 256 * (detail % 256)) ++ leBytes 4 ntrap)
        let write (d : Dev) (va : Nat) (a : Act) := d.writeLine s.env rs (askerOf p.ctx p.part) (pktOp p.id) (va % 2 ^ 57) 8 a
        -- without either word
        (p.cstat = 0 → p.csig = 0 → exec .packetComplete s = .next (gone (event d))) ∧
        -- with both
        (∀ d1 d2, p.stage = 0 → p.cstat ≠ 0 → p.cstat % 8 = 0 → p.csig ≠ 0 → p.csig % 8 = 0 → write d p.cstat status = (.done, d1) →
          let d1 := d1.modPkt p.id fun k => { k with stage := 1 }
          write d1 p.csig (.int 0 0x0B p.cval 0) = (.done, d2) → d1.eps = s.d.eps → d2.eps = s.d.eps → d2.domains = s.d.domains →
          exec .packetComplete s = .next (gone (event (d2.modPkt p.id fun k => { k with stage := 2 }))))))

end Sys2Proof.Said

/-- The packets of a queue: barriers, waits, signals, copies and links; and their completion: all of the parts above. (R431, R434, R435,
R436, R437, R441.) The model's own choices and readings in it: log 32. -/
def Obligations.QueuePackets : Prop := PacketsOfAQueue ∧ PacketsComplete

/-- The Equinox barrier: rank 0 gathers a report of each module and starts the generation everywhere, or aborts it with the code of the
lowest rank that refused, or with 0xFF when its time is over; a generation starts after the one before it, and one that has its go waits for an
earlier one. (R24, R450, R451.) The model's
own choices and readings in it: log 33. -/
def Obligations.EquinoxBarrier : Prop :=
  ∀ (s : State), s.d.wb = [] →
    -- EQUINOX_REPORT
    (let rank := s.d.arg.a
     let code := s.d.arg.c
     (s.d.domain? s.d.arg.b = none → exec .equinoxReport s = .next s) ∧
     (∀ (m : Domain), s.d.domain? s.d.arg.b = some m → m.gen = s.d.arg.b →
       (m.origin = false ∨ m.nmod ≤ rank ∨ (∃ r ∈ m.reports, r.1 = rank) → exec .equinoxReport s = .next s) ∧
       (m.origin = true → rank < m.nmod → (∀ r ∈ m.reports, r.1 ≠ rank) →
         let rs := m.reports ++ [(rank, code)]
         let d := (s.d.modDomain m.gen fun k => { k with reports := rs }).hartEvent 5 m.gen
         (m.ended = true ∨ ((∀ r ∈ rs, r.2 = 0) ∧ rs.length < m.nmod) → exec .equinoxReport s = .next { s with d := d }) ∧
         (m.ended = false → (∀ r ∈ rs, r.2 = 0) → m.nmod ≤ rs.length →
           exec .equinoxReport s = .next { s with d := (d.toAll m mGo 0).goNow m.gen }) ∧
         (∀ r, m.ended = false → r ∈ rs → r.2 ≠ 0 → (∀ q ∈ rs, q.2 ≠ 0 → r.1 < q.1 ∨ q = r) →
           exec .equinoxReport s = .next { s with d := (d.toAll m mAbort r.2).abortNow m.gen r.2 })))) ∧
    -- EQUINOX_TIMEOUT
    (∀ (m : Domain), s.d.domain? s.d.arg.a = some m → m.gen = s.d.arg.a →
      let late := m.origin = true ∧ m.ended = false ∧ m.sentAt + max 1 s.d.hub.eqtmo ≤ s.clock
      (late → exec .equinoxTimeout s = .next { s with d := (s.d.toAll m mAbort 0xFF).abortNow m.gen 0xFF }) ∧
      (¬ late → exec .equinoxTimeout s = .next s)) ∧
    -- EQUINOX_GO and EQUINOX_ABORT
    (s.d.domain? s.d.arg.a = none → exec .equinoxAbort s = .next s) ∧
    (let after (g : Nat) : Nat := (g + 2 ^ 32 - s.d.hub.gencnt) % 2 ^ 32
     let ahead (g : Nat) : Prop := g ≠ s.d.hub.gencnt ∧ after g < 2 ^ 31
     let told (m : Domain) : Domain := { m with reports := [(0, 0)] }
     let closed (m : Domain) : Domain := { m with ended := true, reports := [] }
     -- every module has reported ready, or go has come
     let ready (m : Domain) : Prop := if m.origin then m.nmod ≤ m.reports.length ∧ ∀ r ∈ m.reports, r.2 = 0 else m.reports ≠ []
     let begun (m : Domain) (l : Launch) : Launch := if l.id = m.launch then { l with held := false, gen := m.gen } else l
     let becomes (g : Nat) (ms : List Domain) (ls : List Launch) : Prop :=
       exec .equinoxGo s = .next { s with d := { s.d with hub := { s.d.hub with gencnt := g }, domains := ms, launches := ls } }
     (s.d.domain? s.d.arg.a = none → (∀ m ∈ s.d.domains, ¬ ahead m.gen) → exec .equinoxGo s = .next s) ∧
     -- the only generation here
     (∀ (m : Domain), s.d.domains = [m] → m.gen = s.d.arg.a →
       (ahead m.gen → m.ended = false → (m.origin = false ∨ ready m) → becomes m.gen [closed m] (s.d.launches.map (begun m))) ∧
       (ahead m.gen → m.ended = true → becomes m.gen [m] s.d.launches) ∧
       (m.ended = false → m.origin = true → ¬ ready m → exec .equinoxGo s = .next s) ∧
       exec .equinoxAbort s = .next { s with d := { s.d with
         hub := { s.d.hub with gencnt := if m.gen ≠ s.d.hub.gencnt ∧ after m.gen < 2 ^ 31 then m.gen else s.d.hub.gencnt }
         domains := [{ m with ended := true }]
         launches := s.d.launches.map fun l => if l.id = m.launch then { l with aborted := true, held := false, detail := s.d.arg.b } else l
         pkts := s.d.pkts.map fun k => if k.id = m.pkt then { k with finished := true, code := 3, detail := s.d.arg.b } else k } }) ∧
     -- an earlier one waits, or follows
     (∀ (k m : Domain), s.d.domains = [k, m] → k.gen < 2 ^ 32 → m.gen < 2 ^ 32 → s.d.hub.gencnt < 2 ^ 32 → ahead k.gen → after k.gen < after m.gen → after m.gen < 2 ^ 31 → k.ended = false → m.ended = false →
       m.origin = false →
       (m.gen = s.d.arg.a → ¬ ready k → becomes s.d.hub.gencnt [k, told m] s.d.launches) ∧
       (k.gen = s.d.arg.a → k.origin = false → m.reports = [] → becomes k.gen [closed k, m] (s.d.launches.map (begun k))) ∧
       (k.gen = s.d.arg.a → k.origin = false → m.reports ≠ [] →
         becomes m.gen [closed k, closed m] ((s.d.launches.map (begun k)).map (begun m))))) ∧
    -- EQUINOX_PACKET_RECEIVE
    (let bs := s.d.arg.bytes
     let slots := bs.drop 18
     let r := parseRecord (slots.drop 64)
     let report (code : Nat) : Msg := { dst := 0, kind := mReport, line := fieldN bs 0 8, arg := s.d.hub.rank * 2 ^ 16 + code }
     let code20 := fieldN (slots.drop 64) 20 1
     let hub : Hub := { s.d.hub with domcfg := s.d.hub.domcfg &&& ~~~0x7F#64 }
     (s.d.hub.rank = 0 ∨ s.d.readCtx s.env (fieldN bs 8 8) = none → exec .equinoxPacketReceive s = .next s) ∧
     (∀ c, s.d.hub.rank ≠ 0 → s.d.readCtx s.env (fieldN bs 8 8) = some c → fieldN slots 0 1 = 1 →
       (∀ code, r.refused .grid code20 c.sup hub = some code → ∃ d, exec .equinoxPacketReceive s = .next { s with d := d } ∧
         d.msgs = s.d.msgs ++ [report code] ∧ d.launches = s.d.launches) ∧
       (r.refused .grid code20 c.sup hub = none → ∃ d l, exec .equinoxPacketReceive s = .next { s with d := d } ∧
         d.msgs = s.d.msgs ++ [report 0] ∧ d.launches = s.d.launches ++ [l] ∧ l.r = r ∧ l.held = true ∧ l.gen = fieldN bs 0 8 ∧
         l.ctx = c ∧ l.kind = .grid ∧ l.dev = s.d.hub.rank)))

/-! ### R395, R404, R405, R426 to R428, R457 to R468, R476, R482: the hub, coherence and links -/

namespace Sys2Proof.Said

/-- A write of a firmware hart at a named offset changes its register, with the bits and the bounds the table gives it; an offset not named
and a register of the host's own leave it. Of the host's writes the doorbell and DBGREQ have an effect. An extension of a measurement
register hashes it with MRDATA. -/
def HubRegisters : Prop :=
  ∀ (s : State), s.d.wb = [] →
    let off := s.d.arg.b
    let v := s.d.arg.c
    let becomes (h : Hub) : Prop := exec .registerWrite s = .next { s with d := { s.d with hub := h } }
    let only (mask : Nat) : DWord := BitVec.ofNat 64 v &&& BitVec.ofNat 64 mask
    let bell := off = 0x61000
    (bell → exec .registerWrite s = .next { s with d := { s.d with agenda := s.d.agenda ++ [.ev .doorbell v 0 0 []] } }) ∧
    (s.d.arg.a = 1 → ¬ bell → off ≠ 0x60038 → exec .registerWrite s = .next s) ∧
    (off = 0x60038 → ∀ op, op = v / 2 ^ 56 % 4 → exec .registerWrite s = .next (s.put (s.d.dbgWrite s.env v op))) ∧
    (s.d.arg.a ≠ 1 →
      (off = 0x300 → exec .registerWrite s = .next (s.put (s.d.mrExtend (v % 8)))) ∧
      (off = 0x408 → becomes { s.d.hub with pwrlim := max 100 (min 1600 (v % 2 ^ 11)) }) ∧
      (∀ k < 4096, off = 0x40000 + 4 * k → becomes { s.d.hub with tagq := Table.set 0 s.d.hub.tagq k (min 12288 (v % 2 ^ 14)) }) ∧
      (off = 0x50000 → becomes { s.d.hub with ptroot := only 0x3FFFFC0001 }) ∧
      (off = 0x50008 → becomes { s.d.hub with fmbase := only 0x3FFFFFF000 }) ∧
      (off = 0x50010 → becomes { s.d.hub with fqbase := only 0x3FFFFFF00F }) ∧
      (off = 0x50018 → becomes { s.d.hub with cairnctl := only 0xFFC7FF }) ∧
      (off = 0x60000 → becomes { s.d.hub with qdbase := only 0xFFFFFFF000001 }) ∧
      (off = 0x60008 → becomes { s.d.hub with evbase := only 0xFFFFFFFFFF00F }) ∧
      (off = 0x60018 → becomes { s.d.hub with spinw := v % 2 ^ 32 }) ∧
      (off = 0x60020 → becomes { s.d.hub with eqtmo := v % 2 ^ 32 }) ∧
      (off = 0x60028 → becomes { s.d.hub with domcfg := only 0x7F7F }) ∧
      (off = 0x60140 → becomes { s.d.hub with dspbase := only 0xFFFFFFFFFFF00 }) ∧
      (∀ j < 16, off = 0x60200 + 8 * j → becomes { s.d.hub with peerrt := putAt (BitVec.ofNat 64 v) s.d.hub.peerrt j }) ∧
      (∀ j < 8, off = 0x340 + 8 * j →
        ∃ m, becomes { s.d.hub with mrdata := m } ∧ ∀ k < 8, part512 m k = if k = j then BitVec.ofNat 64 v else part512 s.d.hub.mrdata k) ∧
      (off = 0 ∨ off = 0x400 ∨ off = 0x410 ∨ off = 0x50020 ∨ off = 0x60010 ∨ off = 0x60030 ∨ off = 0x60108 ∨ 0x61001 ≤ off →
        exec .registerWrite s = .next s)) ∧
    -- MR_EXTEND
    (let i := s.d.arg.a % 8
     (i = 0 ∨ s.d.hub.mrctlBusy = true → exec .mrExtend s = .next s) ∧
     (∀ old, i ≠ 0 → s.d.hub.mrctlBusy = false → s.d.hub.mr[i]? = some old →
       let new := Config.sha3_512 (leBytes 64 old.toNat ++ leBytes 64 s.d.hub.mrdata.toNat)
       exec .mrExtend s = .next { s with d := { s.d with hub := { s.d.hub with mr := s.d.hub.mr.set i new } } }))

/-- A debugger's request is ignored while one is busy and refused when it names no resident work-group. HALT begins a halt of the
work-group; CONTINUE ends it, CONVERT makes it a pre-emption, and KILL ends the work-group with a record; each of the three is done at
once. -/
def DebuggerRequests : Prop :=
  ∀ (s : State), s.d.wb = [] → (∀ h ∈ s.d.wgs, ∀ f ∈ h.fibs, ∀ k t v n i, f.wait ≠ .memw k t v n i) → (∀ q ∈ s.d.queues, q.watched = none) →
    let v := s.d.arg.a
    let asks (op stat : Nat) : Hub :=
      { s.d.hub with dbgreq := BitVec.ofNat 64 (v / 2 ^ 32 % 2 ^ 12 * 2 ^ 32 + v / 2 ^ 16 % 2 ^ 9 * 2 ^ 16 + v % 2 ^ 6 + op * 2 ^ 56 + stat * 2 ^ 62) }
    let named (g : WG) : Prop := g.place = .resident ∧ g.ctx.ctxid = v / 2 ^ 32 % 2 ^ 12 ∧ g.core = v / 2 ^ 16 % 2 ^ 9 ∧ g.slot = v % 2 ^ 6
    let rows : List (Instr × Nat) := [(.dbgreqHalt, 0), (.dbgreqContinue, 1), (.dbgreqConvert, 2), (.dbgreqKill, 3)]
    (s.d.dbgStat = 1 → ∀ p ∈ rows, exec p.1 s = .next s) ∧
    (s.d.dbgStat ≠ 1 → (∀ g ∈ s.d.wgs, ¬ named g) → ∀ p ∈ rows, exec p.1 s = .next { s with d := { s.d with hub := asks p.2 3 } }) ∧
    (∀ (g : WG), s.d.dbgStat ≠ 1 → named g → g ∈ s.d.wgs → (∀ h ∈ s.d.wgs, named h ∨ h.id = g.id → h = g) → s.d.wgs.Nodup →
      let halted := g.halt = .debug ∧ g.frozen = true
      let l := s.d.launch? g.launch
      -- its end: STAT 2 and the event
      let done (op : Nat) (t : State) : Prop := t.d.hub.dbgreq = (asks op 2).dbgreq ∧ t.d.hub.evput = (s.d.hub.evput + 1) % 2 ^ 64 ∧
        t.d.msix = s.d.msix ++ [(l.map (·.part)).getD 0] ∧ t.clock = s.clock
      (g.halt = .none →
        let d := s.d.afterChoice.modWg g.id fun h =>
          { h with halt := .debug, haltAt := s.clock, skidMax := s.d.choices.headD (Config.freeChoice s.d.fresh) % 5, stopped := false, frozen := false }
        exec .dbgreqHalt s = .next { s with d := { d with hub := asks 0 1 } }) ∧
      (halted → ∃ t, exec .dbgreqHalt s = .next t ∧ done 0 t ∧ t.d.wgs = s.d.wgs) ∧
      (¬ halted → ∃ t, exec .dbgreqContinue s = .next t ∧ done 1 t ∧ t.d.wgs = s.d.wgs) ∧
      (halted → g.wantPreempt = false → (∀ o ∈ s.d.ops, o.wg ≠ g.id) → ∃ t, exec .dbgreqContinue s = .next t ∧ done 1 t ∧
        t.d.wgs = s.d.wgs.map fun h => if h.id = g.id then
          { h with halt := if h.handling then .trap else .none, stopped := false, frozen := false, skidMax := 0, trapPend := false
                   fibs := h.fibs.map fun f => { f with skid := 0, stuck := false, pcause := 0, readyAt := s.clock + 1 } } else h) ∧
      (¬ halted → ∃ t, exec .dbgreqConvert s = .next t ∧ done 2 t ∧ t.d.wgs = s.d.wgs) ∧
      (halted → g.image.isSome = true → ∃ t, exec .dbgreqConvert s = .next t ∧ done 2 t ∧
        t.d.agenda = s.d.agenda ++ [.ev .saveComplete g.id 0 0 []] ∧
        t.d.wgs = s.d.wgs.map fun h => if h.id = g.id then { h with halt := .preempt, stopped := true, frozen := true, wantPreempt := false } else h) ∧
      ((s.d.core g.core).laneH < 64 → (∀ line, (s.d.dirEnt line).st ≠ 3) → ∃ t, exec .dbgreqKill s = .next t ∧ done 3 t ∧ t.d.laneH.length = s.d.laneH.length + 1 ∧
        t.d.laneH.take s.d.laneH.length = s.d.laneH ∧ t.d.ops = (s.d.ops.filter fun o => o.wg ≠ g.id) ∧
        ∃ h, t.d.wg? g.id = some h ∧ h.fibs.all (fun f => !f.live) = true ∧ h.halt = .none ∧ h.mops = []))

end Sys2Proof.Said

/-- The hub registers and the debugger's requests: all of the parts above. (R395, R404, R405, R426, R427, R428.) The model's own choices and
readings in it: logs 37, 39. -/
def Obligations.HubAndDebugger : Prop := HubRegisters ∧ DebuggerRequests

/-- A request reaches the home of its line. While a transaction of the line is open it waits; else the other holders are snooped, or the
grant goes out at once. A snoop moves the agent's copy and its answer returns; the last answer lets the home grant; the grant sets the copy,
and its acknowledgement ends the transaction. A write-back of the owner puts its data into memory. (R454, R457, R458, R459, R460.) The
model's own choices and readings in it: log 34. -/
def Obligations.Coherence : Prop :=
  ∀ (s : State), s.d.wb = [] →
    let a := s.d.arg.a
    let line := s.d.arg.b
    let en := s.d.dirEnt line
    let span := if a = 1 then (128 * line, 64) else if a = 2 then (128 * line + 64, 64) else (128 * line, 128)
    let copies (m : Nat) : List Copy :=
      let rest := s.d.copies.filter fun c => !(c.agent = a && c.line = line)
      if m = 0 then rest else { agent := a, line := line, mesi := m } :: rest
    -- requests
    (∀ p ∈ [((Instr.rds, 0) : Instr × Nat), (.rdx, 1), (.upg, 2)],
      let r : Req := { agent := a, line := line, kind := p.2 }
      let others := (s.d.holders en).filter fun b => !sameAgent a b
      let snoops := if p.2 = 0 ∧ en.st ≠ 2 then [] else others
      let withData := !(p.2 = 2 && en.st = 1 && (s.d.holders en).contains a)
      (s.d.txn? line ≠ none → exec p.1 s = .next { s with d := { s.d with reqs := s.d.reqs ++ [r] } }) ∧
      (s.d.txn? line = none → (∀ q ∈ s.d.reqs, q.line ≠ line) → en.st ≠ 3 →
        (snoops ≠ [] →
          exec p.1 s = .next { s with d := { s.d with
            txns := s.d.txns ++ [{ req := r, snoops := snoops.map fun b => (b, decide (p.2 ≠ 0)), withData := withData }]
            msgs := s.d.msgs ++ snoops.map fun b => { dst := b, kind := if p.2 = 0 then mSnpS else mSnpI, line := line, arg := 0 } } }) ∧
        (snoops = [] → a ≠ agentOwn →
          let shared := p.2 = 0 ∧ others ≠ []
          let g := if shared then 1 else 2
          let new : DirEnt := if shared then en.share a else { st := 2, own := ownCode a }
          let grant : Msg := { dst := a, kind := mGrant, line := line, arg := g + if withData then 4 else 0
                               bytes := if withData then (List.range span.2).map (fun j => s.mem.byte (span.1 + j)) else [] }
          exec p.1 s = .next { s with d := { s.d with
            txns := s.d.txns ++ [{ req := r, snoops := [], withData := withData, sent := true, granted := g }]
            dir := Table.set {} s.d.dir line new, msgs := s.d.msgs ++ [grant] } })) ∧
      (s.d.txn? line = none → (∀ q ∈ s.d.reqs, q.line ≠ line) → en.st = 3 → ∃ d, exec p.1 s = .next { s with d := d } ∧
        d.msgs = s.d.msgs ++ (0 :: 1 :: 2 :: s.d.peersIn (2 ^ 16 - 1)).map (fun b => { dst := b, kind := mSnpI, line := line, arg := 0 }) ∧
        d.laneH.length = s.d.laneH.length + 1)) ∧
    -- write-backs
    (¬ (en.st = 2 ∧ en.own = ownCode a) → exec .wb s = .next { s with d := { s.d with copies := copies 0 } }) ∧
    (s.Ok → en.st = 2 → en.own = ownCode a → s.d.txn? line = none → a ≠ 1 → a ≠ 2 → s.d.arg.bytes.length = 128 →
      ∃ t, exec .wb s = .next t ∧ (∀ j < 128, t.mem.byte (128 * line + j) = s.d.arg.bytes.getD j 0#8) ∧
        (∀ k, (k < 128 * line ∨ 128 * line + 128 ≤ k) → t.mem.byte k = s.mem.byte k) ∧ t.d.copies = copies 0 ∧
        t.d.dir = Table.set {} s.d.dir line {}) ∧
    -- snoops at an agent other than the module's own slice
    (a ≠ 3 → ∀ inv : Bool,
      let i : Instr := if inv then .snpi else .snps
      let m := s.d.copyOf a line
      let left := if inv then 0 else min m 1
      let asked := s.d.reqs.any fun r => sameAgent r.agent a && r.line = line
      let answer : Msg :=
        { dst := agentHome, kind := mRsp, line := line, arg := a * 16 + (if asked then 8 else 0) + (if m = 3 then 4 else 0) + left
          bytes := if m = 3 ∧ a = 0 then (List.range 128).map (fun j => s.mem.byte (128 * line + j)) else [] }
      exec i s = .next { s with d := { s.d with
        copies := copies left
        msgs := s.d.msgs.erase { dst := a, kind := if inv then mSnpI else mSnpS, line := line, arg := 0 } ++ [answer] } }) ∧
    -- answers
    (let msgs := s.d.msgs.filter fun m => !(m.kind = mRsp && m.dst = agentHome && m.line = line && m.arg / 16 = a)
     (s.d.txn? line = none → exec .rsp s = .next { s with d := { s.d with msgs := msgs } }) ∧
     (∀ t, s.d.txns.filter (fun u => u.req.line = line) = [t] → t.sent = false → t.recovery = false → s.d.arg.bytes = [] → t.req.agent ≠ agentOwn →
       let rest := t.snoops.filter fun p => p.1 ≠ a
       let d (u : Txn) : Dev := { s.d with txns := s.d.txns.map (fun w => if w.req.line = line then u else w), msgs := msgs }
       ((∀ p ∈ t.snoops, p.1 ≠ a) → exec .rsp s = .next { s with d := { s.d with msgs := msgs } }) ∧
       ((∃ p ∈ t.snoops, p.1 = a) → rest ≠ [] → exec .rsp s = .next { s with d := d { t with snoops := rest } }) ∧
       ((∃ p ∈ t.snoops, p.1 = a) → rest = [] → ∃ t' g, exec .rsp s = .next t' ∧ t'.mem = s.mem ∧
         t'.d.txn? line = some { t with snoops := [], sent := true, granted := g } ∧ (t.req.kind ≠ 0 → g = 2) ∧
         ∃ b, t'.d.msgs = msgs ++ [{ dst := t.req.agent, kind := mGrant, line := line, arg := g + if t.withData then 4 else 0, bytes := b }]))) ∧
    -- grants and acknowledgements
    (s.d.msgs.find? (fun m => m.kind = mGrant && m.dst = a && m.line = line) = none → exec .go s = .next s) ∧
    (∀ m, s.d.msgs.find? (fun m => m.kind = mGrant && m.dst = a && m.line = line) = some m →
      exec .go s = .next { s with d := { s.d with
        copies := copies (m.arg % 4)
        msgs := s.d.msgs.erase m ++ [{ dst := agentHome, kind := mGoAck, line := line, arg := a }] } }) ∧
    (let msgs := s.d.msgs.filter fun m => !(m.kind = mGoAck && m.line = line && m.arg = a)
     (s.d.txn? line = none → exec .goack s = .next { s with d := { s.d with msgs := msgs } }) ∧
     (∀ t, s.d.txns.filter (fun u => u.req.line = line) = [t] →
       (¬ (t.sent = true ∧ t.req.agent = a) → exec .goack s = .next { s with d := { s.d with msgs := msgs } }) ∧
       (t.sent = true → t.req.agent = a → (∀ q ∈ s.d.reqs, q.line ≠ line) →
         exec .goack s = .next { s with d := { s.d with msgs := msgs, txns := s.d.txns.filter fun u => u.req.line ≠ line } })))

/-- A flit on a link that is down is lost. One that fails its CRC or its sequence number, or finds its buffer full, is answered by a NAK and
counted; the next good flit of a message joins its buffer and is acknowledged. A trained link starts afresh; a downstream port goes up with
its capacity and down without. (R456, R461, R462, R463, R464, R465, R466, R467.) The model's own choices and readings in it: logs 11, 35. -/
def Obligations.LinksAndPorts : Prop :=
  ∀ (s : State), s.d.wb = [] →
    let i := s.d.arg.a
    let f := s.d.arg.bytes
    let n (o k : Nat) : Nat := fieldN f o k
    (∀ l, s.d.links[i]? = some l →
      let vc := n 2 1 % 4
      let buf := l.vcs.getD vc []
      let good := f.length = 128 ∧ Config.crc64 (f.take 120) = BitVec.ofNat 64 (n 120 8) ∧ n 0 2 = l.rxSeq ∧ buf.length < 768
      let count := s.d.hub.linkst.toNat / 2 ^ 8 % 2 ^ 32
      let links (l' : Link) : List Link := s.d.links.set i l'
      (l.up = false → exec .peerFlitReceive s = .next s) ∧
      (l.up = true → ¬ good →
        exec .peerFlitReceive s = .next { s with d := { s.d with
          hub := { s.d.hub with linkst := BitVec.ofNat 64 (min (count + 1) (2 ^ 32 - 1) * 2 ^ 8) }
          links := links (l.push 0 (n 4 1) s.d.hub.rank 8 []) } }) ∧
      (l.up = true → good → n 5 1 = 0 → buf.length ≠ 191 → l.nakRun < 16 →
        let took := { l with rxSeq := (l.rxSeq + 1) % 2 ^ 16, vcs := l.vcs.modify vc (· ++ [f]) }
        exec .peerFlitReceive s = .next { s with d := { s.d with links := links (took.push 0 (n 4 1) s.d.hub.rank 4 []) } })) ∧
    (∀ l, i < 8 → s.d.links[i]? = some l →
      (s.d.hub.peercfg.getLsbD i = true → exec .peerLinkTrained s = .next { s with d := { s.d with links := s.d.links.set i { up := true } } }) ∧
      (s.d.hub.peercfg.getLsbD i = false → exec .peerLinkTrained s = .next s)) ∧
    (i < 4 → s.d.hub.cxlup.length = 4 → s.d.hub.cxlcap.length = 4 →
      exec .cxlPortLinkDown s = .next { s with d := { s.d with hub := { s.d.hub with cxlup := s.d.hub.cxlup.set i false } } } ∧
      exec .downstreamPortLinkUp s = .next { s with d := { s.d with hub := { s.d.hub with
        cxlup := s.d.hub.cxlup.set i true, cxlcap := s.d.hub.cxlcap.set i (s.d.arg.b % 2 ^ 25 * 2 ^ 16) } } })

/-! ### R468 to R483: displays, bring-up, attestation, power -/

/-- The mailbox: an image is taken in its two states, within its bounds; BOOT begins verification, whose step sets MR0 and starts the harts,
with the feature word of each core (its moment is the model's choice, log 5), or leaves the reason of the first check that fails; STATUS
answers BOOTST; ATTEST answers a signed report while the image runs. (R49, R473, R474, R475, R476, R477.) The model's own choices and
readings in it: logs 5, 7, 37. -/
def Obligations.Mailbox : Prop :=
  ∀ (s : State), s.d.wb = [] →
    let bs := s.d.arg.bytes
    let off := s.d.arg.a
    let takes := s.d.hub.bootState = 1 ∨ s.d.hub.bootState = 4
    let bootst := leBytes 8 (Config.fusedSvn.toNat * 2 ^ 32 + s.d.hub.bootReason % 256 * 2 ^ 8 + s.d.hub.bootState % 16)
    let answers (i : Instr) (b : List Byte) : Prop := exec i s = .next { s with d := { s.d with out := s.d.out ++ [b] } }
    -- IMAGE
    (¬ takes ∨ 2 ^ 18 < bs.length ∨ 32 * 2 ^ 20 < off + bs.length → answers .image bootst) ∧
    (takes → bs.length ≤ 2 ^ 18 → off + bs.length ≤ 32 * 2 ^ 20 → Table.okFrom 0#8 0 s.d.imageBytes = true →
      ∃ t, exec .image s = .next { s with d := { s.d with imageBytes := t, out := s.d.out ++ [[]] } } ∧
        ∀ a, Table.get 0#8 t a = if off ≤ a ∧ a < off + bs.length then bs.getD (a - off) 0#8 else Table.get 0#8 s.d.imageBytes a) ∧
    -- STATUS, ATTEST
    answers .status bootst ∧
    (s.d.hub.bootState ≠ 3 → answers .attest bootst) ∧
    (s.d.hub.bootState = 3 →
      let key := (Config.mldsaPublic Config.fusedSeed ++ List.replicate (2592 - (Config.mldsaPublic Config.fusedSeed).length) 0#8).take 2592
      let nonce := (bs ++ List.replicate (64 - bs.length) 0#8).take 64
      let head := leBytes 4 0x4E585254 ++ leBytes 2 1 ++ leBytes 2 0 ++ leBytes 8 (s.d.rcnt + 1) ++ nonce ++ s.d.hub.mr.flatMap (fun m => leBytes 64 m.toNat) ++ key
      let sign := Config.mldsaSign Config.fusedSeed head
      let report := head ++ (sign ++ List.replicate (4627 - sign.length) 0#8).take 4627
      exec .attest s = .next { s with d := { s.d with rcnt := s.d.rcnt + 1, out := s.d.out ++ [report] } }) ∧
    -- BOOT
    (s.d.arg.b ≠ 1 → ¬ takes → answers .boot bootst) ∧
    (s.d.arg.b ≠ 1 → takes → exec .boot s = .next { s with d := { s.d with
      hub := { s.d.hub with bootState := 2 }, agenda := s.d.agenda ++ [.ev .boot s.d.arg.a 1 0 []] } }) ∧
    (s.d.arg.b = 1 → s.d.hub.bootState ≠ 2 → exec .boot s = .next s) ∧
    (s.Ok → s.d.arg.b = 1 → s.d.hub.bootState = 2 → s.d.hub.mr.length = 8 →
      let image (o n : Nat) : List Byte := (List.range n).map fun j => Table.get 0#8 s.d.imageBytes (o + j)
      let n32 (o : Nat) : Nat := leNat (image o 4)
      let blen := n32 8
      let why := s.d.bootReason s.d.arg.a
      let shape := s.d.arg.a = 7283 + blen ∧ blen % 64 = 0 ∧ 64 ≤ blen ∧ blen ≤ 33547136 ∧ n32 12 < blen ∧ n32 12 % 2 = 0
      let header := n32 0 = 0x4E584657 ∧ leNat (image 16 48) = 0
      let keyed := Config.sha3_512 (image (64 + blen) 2592) = Config.fusedKeyHash
      let fresh := Config.fusedSvn.toNat ≤ n32 4
      let signed := Config.mldsaVerify (image (64 + blen) 2592) (image 0 (64 + blen)) (image (2656 + blen) 4627) = true
      (¬ shape → why = 1) ∧ (shape → ¬ header → why = 2) ∧ (shape → header → ¬ keyed → why = 3) ∧
      (shape → header → keyed → ¬ fresh → why = 4) ∧ (shape → header → keyed → fresh → ¬ signed → why = 5) ∧
      (shape → header → keyed → fresh → signed → why = 0) ∧
      ∃ t, exec .boot s = .next t ∧ t.d.hub.bootReason = why ∧
        t.d.hub.mr[0]? = some (Config.sha3_512 (List.replicate 64 0#8 ++ leBytes 64 (Config.sha3_512 (image 0 (2656 + blen))).toNat)) ∧
        (why ≠ 0 → t.d.hub.bootState = 4 ∧ t.mem = s.mem ∧ t.d.harts = s.d.harts) ∧
        (why = 0 → t.d.hub.bootState = 3 ∧ (∀ j < blen, t.mem.byte (4 * 2 ^ 60 + 0x80000000 + j) = (image 64 blen).getD j 0#8) ∧
          (Table.okFrom {} 0 s.d.cores = true → ∀ c < 512, (t.d.core c).feature = 0xFF#32 &&& ~~~Config.unfitUnits s.d.resets c) ∧
          t.d.harts = s.d.harts.map fun h => { h with pc := BitVec.ofNat 64 (0x80000000 + n32 12), mode := 3, running := true }))

/-- A reset begins again at step 1 with clock 0: registers at their reset values, hart memory clear, the GDDR 7 kept only from D3cold with
auxiliary power. Four samples in a row above 1,800 W are such a reset. (R472, R478, R480, R481, R482, R483.) The model's own choices and
readings in it: logs 3, 37. -/
def Obligations.ResetsAndPower : Prop :=
  ∀ (s : State),
    (let keep := s.d.power = .d3cold ∧ s.d.auxKept = true
     ∃ t, exec .moduleReset s = .next t ∧ t.clock = 0 ∧ t.d.hub = {} ∧ t.d.wgs = [] ∧ t.d.ops = [] ∧ t.d.launches = [] ∧ t.d.queues = [] ∧
       t.d.cores = [] ∧ t.d.power = .on ∧ t.d.parts = Partition.all :: List.replicate 15 {} ∧ t.d.harts = List.replicate 8 {} ∧
       t.d.rcnt = 0 ∧
       (s.Ok → ∀ a, (a / 2 ^ 60 = 4 → t.mem.byte a = Memory.unlisted) ∧
         ((keep ∧ a / 2 ^ 60 = 0) ∨ (a / 2 ^ 60 ≠ 0 ∧ a / 2 ^ 60 ≠ 4) → t.mem.byte a = s.mem.byte a))) ∧
    (s.d.wb = [] →
      let pin := s.d.arg.a
      let high := if 8 * 1800 < pin then s.d.pinHigh + 1 else 0
      let t : State := { s with d := { s.d with hub := { s.d.hub with pin := min pin (2 ^ 16 - 1) }, pinHigh := high } }
      (high < 4 → exec .powerSample s = .next t) ∧ (4 ≤ high → exec .powerSample s = exec .moduleReset t)) ∧
    (s.d.wb = [] → s.d.queues = [] → s.d.pkts = [] → s.d.launches = [] → s.d.wgs = [] → s.d.passes = [] → s.d.power = .on →
      ∃ d, exec .d3hotEntry s = .next { s with d := d } ∧ d.power = .d3hot ∧ (∀ c < 512, (d.core c).gated = true) ∧ d.hub = s.d.hub ∧ d.wgs = []) ∧
    (s.d.wb = [] → (s.d.power ≠ .on ∨ s.d.pkts ≠ [] ∨ s.d.launches ≠ [] ∨ s.d.wgs ≠ []) → exec .d3hotEntry s = .next s) ∧
    (s.d.wb = [] →
      (s.d.power = .d3hot → exec .d3hotExit s = .next { s with d := { s.d with power := .on } } ∧
        exec .d3coldEntry s = .next { s with d := { s.d with power := .d3cold, auxKept := true } }) ∧
      (s.d.power ≠ .d3hot → exec .d3hotExit s = .next s ∧ exec .d3coldEntry s = .next s) ∧
      (s.d.power = .d3cold → exec .auxPowerLoss s = .next { s with d := { s.d with auxKept := false } }) ∧
      (s.d.power ≠ .d3cold → exec .auxPowerLoss s = .next s)) ∧
    (s.d.wb = [] →
      let c := s.d.arg.a
      let idle := (∀ g ∈ s.d.wgs, ¬ (g.core = c ∧ g.place = .resident)) ∧ (s.d.core c).idleAt + 65536 ≤ s.clock
      (¬ idle → exec .coreIdleGate s = .next s) ∧
      (idle → exec .coreIdleGate s = .next { s with d := s.d.modCore c fun k => { k with gated := true } })) ∧
    -- a scrub finds nothing, corrects and counts an error, leaves a word poisoned or consumed, or finds the state of a line unreadable
    (s.d.wb = [] → ∃ d, exec .sramScrub s = .next { s with d := d } ∧
      (s.d.choices.headD (Config.freeChoice s.d.fresh) % 5 = 0 → d = s.d.afterChoice) ∧
      (s.d.choices.headD (Config.freeChoice s.d.fresh) % 5 = 1 →
        d = { s.d.afterChoice with hub := { s.d.hub with ecce := s.d.hub.ecce + 1 } }) ∧
      d.hub = { s.d.hub with ecce := d.hub.ecce, eccu := d.hub.eccu })

/-- The poll of the heads enables a disabled one whose HFLG[0] has become 1 with a timing within the limits. At T_g of an enabled head a
disabled flag stops it; a complete frame is shown; without one the last frame stands, or black. (R468, R469, R470, R471.) The model's own
choices and readings in it: log 36. -/
def Obligations.Displays : Prop :=
  ∀ (s : State), s.d.wb = [] → s.d.heads.length = 4 →
    (∀ (hs : List Head) (b : Nat → List Byte), (∀ h < 4, s.d.headBlock s.env h = some (b h)) →
      exec .headEnablePoll s = .next { s with d := { s.d with headPollAt := s.clock, heads := hs } } →
      ∀ h < 4, ∀ x y, s.d.heads[h]? = some x → hs[h]? = some y →
        let en := (fieldN (b h) 48 1).testBit 0
        (x.on = true → y = x) ∧
        (x.on = false → en = true → x.seen = false → timingOk (b h) = true →
          y = { x with on := true, seen := true, timing := b h, startAt := s.clock, frames := 0 }) ∧
        (x.on = false → ¬ (en = true ∧ x.seen = false ∧ timingOk (b h) = true) → y = { x with seen := en })) ∧
    (∃ hs, exec .headEnablePoll s = .next { s with d := { s.d with headPollAt := s.clock, heads := hs } } ∧ hs.length = 4) ∧
    (∀ x b, s.d.arg.a < 4 → s.d.heads[s.d.arg.a]? = some x →
      let i := Instr.displayGuardTime
      let becomes (y : Head) : Prop := exec i s = .next { s with d := { s.d with heads := s.d.heads.set s.d.arg.a y } }
      (x.on = false → exec i s = .next s) ∧
      (x.on = true → s.d.headBlock s.env s.d.arg.a = some b →
        ((fieldN b 48 1).testBit 0 = false → becomes { x with frames := x.frames + 1, on := false, seen := false }) ∧
        (∀ r f, (fieldN b 48 1).testBit 0 = true → s.d.iaBytes s.env (fieldN b 8 8) 8 = some r → s.d.iaBytes s.env (fieldN b 0 8) 128 = some f →
          (fieldN b 16 8 ≤ leNat r → becomes { x with frames := x.frames + 1, lastFrame := some f, out := 1 }) ∧
          (∀ p, leNat r < fieldN b 16 8 → s.d.iaBytes s.env (fieldN b 24 8) 64 = some p →
            let pose := if fieldN p 0 8 % 2 = 0 then some (wordsAt p 8 12) else x.pose
            let y := { x with frames := x.frames + 1, pose := pose }
            (x.lastFrame = none → becomes { y with out := 0 }) ∧
            (x.lastFrame ≠ none → pose = none → becomes { y with out := 1 }) ∧
            -- too little time for a warp
            (x.lastFrame ≠ none → pose ≠ none → fieldN b 40 4 < (hact x.timing * vact x.timing + 63) / 64 + 64 → becomes { y with out := 1 }) ∧
            (∀ l, x.lastFrame = some l → pose ≠ none → (hact x.timing * vact x.timing + 63) / 64 + 64 ≤ fieldN b 40 4 →
              ∃ t, exec i s = .next t ∧ t.d.heads = s.d.heads.set s.d.arg.a { y with out := 2 })))))

/-! ### R452, R453: the Rinsar instructions of the firmware harts -/

namespace Sys2Proof.Said

/-- The hart whose turn it is takes an exception. -/
def HartTraps (i : Instr) (s : State) (cause : Nat) (tval : DWord) : Prop :=
  exec i s = .next { s with d := s.d.modHart s.d.curHart (·.take cause tval) }

/-- It has its result in rd and goes on; `x0` stays zero. -/
def answered (rd : BitVec 5) (v : DWord) (h : Hart) : Hart :=
  { h with x := if rd = 0#5 then h.x else putAt v h.x rd.toNat, pc := h.pc + 4#64, waiting := none, asking := none }

def HartGets (i : Instr) (s : State) (rd : BitVec 5) (v : DWord) : Prop :=
  exec i s = .next { s with d := s.d.modHart s.d.curHart (answered rd v) }

/-- It stands at the instruction until the hub answers. -/
def HartAsks (i : Instr) (s : State) (rd : BitVec 5) : Prop :=
  exec i s = .next { s with d := s.d.modHart s.d.curHart fun h =>
    { h with asking := if h.asking.isSome then h.asking else some (s.clock, rd.toNat) } }

end Sys2Proof.Said

/-- `rfetch`, `bfxt`, `swait` and `dspch` in M-mode and S-mode, with their exceptions; in U-mode each of them is an illegal instruction. A
wait for an event and a wait for the hub end at their times. (R452, R453.) The model's own choices and readings in it: logs 1, 38, 43. -/
def Obligations.RinsarInstructions : Prop :=
  ∀ (s : State) (h : Hart) (rd r1 r2 : BitVec 5), s.d.wb = [] → s.d.harts[s.d.curHart]? = some h → h.x.length = 32 → h.x.getD 0 0#64 = 0#64 →
    let a := h.x.getD r1.toNat 0#64
    let b := h.x.getD r2.toNat 0#64
    let odd (o n : Nat) : Prop := o % 64 ≠ 0 ∨ 16384 < o + n
    (h.mode = 0 → ∀ i ∈ [Instr.rfetch rd r1 r2, .bfxt rd r1 r2, .swait rd r1, .dspch rd r1 r2], HartTraps i s 28 0#64) ∧
    (h.mode ≠ 0 →
      -- bfxt
      (let lo := b.toNat % 64
       let n := b.toNat / 64 % 64 + 1
       HartGets (.bfxt rd r1 r2) s rd (BitVec.ofNat 64 (a.toNat / 2 ^ lo % 2 ^ n))) ∧
      -- swait
      (h.evEn = false → HartTraps (.swait rd r1) s 30 0#64) ∧
      (h.evEn = true →
        (∀ v rest, h.evq = v :: rest →
          exec (.swait rd r1) s = .next { s with d := s.d.modHart s.d.curHart fun h => answered rd v { h with evq := rest } }) ∧
        (h.evq = [] → h.waiting = none → a = 0#64 → HartGets (.swait rd r1) s rd 0#64) ∧
        (h.evq = [] → h.waiting = none → a ≠ 0#64 →
          exec (.swait rd r1) s = .next { s with d := s.d.modHart s.d.curHart fun h =>
            { h with waiting := some (s.clock + (3 * a.toNat + 7) / 8, rd.toNat) } }) ∧
        (∀ w, h.evq = [] → h.waiting = some w →
          exec (.swait rd r1) s = .next { s with d := s.d.modHart s.d.curHart fun h => { h with waiting := some (w.1, rd.toNat) } })) ∧
      -- rfetch
      (4096 ≤ a.toNat → HartTraps (.rfetch rd r1 r2) s 24 a) ∧
      (a.toNat < 4096 → odd b.toNat 64 → HartTraps (.rfetch rd r1 r2) s 25 b) ∧
      (a.toNat < 4096 → ¬ odd b.toNat 64 →
        ((∀ u ∈ s.d.queues, u.slot ≠ some a.toNat) → HartGets (.rfetch rd r1 r2) s rd 0#64) ∧
        (∀ u qd c bs, s.d.queues.find? (fun u => u.slot = some a.toNat) = some u → s.d.qd? s.env u.q = some qd →
          (qd.unread = 0 → HartGets (.rfetch rd r1 r2) s rd 0#64) ∧
          (qd.unread ≠ 0 → qd.state ≠ 4 → u.heldSeg = none → s.d.readCtx s.env qd.ctxd = some c →
            let n : Next := { q := u.q, qd := qd, ctx := c, rs := s.d.ctxRanges s.env c, bs := [] }
            (∀ d, n.read s.env s.d (qd.seg + 64 * (qd.ridx % 64)) 64 = (.ok bs true, d) →
              exec (.rfetch rd r1 r2) s = .next (s.put (d.modHart s.d.curHart (·.take 26 0#64)))) ∧
            (∀ d, n.read s.env s.d (qd.seg + 64 * (qd.ridx % 64)) 64 = (.ok bs false, d) → d.curHart = s.d.curHart → d.harts = s.d.harts →
                fieldN bs 0 1 ≠ 8 → Table.okFrom 0#8 0 h.buf = true →
              ∃ t buf, t = d.qdPut s.env u.q 8 (leBytes 4 ((qd.ridx + 1) % 2 ^ 32)) ∧
                exec (.rfetch rd r1 r2) s = .next (s.put (t.modHart s.d.curHart fun h =>
                  answered rd (BitVec.ofNat 64 (2 ^ 63 + qd.ridx)) { h with
                    buf := buf, bufPoison := h.bufPoison.filter fun k => !(decide (b.toNat ≤ k) && decide (k < b.toNat + 64)) })) ∧
                ∀ k, Table.get 0#8 buf k = if b.toNat ≤ k ∧ k < b.toNat + 64 then bs.getD (k - b.toNat) 0#8 else Table.get 0#8 h.buf k)))) ∧
      -- dspch
      (odd a.toNat 256 → HartTraps (.dspch rd r1 r2) s 25 a) ∧
      (¬ odd a.toNat 256 → 2 ^ 18 ≤ b.toNat → HartTraps (.dspch rd r1 r2) s 27 b) ∧
      (¬ odd a.toNat 256 → b.toNat < 2 ^ 18 →
        let bad := ∃ k ∈ h.bufPoison, a.toNat ≤ k ∧ k < a.toNat + 256
        (bad → HartTraps (.dspch rd r1 r2) s 26 0#64) ∧
        (¬ bad → 1024 ≤ s.d.inFlight → HartAsks (.dspch rd r1 r2) s rd) ∧
        (∀ qd c, ¬ bad → s.d.inFlight < 1024 → s.d.qd? s.env b.toNat = some qd → s.d.readCtx s.env qd.ctxd = some c →
          let rb := (List.range 256).map fun j => Table.get 0#8 h.buf (a.toNat + j)
          let r := parseRecord rb
          (∀ code, r.refused .grid (fieldN rb 20 1) c.sup s.d.hub = some code → HartGets (.dspch rd r1 r2) s rd (BitVec.ofNat 64 code)) ∧
          (r.refused .grid (fieldN rb 20 1) c.sup s.d.hub = none → r.nmod ≤ 1 →
            ∃ l, l.id = s.d.nextId ∧ l.r = r ∧ l.kind = .grid ∧ l.q = b.toNat ∧ l.ctx = c ∧ l.part = qd.part ∧ l.prio = qd.prio ∧ l.total = r.groups ∧
              l.next = 0 ∧ l.held = false ∧
              let d : Dev :=
                { s.d with
                  nextId := s.d.nextId + 1, fresh := s.d.fresh + 1, launches := s.d.launches ++ [l]
                  cores := s.d.cores.map fun q => (q.1, { q.2 with cc := [], wtabs := q.2.wtabs.filter fun u => u.2 ≠ c.ctxid }) }
              exec (.dspch rd r1 r2) s = .next { s with d := d.modHart s.d.curHart (answered rd 0#64) })))) ∧
    -- the ends of the two waits, for hart a of the step
    (∀ w : Hart, s.d.harts[s.d.arg.a]? = some w → w.x.length = 32 →
      (∀ t q, w.waiting = some (t, q) → q < 32 →
        (t ≤ s.clock → exec .swaitTimeout s = .next { s with d := s.d.modHart s.d.arg.a (answered (BitVec.ofNat 5 q) 0#64) }) ∧
        (s.clock < t → exec .swaitTimeout s = .next s)) ∧
      (w.waiting = none → exec .swaitTimeout s = .next s) ∧
      (∀ t q, w.asking = some (t, q) →
        (t + 24576 ≤ s.clock → exec .rinsarHubTimeout s = .next { s with d := s.d.modHart s.d.arg.a (·.take 31 0#64) }) ∧
        (s.clock < t + 24576 → exec .rinsarHubTimeout s = .next s)) ∧
      (w.asking = none → exec .rinsarHubTimeout s = .next s))

/-! ### The machine as a whole -/

/-- Right after reset: the values the spec states (R395, R417, R427, R442, R448, R472, R476, R482). -/
def Obligations.ResetState : Prop :=
  let s := State.reset
  let d := s.d
  s.clock = 0 ∧ d.wgs = [] ∧ d.launches = [] ∧ d.ops = [] ∧ d.ropes = [] ∧ d.queues = [] ∧ d.hub.bootState = 0 ∧ d.hub.pwrlim = 1600 ∧
    (∀ m ∈ d.hub.mr, m = 0#512) ∧ d.hub.mr.length = 8 ∧ d.evSeq = 0 ∧ d.hub.gencnt = 0 ∧ d.hub.evput = 0 ∧
    (∀ c, (d.core c).feature = 0xFF#32 ∧ (d.core c).l1 = []) ∧
    (∃ p rest, d.parts = p :: rest ∧ p.on = true ∧ (∀ c < 512, p.cmask[c]? = some true) ∧ p.cores = 512 ∧ p.bwq = 1024 ∧ p.pwr = 1600 ∧
      rest.length = 15 ∧ ∀ q ∈ rest, q.on = false) ∧
    (∀ o < 2 ^ 23, d.hostReg o = 0#64)

namespace Sys2Proof.Said

/-- The virtual address of the word at text offset 4 j from the PC. -/
def wordVa (g : WG) (f : Fib) (l : Launch) (j : Nat) : Nat := (textBase g f l + f.pc.toNat + 4 * j) % 2 ^ 57

/-- The word at text offset 4 j from the PC. -/
def wordAt (s : State) (at_ j : Nat) : Word := BitVec.ofNat 32 (leNat ((List.range 4).map fun i => s.mem.byte (at_ + 4 * j + i)))

/-- A state in which the first rope's first fibre stands in text that lies in one run of local GDDR 7 of the direct window, and that has not
changed since its work-group first fetched it (R156). -/
structure Stands (s : State) (r : Rope) (rest : List Rope) (g : WG) (f : Fib) (l : Launch) (at_ : Nat) : Prop where
  ropes : s.d.ropes = r :: rest
  fibre : ∃ w k more, r.fibs = (w, k) :: more ∧ s.d.wg? w = some g ∧ g.fib? k = some f
  launch : s.d.launch? g.launch = some l
  placed : f.started = true ∨ f.pc.toNat % 4 = 0 ∧ f.pc.toNat < textSize g f l
  quiet : s.d.wb = []
  clean : s.d.poison = []
  mine : s.d.dir = []
  one : s.d.wgs.filter (fun h => h.id = g.id) = [g]
  unchanged : ∀ j < 5, Table.get 0 g.fetched (wordVa g f l j) = 0 ∨ Table.get 0 g.fetched (wordVa g f l j) = (wordAt s at_ j).toNat + 1
  text : ∀ j < 20, rangeLookup g.rng ((textBase g f l + f.pc.toNat + j) % 2 ^ 57) = some (0xFF * 2 ^ 44 + at_ + j)
  memory : at_ + 20 ≤ gddrSize

/-- The device once the work-group of `g` has fetched `k` words from its fibre's PC: it remembers them (R156). -/
def Fetches (s : State) (g : WG) (f : Fib) (l : Launch) (at_ k : Nat) (d : Dev) : Prop :=
  ∃ seen, d = s.d.modWg g.id (fun h => { h with fetched := seen }) ∧ (Table.okFrom 0 0 g.fetched = true → ∀ a,
    (∀ j < k, a = wordVa g f l j → Table.get 0 seen a = (wordAt s at_ j).toNat + 1) ∧
    ((∀ j < k, a ≠ wordVa g f l j) → Table.get 0 seen a = Table.get 0 g.fetched a))

end Sys2Proof.Said

/-- A step runs what it reads: the instruction that the words at the first rope's PC decode to, or the trap that their decoding calls for;
then the first item of the agenda; then the next core clock. A firmware hart runs the Rinsar instruction at its pc. (R143, R154, R156,
R452.) The model's own choices and readings in it: logs 12, 17, 38, 42. -/
def Obligations.AStepRunsWhatItReads : Prop :=
  (∀ (s : State) r rest g f l at_ n, Stands s r rest g f l at_ → n = lenWords (wordAt s at_ 0) →
    let ws := (List.range n).map (wordAt s at_)
    let traps (d : Dev) (c v : Nat) : State := s.put ((firsts r.fibs).foldl (fun d p => d.raise s.env p.1 p.2 c v) { d with ropes := rest })
    (f.pc.toNat + 4 * n ≤ textSize g f l → ∃ d, Fetches s g f l at_ n d ∧
      (∀ i, (decode ws).1 = .ok i → step s = exec i { s with d := d }) ∧
      ((decode ws).1 = .reserved → step s = .next (traps d cIllegalEncoding (ws.headD 0#32).toNat)) ∧
      (∀ p, (decode ws).1 = .badField p →
        step s = .next (if p && !f.priv then traps d cAccessDenied 0 else traps d cIllegalEncoding (ws.headD 0#32).toNat))) ∧
    -- the first word past the end of the text
    (∀ k < n, k = 0 ∨ f.pc.toNat + 4 * k ≤ textSize g f l → textSize g f l < f.pc.toNat + 4 * (k + 1) →
      ∃ d, Fetches s g f l at_ k d ∧ step s = .next (traps d cAccessDenied (vaWide (wordVa g f l k))))) ∧
  (∀ (s : State), s.d.ropes = [] →
    (s.d.agenda = [] → step s = exec .issueCycle s) ∧
    (∀ i a b c bs rest, s.d.agenda = .ev i a b c bs :: rest →
      step s = exec i { s with d := { s.d with agenda := rest, arg := { a := a, b := b, c := c, bytes := bs } } }) ∧
    (∀ h rest, s.d.agenda = .hart h :: rest → s.d.wb = [] →
      let t : State := { s with d := { s.d with agenda := rest, curHart := h } }
      let hart := s.d.harts.getD h {}
      let w : Word := BitVec.ofNat 32 (leNat ((List.range 4).map fun i => s.mem.byte (hartKey hart.pc.toNat + i)))
      (hart.running = false → step s = .next t) ∧
      (hart.running = true → w.toNat % 128 = 0x0B →
        (∀ i, decodeRinsar w = some i → step s = exec i t) ∧
        (decodeRinsar w = none → step s = .next { t with d := t.d.modHart h (·.take (if hart.mode = 0 then 28 else 29) 0#64) })) ∧
      -- an instruction of the base set (log 38)
      (hart.running = true → w.toNat % 128 ≠ 0x0B → step s = .next (onDev (fun e d => d.hartBase e h) t))))

/-- Words written out from the encoding tables of R143 to R151 and R452, and what they stand for. -/
def Obligations.DecodedWords : Prop :=
  let one (w : Word) : Dec := (decode [w]).1
  let three (a b c : Word) : Dec := (decode [a, b, c]).1
  -- `nop`, `exit`, `movi w1, 0`, `iadd w1, w2, w0`, `bra` forward 100 and back 504 bytes
  one 0x00000004#32 = .ok (.nop 0#2 false) ∧ one 0x00000014#32 = .ok (.exit 0#2 false) ∧
  one 0x00001024#32 = .ok (.movi 0#2 false 1#7 0#6) ∧ one 0x00101038#32 = .ok (.iadd 0#2 false 1#7 2#7 0#6) ∧
  -- `shfl` and `gang` in the extended form
  three 0x000A01A2#32 0x20000104#32 0x01000000#32 =
    .ok (.shfl { twin 0#2 false with form := .ext, d := 5#8, b := 1#8, a := 4#8, bi := true, m := 0x01000000#32 }) ∧
  three 0x00020302#32 0x20000F00#32 0#32 = .ok (.gang { twin 0#2 false with form := .ext, d := 1#8, b := 0x0F#8, bi := true }) ∧
  -- OPC 0 is reserved
  one 0#32 = .reserved ∧
  decodeRinsar 0x00C5850B#32 = some (.rfetch 10#5 11#5 12#5) ∧ decodeRinsar 0x0073128B#32 = some (.bfxt 5#5 6#5 7#5) ∧
  decodeRinsar 0x0000408B#32 = none

/-- Decoding takes back encoding, for every well-formed instruction of either instruction set and every value of its fields, and leaves the
words after it. (R143, R144, R145, R146, R147, R151, R152, R452.) -/
def Obligations.DecodeInvertsEncode : Prop :=
  (∀ (i : Instr) (rest : List Word), (form i).isSome = true → i.wf = true → decode (encode i ++ rest) = (.ok i, rest)) ∧
  (∀ d r u : BitVec 5, ∀ i ∈ [Instr.rfetch d r u, .bfxt d r u, .swait d r, .dspch d r u],
    ∃ w, encode i = [w] ∧ decodeRinsar w = some i ∧ w.toNat % 128 = 0x0B)

/-- A word has one meaning: what decodes is well formed, and encodes to the words it came from. (R143, R147, R151, R152, R154, R155, R452.)
-/
def Obligations.EveryEncodingHasOneMeaning : Prop :=
  (∀ ws i rest, decode ws = (.ok i, rest) → (form i).isSome = true ∧ i.wf = true ∧ ws = encode i ++ rest) ∧
  (∀ w i, decodeRinsar w = some i → encode i = [w])

/-- The state after reset is one between steps: memory is canonical and nothing waits to be written. (R472.) The model's own choices and
readings in it: logs 2, 3. -/
def Obligations.ResetIsBetweenSteps : Prop := State.reset.Ok

/-- Every step keeps memory in its canonical form, with strictly rising addresses and no byte listed that reads as an unlisted one, and
leaves nothing waiting to be written. (R123, R124.) The model's own choices and readings in it: log 3. -/
def Obligations.MemoryStaysCanonical : Prop := ∀ (s t : State), s.Ok → step s = .next t → t.Ok

/-- No state stops the machine: every instruction and every step of a unit answers a next state, and so does every step of the machine. The
clock goes on by one core clock in ISSUE_CYCLE alone, and is 0 after a reset. (R2, R45, R452.) The model's own choices and readings in it:
log 38. -/
def Obligations.TheMachineGoesOn : Prop :=
  (∀ (i : Instr) (s : State), ∃ t, exec i s = .next t) ∧
  (∀ (s : State), ∃ t, step s = .next t) ∧
  (∀ (i : Instr) (s t : State), exec i s = .next t →
    t.clock = s.clock + (if i = .issueCycle then 1 else 0) ∨ ((i = .moduleReset ∨ i = .powerSample) ∧ t.clock = 0))

/-- A byte of memory reads as it was written last; the other bytes stand; equal memories are equal lists. (R4, R123, R124.) The model's own
choices and readings in it: log 3. -/
def Obligations.MemoryReadsWhatWasWritten : Prop :=
  (∀ (m : Memory) (a : Nat) (b : Byte), m.wf = true →
    (m.setByte a b).wf = true ∧ (m.setByte a b).byte a = b ∧ ∀ c, c ≠ a → (m.setByte a b).byte c = m.byte c) ∧
  (∀ (m n : Memory), m.wf = true → n.wf = true → (∀ a, m.byte a = n.byte a) → m = n) ∧
  (∀ n v : Nat, leNat (leBytes n v) = v % 256 ^ n)

/-- The checks of R154 come before any effect: a fibre whose instruction fails one raises its cause and is unchanged. A false guard makes
the instruction count and advance, and nothing else. An empty word under FE_EMPTY traps; every other empty word or pending predicate that
the instruction uses holds the fibre where it stands. The model's own choices and readings in it: logs 15, 16, 17. -/
def Obligations.ChecksComeFirst : Prop :=
  ∀ (i : Instr) (p : Ins) (x : X) (s : State) (r : Run), Sole s r.rest r.w r.k r.g r.f r.l → form i = some (p, x) →
    -- an instruction that no squad executes together
    (∃ b : Body, exec i = issue p b i x) →
    let lv := lvOf s.d r.g r.f r.l
    let w0 := (encode i).headD 0#32
    let guard := r.f.pred x.pg.toNat != x.pn
    (∀ c v, p.check lv x w0 = some (c, v) →
      exec i s = .next (s.put ({ s.d with ropes := r.rest, nextId := s.d.nextId + 1 }.raise s.env r.w r.k c v))) ∧
    (p.check lv x w0 = none →
      (r.f.hnd = false → x.pg.toNat ∈ r.f.pend → r.Blocks i s (.words [] [x.pg.toNat])) ∧
      ((r.f.hnd = true ∨ ¬ x.pg.toNat ∈ r.f.pend) → guard = false → p.always = false → r.Goes i s (r.next x s)) ∧
      ((r.f.hnd = true ∨ ¬ x.pg.toNat ∈ r.f.pend) → (guard = true ∨ p.always = true) →
        (∀ k, p.gate lv guard r.f x = .feEmpty k → r.Traps i s cFeEmpty k) ∧
        (∀ ws ps, p.gate lv guard r.f x = .wait ws ps → r.Blocks i s (.words ws ps)))) ∧
    -- the order of steps 3 to 6
    (p.priv = true → r.f.priv = false → p.check lv x w0 = some (cAccessDenied, 0)) ∧
    ((p.priv = true → r.f.priv = true) → p.ok4 lv x = false → p.check lv x w0 = some (cIllegalEncoding, w0.toNat)) ∧
    ((p.priv = true → r.f.priv = true) → p.ok4 lv x = true → ∀ m, m = p.feat lv x &&& ~~~(s.d.core r.g.core).feature → m ≠ 0#32 →
      p.check lv x w0 = some (cFeatureAbsent, m.toNat))

/-- The checks on a pointer (R102) in their order: the space, the range of its window, alignment, and the watch ranges; and the address that
it stands for. The model's own choices and readings in it: log 42. -/
def Obligations.PointerChecks : Prop :=
  ∀ (g : WG) (f : Fib) (l : Launch) (k q n al : Nat) (spaces : List Nat) (rd wr : Bool),
    let answer := resolve g f l k q n spaces al rd wr
    let space := q / 2 ^ 60 % 16
    let a := q % 2 ^ 60
    let shape := ptrShape q = true
    let watched := f.hnd = false ∧ watchHit g q n rd wr = true
    let checked (t : Tgt) : Prop :=
      (a % al ≠ 0 → answer = .error (cMisaligned, q)) ∧ (a % al = 0 → watched → answer = .error (cWatch, q)) ∧
      (a % al = 0 → ¬ watched → answer = .ok t)
    let fails (c : Nat) : Prop := answer = .error (c, q)
    (¬ space ∈ spaces → fails cSpaceInvalid) ∧
    (space ∈ spaces →
      (space = 0 → (¬ shape → fails cSpaceInvalid) ∧ (shape → checked (.glob (a % 2 ^ 57)))) ∧
      (space = 1 → (¬ shape ∨ l.r.members ≤ a / 2 ^ 52 ∨ l.r.v < a % 2 ^ 22 + n → fails cVaultRange) ∧
        (shape → a / 2 ^ 52 < l.r.members → a % 2 ^ 22 + n ≤ l.r.v → checked (.vault (a / 2 ^ 52) (a % 2 ^ 22)))) ∧
      (space = 2 → (¬ shape ∨ 4096 * l.r.a < a % 2 ^ 21 + n → fails cVaultRange) ∧
        (shape → a % 2 ^ 21 + n ≤ 4096 * l.r.a → checked (.acc (a % 2 ^ 21)))) ∧
      (space = 3 → (¬ shape → fails cSpaceInvalid) ∧ (shape → l.r.psize < a % 2 ^ 32 + n → fails cAccessDenied) ∧
        (shape → a % 2 ^ 32 + n ≤ l.r.psize →
          checked (.glob ((l.r.pbase + (g.gidx * l.r.fcap + k) * l.r.psize + a % 2 ^ 32) % 2 ^ 57)))) ∧
      (space = 4 → (¬ shape → fails cSpaceInvalid) ∧ (shape → wr = true ∨ l.r.csize < a % 2 ^ 32 + n → fails cAccessDenied) ∧
        (shape → wr = false → a % 2 ^ 32 + n ≤ l.r.csize → checked (.glob ((l.r.cbase + a % 2 ^ 32) % 2 ^ 57)))) ∧
      (5 ≤ space → fails cSpaceInvalid))

/-- A rope of any number of fibres: an instruction of the tables of chapters 7 and 8 gives each of them the result of its own registers, and
leaves every other fibre, every byte of memory and the clock as they were. (R36, R148, R154, R165, R202.) The model's own choices and
readings in it: logs 14, 17. -/
def Obligations.EveryFibreOfARope : Prop :=
  ∀ (table : Instr → Option Rule) (i : Instr) (p : Ins) (u : Rule) (s : State) (rope : Rope) (rest : List Rope),
    table ∈ [wideRule, logicRule, shiftRule, bitFieldRule, selectRule, fpRule, classRule, packedRule, convertRule] → table i = some u →
    form i = some (p, u.x) → s.d.ropes = rope :: rest → s.d.wb = [] → rope.fibs.Nodup → rope.fibs ≠ [] →
    let out (g : WG) (f : Fib) : FOut :=
      u.out f (srcA s.clock g f u.x u.na) (srcB s.clock g f u.x u.nb) (srcC f u.x u.nc)
    let fibre (q : Nat × Nat) (g : WG) (f : Fib) (l : Launch) : Prop :=
      s.d.wg? q.1 = some g ∧ g.fib? q.2 = some f ∧ s.d.launch? g.launch = some l
    (∀ q ∈ rope.fibs, ∃ g f l, fibre q g f l ∧ f.live = true ∧ p.check (lvOf s.d g f l) u.x ((encode i).headD 0#32) = none ∧
      (f.hnd = true ∨ ¬ u.x.pg.toNat ∈ f.pend) ∧ (f.pred u.x.pg.toNat != u.x.pn) = true ∧ p.gate (lvOf s.d g f l) true f u.x = .pass ∧
      arithTraps l.r.fpen (out g f).fl = false) →
    ∃ t, exec i s = .next t ∧ t.mem = s.mem ∧ t.clock = s.clock ∧ t.d.ropes = rest ∧
      (∀ q ∈ rope.fibs, ∀ g f l, fibre q g f l →
        t.d.fib? q.1 q.2 = some (((issuedFib g f).commit u.x.d.toNat (out g f)).advance s.clock u.x.len)) ∧
      (∀ q, ¬ q ∈ rope.fibs → t.d.fib? q.1 q.2 = s.d.fib? q.1 q.2)

/-- ISSUE_CYCLE: the clock goes on by one. Without power nothing else happens but what comes from outside. With power, every rope that is
formed holds at most 32 fibres of one core, in different lanes, that nothing blocks, of one launch, at one PC and one privilege. (R2, R33,
R34.) The model's own choices and readings in it: logs 13, 14. -/
def Obligations.IssueCycle : Prop :=
  ∀ (s : State), s.d.wb = [] → s.d.ropes = [] →
    (s.d.power ≠ .on →
      let now := s.clock + 1
      exec .issueCycle s = .next { s with
        clock := now
        d := { s.d with
          inputs := s.d.inputs.filter fun p => now < p.1
          agenda := s.d.agenda ++ (s.d.inputs.filter fun p => p.1 ≤ now).map (·.2) } }) ∧
    (s.d.power = .on → (s.d.wgs.map (·.id)).Nodup →
      ∃ t, exec .issueCycle s = .next t ∧ t.clock = s.clock + 1 ∧ (s.d.hub.bootState = 0 → t.d.hub.bootState = 1) ∧
        ∀ r ∈ t.d.ropes, r.fibs ≠ [] ∧ r.fibs.length ≤ 32 ∧
          ∃ launch pc priv hnd, ∀ q ∈ r.fibs, ∃ g f, t.d.wg? q.1 = some g ∧ g.fib? q.2 = some f ∧ g.place = .resident ∧ g.core = r.core ∧
            g.launch = launch ∧ f.live = true ∧ f.wait = .none ∧ f.readyAt ≤ t.clock ∧ f.pc = pc ∧ f.priv = priv ∧ f.hnd = hnd ∧ f.cand = true ∧
            ∀ q' ∈ r.fibs, ∀ g' f', t.d.wg? q'.1 = some g' → g'.fib? q'.2 = some f' → f'.lane = f.lane → q' = q)

/-- R371: a critical region opens, counts down with each instruction that its fibre issues, closes by `tmask.end` or after 4,096 cc, and
holds back a pre-emption but no trap. -/
def Obligations.CriticalRegions : Prop :=
  (∀ (s : State) (x : X) (r : Run),
    (r.Of (.tmaskCrit x) x s →
      (r.f.critn = 0 → r.Goes (.tmaskCrit x) s { r.next x s with critn := 256, critAt := s.clock }) ∧
      (r.f.critn ≠ 0 → r.Goes (.tmaskCrit x) s (r.next x s))) ∧
    (r.Of (.tmaskEnd x) x s → r.Goes (.tmaskEnd x) s { r.next x s with critn := 0 }) ∧
    -- modes 2 and 3
    (∀ p, form (.tmaskEnd x) = some (p, x) → Sole s r.rest r.w r.k r.g r.f r.l → r.f.priv = true → r.f.hnd = false →
      2 ≤ (x.m.extractLsb' 23 2).toNat → p.ok4 (lvOf s.d r.g r.f r.l) x = true →
      exec (.tmaskEnd x) s = .next (s.put ({ s.d with ropes := r.rest, nextId := s.d.nextId + 1 }.raise s.env r.w r.k cIllegalOperand
        ((encode (.tmaskEnd x)).headD 0#32).toNat))) ∧
    -- every instruction that completes counts, whatever its guard
    (r.next x s).critn = r.f.critn - 1 ∧
    (∀ i p, Sole s r.rest r.w r.k r.g r.f r.l → form i = some (p, x) → (∃ b : Body, exec i = issue p b i x) →
      p.check (lvOf s.d r.g r.f r.l) x ((encode i).headD 0#32) = none → (r.f.hnd = true ∨ ¬ x.pg.toNat ∈ r.f.pend) →
      (r.f.pred x.pg.toNat != x.pn) = false → p.always = false → r.Goes i s (r.next x s)) ∧
    (∀ i (p : Alu), r.Of i x s → exec i = compute p i x →
      ∃ t, exec i s = .next t ∧ ∀ f, t.d.fib? r.w r.k = some f → f.pc ≠ r.f.pc → f.critn = r.f.critn - 1)) ∧
  (∀ (s : State) (f : Fib), s.d.wb = [] → s.d.fib? s.d.arg.a s.d.arg.b = some f →
    (f.critn ≠ 0 → f.critAt + 4096 ≤ s.clock → TurnsFibre .criticalRegionTimeout s s.d.arg.a s.d.arg.b { f with critn := 0 }) ∧
    (s.clock < f.critAt + 4096 → TurnsFibre .criticalRegionTimeout s s.d.arg.a s.d.arg.b f)) ∧
  (∀ (s : State) (g : WG), s.d.wb = [] → s.d.wg? s.d.arg.a = some g → g.id = s.d.arg.a →
    (g.halt = .preempt → (∃ f ∈ g.fibs, f.live = true ∧ f.critn ≠ 0) → exec .haltComplete s = .next s) ∧
    (g.halt = .trap → g.handling = false → g.stopped = false → g.haltAt + 15 ≤ s.clock → s.d.ops = [] → (s.d.core g.core).colls = [] →
      (∀ f ∈ g.fibs, ∀ n, f.wait ≠ .ack n) → (∀ o ∈ g.mops, o.started = false ∨ o.halted = true ∨ o.held = true) →
      ∃ t h, exec .haltComplete s = .next t ∧ t.d.wg? s.d.arg.a = some h ∧ h.stopped = true))

namespace Sys2Proof.Said

/-- The assigned extended opcodes of R152. -/
def assignedXop (op : Nat) : Prop :=
  (0x001 ≤ op ∧ op ≤ 0x051) ∨ (0x060 ≤ op ∧ op ≤ 0x06C) ∨ (0x080 ≤ op ∧ op ≤ 0x095) ∨ (0x0C0 ≤ op ∧ op ≤ 0x0C8) ∨
  (0x0E0 ≤ op ∧ op ≤ 0x0EB) ∨ (0x1E0 ≤ op ∧ op ≤ 0x1E7)

end Sys2Proof.Said

/-- R153: XOPC 0x1E0 to 0x1E7 raise ACCESS_DENIED for a user fibre, whatever their operands; a reserved code raises ILLEGAL_ENCODING in
either mode; the Rinsar words are no instructions of a fibre. -/
def Obligations.PrivilegedInstructions : Prop :=
  (∀ (s : State) r rest g f l at_, Stands s r rest g f l at_ →
    let w := wordAt s at_ 0
    let op := w.toNat / 4 % 512
    let traps (d : Dev) (c v n : Nat) : State :=
      s.put ((firsts r.fibs).foldl (fun d p => d.raise s.env p.1 p.2 c v) { d with ropes := rest, nextId := n })
    2 ≤ w.toNat % 4 → f.pc.toNat + 4 * lenWords w ≤ textSize g f l →
      ∃ d, Fetches s g f l at_ (lenWords w) d ∧
        (f.priv = false → 0x1E0 ≤ op → op ≤ 0x1E7 → ∃ n, step s = .next (traps d cAccessDenied 0 n)) ∧
        (¬ assignedXop op → step s = .next (traps d cIllegalEncoding w.toNat s.d.nextId))) ∧
  (∀ (i : Instr) (x : X) (s : State) (r : Run), Sole s r.rest r.w r.k r.g r.f r.l → r.f.priv = false →
    i ∈ [.sysrd x, .syswr x, .tretRetry x, .tretSkip x, .tretAt x, .tretKill x, .tmaskCrit x, .tmaskEnd x, .cachex x, .mtuinvInv x, .mtuinvRel x,
      .frmput x, .wgctlYield x, .wgctlSetpc x, .wgctlKill x] →
    exec i s = .next (s.put ({ s.d with ropes := r.rest, nextId := s.d.nextId + 1 }.raise s.env r.w r.k cAccessDenied 0))) ∧
  (∀ ws i, (decode ws).1 = .ok i → ∀ w, decodeRinsar w ≠ some i)

/-- R31: a fibre that starts from a record begins at PCOFF, with the record's seven payload words and zeros in its window and p1 to p31
clear; at a PCOFF that is no place in the text it raises ILLEGAL_OPERAND at its first issue, before anything else. -/
def Obligations.FibresFromRecords : Prop :=
  (∀ (s : State) (l : Launch) (b : Bin), s.d.wb = [] → s.d.launch? s.d.arg.a = some l → l.bins[s.d.arg.b]? = some b → b.recs ≠ [] →
    l.r.fcap ≤ b.recs.length → (∀ g ∈ s.d.wgs, g.launch ≠ l.id) → 7 ≤ l.r.w →
    ∃ d g, exec .poolWorkgroupForm s = .next { s with d := d } ∧ d.wgs = s.d.wgs ++ [g] ∧
      ∀ (j : Nat) (p : Word) (pay : List Word), pay.length = 7 → b.recs[j]? = some (p :: pay) →
        ∃ f, g.fib? j = some f ∧ f.live = true ∧ f.started = false ∧ f.pc = p.setWidth 64 ∧ f.win = pay ++ List.replicate (l.r.w - 7) 0#32 ∧
          ∀ n, 1 ≤ n → n < 32 → f.pred n = false) ∧
  (∀ (s : State) (r : Rope) (rest : List Rope) (w k : Nat) (more : List (Nat × Nat)) (g : WG) (f : Fib) (l : Launch),
    s.d.ropes = r :: rest → r.fibs = (w, k) :: more → s.d.wg? w = some g → g.fib? k = some f → s.d.launch? g.launch = some l →
    g.kind = .pool → f.started = false → f.hnd = false → (f.pc.toNat % 4 ≠ 0 ∨ l.r.tsize ≤ f.pc.toNat) →
    ∃ v : Word, step s = .next (s.put ((firsts r.fibs).foldl (fun d p => d.raise s.env p.1 p.2 cIllegalOperand v.toNat)
      { s.d with ropes := rest, fresh := s.d.fresh + 1 })))
end

