-- ==== Sys2Proof/Laws/Issue.lean ====
section
/-! SUPPORT. What `issue`, `event` and `compute` do, said once. -/
namespace Sys2Proof.Machine

open Sys2Proof

/-- A meaning given by `issue` answers a next state. -/
theorem issue_next (n : Ins) (body : Body) (i : Instr) (x : X) (s : State) :
    issue n body i x s = .next (s.put (ropeStep n body i x s.env s.d)) := rfl

/-- A meaning given by `event` answers a next state. -/
theorem event_next (f : Env → Dev → Dev) (s : State) : event f s = .next (s.put (f s.env s.d)) := rfl

/-- Without bytes to write the device is all that changes. -/
theorem put_of_quiet (s : State) (d : Dev) (h : d.wb = []) : s.put d = { s with d := d } := by
  cases d
  simp only at h
  subst h
  rfl

theorem modAt_modAt {α : Type} (f g : α → α) (l : List α) (i : Nat) : modAt g (modAt f l i) i = modAt (fun a => g (f a)) l i := by
  induction l generalizing i with
  | nil => rfl
  | cons a r ih => cases i with
    | zero => rfl
    | succ i => simp [modAt, ih]

theorem modAt_length {α : Type} (f : α → α) (l : List α) (i : Nat) : (modAt f l i).length = l.length := by
  induction l generalizing i with
  | nil => rfl
  | cons a r ih => cases i <;> simp [modAt, ih]

theorem modAt_getElem? {α : Type} (f : α → α) (l : List α) (i : Nat) : (modAt f l i)[i]? = l[i]?.map f := by
  induction l generalizing i with
  | nil => rfl
  | cons a r ih => cases i <;> simp [modAt, ih]

/-- Two changes of one fibre are one. -/
theorem modFib_modFib (d : Dev) (w k : Nat) (f g : Fib → Fib) :
    (d.modFib w k f).modFib w k g = d.modFib w k fun a => g (f a) := by
  simp only [Dev.modFib, Dev.modWg, List.map_map]
  congr 1
  apply List.map_congr_left
  intro h _
  by_cases e : h.id = w
  · simp only [Function.comp, e, WG.modFib, if_pos, modAt_modAt]
  · simp only [Function.comp, e, if_false]

theorem modFib_wb (d : Dev) (w k : Nat) (f : Fib → Fib) : (d.modFib w k f).wb = d.wb := rfl
theorem modFib_cores (d : Dev) (w k : Nat) (f : Fib → Fib) : (d.modFib w k f).cores = d.cores := rfl
theorem modFib_launches (d : Dev) (w k : Nat) (f : Fib → Fib) : (d.modFib w k f).launches = d.launches := rfl

/-- The body runs once its conditions are met: one fibre, after its issue counted. -/
theorem issue_acts {i : Instr} {p : Ins} {x : X} {s : State} {rest : List Rope} {w k : Nat} {g : WG} {f : Fib} {l : Launch}
    (body : Body) (h : Sole s rest w k g f l) (a : Acts i p x s g f l) :
    issue p body i x s =
      .next (s.put (body s.env (cxOf i x s w k f) (g.modFib k fun _ => f.issued g.skids) (f.issued g.skids) l
        ((s.d.popped rest).modFib w k fun _ => f.issued g.skids))) := by
  obtain ⟨c, q, hr⟩ := h.rope
  have hpg : (f.pend.contains x.pg.toNat && !f.hnd) = false := by
    rcases a.settled with e | e
    · rw [e]; cases f.pend.contains x.pg.toNat <;> rfl
    · rw [e]; rfl
  have hl : s.d.launch? g.launch = some l := h.launch
  simp only [issue, onDev, ropeStep, hr]
  simp only [Dev.takeId]
  have hw : ({ s.d with ropes := rest, nextId := s.d.nextId + 1 } : Dev).wg? w = some g := h.wg
  have hll : ({ s.d with ropes := rest, nextId := s.d.nextId + 1 } : Dev).launch? g.launch = some l := h.launch
  have hlv : lvOf ({ s.d with ropes := rest, nextId := s.d.nextId + 1 } : Dev) g f l = lvOf s.d g f l := rfl
  simp only [hw, h.fib, hll, hlv, a.checks, List.foldl]
  simp only [fibStep, hw, h.fib, hll, h.live, hpg, a.guard, hlv, a.full]
  rfl

/-- A computing instruction that raises no enabled flag: its destinations, predicates and flags are written, and the fibre goes on;
nothing else changes. -/
theorem compute_acts {i : Instr} {p : Alu} {x : X} {s : State} {rest : List Rope} {w k : Nat} {g : WG} {f : Fib} {l : Launch}
    (h : Sole s rest w k g f l) (a : Acts i p.toIns x s g f l) (ht : arithTraps l.r.fpen (p.ev x (p.vals x s k g f l)).fl = false) :
    compute p i x s =
      .next (s.withFib rest w k (((issuedFib g f).commit x.d.toNat (p.ev x (p.vals x s k g f l))).advance s.clock x.len)) := by
  rw [compute, issue_acts (aluBody p) h a]
  have ht' : arithTraps l.r.fpen (p.ev x
      { now := s.env.now, lv := lvOf ((s.d.popped rest).modFib w k fun _ => f.issued g.skids) (g.modFib k fun _ => f.issued g.skids) (f.issued g.skids) l,
        g := g.modFib k fun _ => f.issued g.skids, f := f.issued g.skids,
        a := srcA s.env.now (g.modFib k fun _ => f.issued g.skids) (f.issued g.skids) x
          (p.aL (lvOf ((s.d.popped rest).modFib w k fun _ => f.issued g.skids) (g.modFib k fun _ => f.issued g.skids) (f.issued g.skids) l) x).n,
        b := srcB s.env.now (g.modFib k fun _ => f.issued g.skids) (f.issued g.skids) x
          (p.bL (lvOf ((s.d.popped rest).modFib w k fun _ => f.issued g.skids) (g.modFib k fun _ => f.issued g.skids) (f.issued g.skids) l) x).n,
        c := srcC (f.issued g.skids) x (p.c x).n }).fl = false := ht
  simp only [aluBody, cxOf, ht', modFib_modFib]
  rw [put_of_quiet]
  · rfl
  · exact h.quiet

/-- A computing instruction that raises an enabled flag raises ARITH with its flags (R71, R376). -/
theorem compute_traps {i : Instr} {p : Alu} {x : X} {s : State} {rest : List Rope} {w k : Nat} {g : WG} {f : Fib} {l : Launch}
    (h : Sole s rest w k g f l) (a : Acts i p.toIns x s g f l) (ht : arithTraps l.r.fpen (p.ev x (p.vals x s k g f l)).fl = true) :
    compute p i x s =
      .next (s.put (((s.d.popped rest).modFib w k fun _ => (issuedFib g f).unissue f).arith s.env w k (p.ev x (p.vals x s k g f l)).fl)) := by
  rw [compute, issue_acts (aluBody p) h a]
  have ht' : arithTraps l.r.fpen (p.ev x
      { now := s.env.now, lv := lvOf ((s.d.popped rest).modFib w k fun _ => f.issued g.skids) (g.modFib k fun _ => f.issued g.skids) (f.issued g.skids) l,
        g := g.modFib k fun _ => f.issued g.skids, f := f.issued g.skids,
        a := srcA s.env.now (g.modFib k fun _ => f.issued g.skids) (f.issued g.skids) x
          (p.aL (lvOf ((s.d.popped rest).modFib w k fun _ => f.issued g.skids) (g.modFib k fun _ => f.issued g.skids) (f.issued g.skids) l) x).n,
        b := srcB s.env.now (g.modFib k fun _ => f.issued g.skids) (f.issued g.skids) x
          (p.bL (lvOf ((s.d.popped rest).modFib w k fun _ => f.issued g.skids) (g.modFib k fun _ => f.issued g.skids) (f.issued g.skids) l) x).n,
        c := srcC (f.issued g.skids) x (p.c x).n }).fl = true := ht
  simp only [aluBody, cxOf, ht', modFib_modFib]
  rfl

/-- An instruction given by `issue` answers what its body leaves, once every check passes. -/
theorem Run.answers {r : Run} {i : Instr} {x : X} {s : State} {p : Ins} {b : Body} (h : r.Of i x s) (hf : form i = some (p, x))
    (he : exec i s = issue p b i x s) :
    exec i s = .next (s.put (b s.env (cxOf i x s r.w r.k r.f) (r.g.modFib r.k fun _ => issuedFib r.g r.f) (issuedFib r.g r.f) r.l
      ((s.d.popped r.rest).modFib r.w r.k fun _ => issuedFib r.g r.f))) := by
  obtain ⟨hs, p', a⟩ := h
  have e : p' = p := by have := a.form; rw [hf] at this; simpa using this.symm
  subst e
  rw [he, issue_acts b hs a]
  rfl

theorem issuedFib_unissue (g : WG) (f : Fib) : (issuedFib g f).unissue f = { f with started := true, cand := false } := by
  simp [issuedFib, Fib.issued, Fib.unissue]

theorem put_withFib (s : State) (rest : List Rope) (w k : Nat) (f : Fib) (h : s.d.wb = []) :
    s.put ((s.d.popped rest).modFib w k fun _ => f) = s.withFib rest w k f := put_of_quiet _ _ h

theorem Run.put_advance (r : Run) (i : Instr) (x : X) (s : State) :
    ((s.d.popped r.rest).modFib r.w r.k fun _ => issuedFib r.g r.f).advance (cxOf i x s r.w r.k r.f) =
      (s.d.popped r.rest).modFib r.w r.k fun _ => r.next x s := modFib_modFib _ _ _ _ _

theorem Run.put_hold (r : Run) (i : Instr) (x : X) (s : State) (c : Wait) :
    ((s.d.popped r.rest).modFib r.w r.k fun _ => issuedFib r.g r.f).hold (cxOf i x s r.w r.k r.f) c =
      (s.d.popped r.rest).modFib r.w r.k fun _ => r.held x s c := modFib_modFib _ _ _ _ _

theorem Run.put_block (r : Run) (i : Instr) (x : X) (s : State) (c : Wait) :
    ((s.d.popped r.rest).modFib r.w r.k fun _ => issuedFib r.g r.f).block (cxOf i x s r.w r.k r.f) c =
      (s.d.popped r.rest).modFib r.w r.k fun _ => { r.f with started := true, wait := c, cand := false } := modFib_modFib _ _ _ _ _

theorem Run.put_trap (r : Run) (i : Instr) (x : X) (s : State) (c v : Nat) :
    ((s.d.popped r.rest).modFib r.w r.k fun _ => issuedFib r.g r.f).trap s.env (cxOf i x s r.w r.k r.f) c v =
      ((s.d.popped r.rest).modFib r.w r.k fun _ => { r.f with started := true, cand := false, tagGrp := 0 }).raise s.env r.w r.k c v := by
  rw [Dev.trap]
  congr 1
  exact modFib_modFib _ _ _ _ _

end Sys2Proof.Machine
end

