-- ==== Sys2Proof/Laws/Mem.lean ====
section
/-! SUPPORT. Tables and memory: the canonical form is kept, and a read after a write. -/
namespace Sys2Proof.Machine

open Sys2Proof

theorem okFrom_mono {α : Type} [DecidableEq α] {z : α} {t : Table α} {a b : Nat} (hab : a ≤ b) (h : Table.okFrom z b t = true) :
    Table.okFrom z a t = true := by
  cases t with
  | nil => rfl
  | cons p r =>
    simp only [Table.okFrom, Bool.and_eq_true, decide_eq_true_eq] at h ⊢
    exact ⟨⟨by omega, h.1.2⟩, h.2⟩

theorem drop_ok {α : Type} [DecidableEq α] {z : α} {t : Table α} {a k : Nat} (h : Table.okFrom z a t = true) :
    Table.okFrom z a (t.drop k) = true := by
  induction t generalizing a with
  | nil => rfl
  | cons p r ih =>
    obtain ⟨j, v⟩ := p
    simp only [Table.okFrom, Bool.and_eq_true, decide_eq_true_eq] at h
    simp only [Table.drop]
    split
    · exact okFrom_mono (by omega) h.2
    · split
      · simp only [Table.okFrom, Bool.and_eq_true, decide_eq_true_eq]; exact h
      · simp only [Table.okFrom, Bool.and_eq_true, decide_eq_true_eq]; exact ⟨h.1, ih h.2⟩

theorem put_ok {α : Type} [DecidableEq α] {z v : α} {t : Table α} {a k : Nat} (hv : v ≠ z) (hk : a ≤ k) (h : Table.okFrom z a t = true) :
    Table.okFrom z a (t.put k v) = true := by
  induction t generalizing a with
  | nil => simp [Table.put, Table.okFrom, hv, hk]
  | cons p r ih =>
    obtain ⟨j, u⟩ := p
    simp only [Table.okFrom, Bool.and_eq_true, decide_eq_true_eq] at h
    simp only [Table.put]
    split
    · next e => subst e; simp only [Table.okFrom, Bool.and_eq_true, decide_eq_true_eq]; exact ⟨⟨hk, hv⟩, h.2⟩
    · split
      · simp only [Table.okFrom, Bool.and_eq_true, decide_eq_true_eq]; exact ⟨⟨hk, hv⟩, ⟨⟨by omega, h.1.2⟩, h.2⟩⟩
      · simp only [Table.okFrom, Bool.and_eq_true, decide_eq_true_eq]; exact ⟨h.1, ih (by omega) h.2⟩

/-- Writing a key keeps a table canonical. -/
theorem set_ok {α : Type} [DecidableEq α] {z : α} {t : Table α} (k : Nat) (v : α) (h : Table.okFrom z 0 t = true) :
    Table.okFrom z 0 (Table.set z t k v) = true := by
  unfold Table.set
  split
  · exact drop_ok h
  · next hv => exact put_ok hv (Nat.zero_le k) h

/-- A byte written keeps memory canonical. -/
theorem setByte_wf {m : Memory} (a : Nat) (b : Byte) (h : m.wf = true) : (m.setByte a b).wf = true := set_ok a b h

/-- Bytes written keep memory canonical. -/
theorem writes_wf (l : List (Nat × Byte)) {m : Memory} (h : m.wf = true) : (Memory.writes l m).wf = true := by
  induction l generalizing m with
  | nil => exact h
  | cons p r ih => exact ih (setByte_wf p.1 p.2 h)

theorem get_low {α : Type} [DecidableEq α] {z : α} {t : Table α} {a k : Nat} (h : Table.okFrom z a t = true) (hk : k < a) :
    Table.get z t k = z := by
  cases t with
  | nil => rfl
  | cons p r =>
    simp only [Table.okFrom, Bool.and_eq_true, decide_eq_true_eq] at h
    simp only [Table.get]
    rw [if_neg (by omega), if_pos (by omega)]

theorem get_drop {α : Type} [DecidableEq α] {z : α} {t : Table α} {a k : Nat} (h : Table.okFrom z a t = true) (n : Nat) :
    Table.get z (t.drop k) n = if n = k then z else Table.get z t n := by
  induction t generalizing a with
  | nil => simp [Table.drop, Table.get]
  | cons p r ih =>
    obtain ⟨j, v⟩ := p
    simp only [Table.okFrom, Bool.and_eq_true, decide_eq_true_eq] at h
    simp only [Table.drop]
    by_cases hkj : k = j
    · subst hkj
      rw [if_pos rfl]
      by_cases hn : n = k
      · subst hn; rw [if_pos rfl]; exact get_low h.2 (by omega)
      · rw [if_neg hn]
        simp only [Table.get]
        rw [if_neg hn]
        by_cases hlt : n < k
        · rw [if_pos hlt]; exact get_low h.2 (by omega)
        · rw [if_neg hlt]
    · rw [if_neg hkj]
      by_cases hlt : k < j
      · rw [if_pos hlt]
        by_cases hn : n = k
        · subst hn; rw [if_pos rfl]; simp only [Table.get]; rw [if_neg hkj, if_pos hlt]
        · rw [if_neg hn]
      · rw [if_neg hlt]
        simp only [Table.get]
        by_cases hnj : n = j
        · subst hnj; simp only [if_true]; rw [if_neg (by omega)]
        · rw [if_neg hnj, if_neg hnj]
          by_cases hnl : n < j
          · rw [if_pos hnl, if_pos hnl]; split <;> rfl
          · rw [if_neg hnl, if_neg hnl]; exact ih h.2

theorem get_put {α : Type} {z v : α} (t : Table α) (k n : Nat) :
    Table.get z (t.put k v) n = if n = k then v else Table.get z t n := by
  induction t with
  | nil =>
    simp only [Table.put, Table.get]
    split
    · rfl
    · split <;> rfl
  | cons p r ih =>
    obtain ⟨j, u⟩ := p
    simp only [Table.put]
    by_cases hkj : k = j
    · subst hkj
      simp only [if_true, Table.get]
      by_cases hn : n = k
      · simp [hn]
      · simp [hn]
    · rw [if_neg hkj]
      by_cases hlt : k < j
      · rw [if_pos hlt]
        simp only [Table.get]
        by_cases hn : n = k
        · simp [hn]
        · rw [if_neg hn, if_neg hn]
          by_cases hnk : n < k
          · rw [if_pos hnk, if_neg (by omega), if_pos (by omega)]
          · rw [if_neg hnk]
      · rw [if_neg hlt]
        simp only [Table.get]
        by_cases hnj : n = j
        · subst hnj; simp only [if_true]; rw [if_neg (by omega)]
        · rw [if_neg hnj, if_neg hnj]
          by_cases hnl : n < j
          · rw [if_pos hnl, if_pos hnl, if_neg (by omega)]
          · rw [if_neg hnl, if_neg hnl, ih]

/-- What a canonical table reads after a key is written. -/
theorem get_set {α : Type} [DecidableEq α] {z : α} {t : Table α} (h : Table.okFrom z 0 t = true) (k : Nat) (v : α) (n : Nat) :
    Table.get z (Table.set z t k v) n = if n = k then v else Table.get z t n := by
  unfold Table.set
  split
  · next hv => subst hv; exact get_drop h n
  · exact get_put t k n

/-- The byte just written reads back; every other byte stands. -/
theorem byte_setByte {m : Memory} (h : m.wf = true) (a : Nat) (b : Byte) (n : Nat) :
    (m.setByte a b).byte n = if n = a then b else m.byte n := get_set h a b n

/-- Writes leave the bytes at other addresses. -/
theorem byte_writes_other (l : List (Nat × Byte)) {m : Memory} (h : m.wf = true) (n : Nat) (hn : ∀ p ∈ l, p.1 ≠ n) :
    (Memory.writes l m).byte n = m.byte n := by
  induction l generalizing m with
  | nil => rfl
  | cons p r ih =>
    simp only [Memory.writes]
    rw [ih (setByte_wf _ _ h) (fun q hq => hn q (List.mem_cons_of_mem _ hq)), byte_setByte h,
      if_neg (fun e => hn p List.mem_cons_self e.symm)]

end Sys2Proof.Machine
end

