-- ==== Sys2Proof/Laws/State.lean ====
section
/-! SUPPORT. One lemma for each field that an update leaves. -/
namespace Sys2Proof.Machine

open Sys2Proof

/-! ## The device -/

@[simp] theorem Dev.modWg_arg (d : Dev) (w : Nat) (f : WG → WG) : (d.modWg w f).arg = d.arg := rfl
@[simp] theorem Dev.modWg_ropes (d : Dev) (w : Nat) (f : WG → WG) : (d.modWg w f).ropes = d.ropes := rfl
@[simp] theorem Dev.modWg_agenda (d : Dev) (w : Nat) (f : WG → WG) : (d.modWg w f).agenda = d.agenda := rfl
@[simp] theorem Dev.modWg_inputs (d : Dev) (w : Nat) (f : WG → WG) : (d.modWg w f).inputs = d.inputs := rfl
@[simp] theorem Dev.modWg_choices (d : Dev) (w : Nat) (f : WG → WG) : (d.modWg w f).choices = d.choices := rfl
@[simp] theorem Dev.modWg_curHart (d : Dev) (w : Nat) (f : WG → WG) : (d.modWg w f).curHart = d.curHart := rfl
@[simp] theorem Dev.modWg_nextId (d : Dev) (w : Nat) (f : WG → WG) : (d.modWg w f).nextId = d.nextId := rfl
@[simp] theorem Dev.modWg_fresh (d : Dev) (w : Nat) (f : WG → WG) : (d.modWg w f).fresh = d.fresh := rfl
@[simp] theorem Dev.modWg_evSeq (d : Dev) (w : Nat) (f : WG → WG) : (d.modWg w f).evSeq = d.evSeq := rfl
@[simp] theorem Dev.modWg_wb (d : Dev) (w : Nat) (f : WG → WG) : (d.modWg w f).wb = d.wb := rfl
@[simp] theorem Dev.modWg_poison (d : Dev) (w : Nat) (f : WG → WG) : (d.modWg w f).poison = d.poison := rfl
@[simp] theorem Dev.modWg_hostErr (d : Dev) (w : Nat) (f : WG → WG) : (d.modWg w f).hostErr = d.hostErr := rfl
@[simp] theorem Dev.modWg_launches (d : Dev) (w : Nat) (f : WG → WG) : (d.modWg w f).launches = d.launches := rfl
@[simp] theorem Dev.modWg_passes (d : Dev) (w : Nat) (f : WG → WG) : (d.modWg w f).passes = d.passes := rfl
@[simp] theorem Dev.modWg_ops (d : Dev) (w : Nat) (f : WG → WG) : (d.modWg w f).ops = d.ops := rfl
@[simp] theorem Dev.modWg_cores (d : Dev) (w : Nat) (f : WG → WG) : (d.modWg w f).cores = d.cores := rfl
@[simp] theorem Dev.modWg_l2 (d : Dev) (w : Nat) (f : WG → WG) : (d.modWg w f).l2 = d.l2 := rfl
@[simp] theorem Dev.modWg_tags (d : Dev) (w : Nat) (f : WG → WG) : (d.modWg w f).tags = d.tags := rfl
@[simp] theorem Dev.modWg_quotaStops (d : Dev) (w : Nat) (f : WG → WG) : (d.modWg w f).quotaStops = d.quotaStops := rfl
@[simp] theorem Dev.modWg_retq (d : Dev) (w : Nat) (f : WG → WG) : (d.modWg w f).retq = d.retq := rfl
@[simp] theorem Dev.modWg_fwd (d : Dev) (w : Nat) (f : WG → WG) : (d.modWg w f).fwd = d.fwd := rfl
@[simp] theorem Dev.modWg_eps (d : Dev) (w : Nat) (f : WG → WG) : (d.modWg w f).eps = d.eps := rfl
@[simp] theorem Dev.modWg_fills (d : Dev) (w : Nat) (f : WG → WG) : (d.modWg w f).fills = d.fills := rfl
@[simp] theorem Dev.modWg_fifoS (d : Dev) (w : Nat) (f : WG → WG) : (d.modWg w f).fifoS = d.fifoS := rfl
@[simp] theorem Dev.modWg_fifoL (d : Dev) (w : Nat) (f : WG → WG) : (d.modWg w f).fifoL = d.fifoL := rfl
@[simp] theorem Dev.modWg_sweepS (d : Dev) (w : Nat) (f : WG → WG) : (d.modWg w f).sweepS = d.sweepS := rfl
@[simp] theorem Dev.modWg_sweepL (d : Dev) (w : Nat) (f : WG → WG) : (d.modWg w f).sweepL = d.sweepL := rfl
@[simp] theorem Dev.modWg_mops (d : Dev) (w : Nat) (f : WG → WG) : (d.modWg w f).mops = d.mops := rfl
@[simp] theorem Dev.modWg_laneH (d : Dev) (w : Nat) (f : WG → WG) : (d.modWg w f).laneH = d.laneH := rfl
@[simp] theorem Dev.modWg_laneR (d : Dev) (w : Nat) (f : WG → WG) : (d.modWg w f).laneR = d.laneR := rfl
@[simp] theorem Dev.modWg_laneRHeld (d : Dev) (w : Nat) (f : WG → WG) : (d.modWg w f).laneRHeld = d.laneRHeld := rfl
@[simp] theorem Dev.modWg_handed (d : Dev) (w : Nat) (f : WG → WG) : (d.modWg w f).handed = d.handed := rfl
@[simp] theorem Dev.modWg_cairnOpen (d : Dev) (w : Nat) (f : WG → WG) : (d.modWg w f).cairnOpen = d.cairnOpen := rfl
@[simp] theorem Dev.modWg_cairnSince (d : Dev) (w : Nat) (f : WG → WG) : (d.modWg w f).cairnSince = d.cairnSince := rfl
@[simp] theorem Dev.modWg_cairnClosed (d : Dev) (w : Nat) (f : WG → WG) : (d.modWg w f).cairnClosed = d.cairnClosed := rfl
@[simp] theorem Dev.modWg_hub (d : Dev) (w : Nat) (f : WG → WG) : (d.modWg w f).hub = d.hub := rfl
@[simp] theorem Dev.modWg_queues (d : Dev) (w : Nat) (f : WG → WG) : (d.modWg w f).queues = d.queues := rfl
@[simp] theorem Dev.modWg_pkts (d : Dev) (w : Nat) (f : WG → WG) : (d.modWg w f).pkts = d.pkts := rfl
@[simp] theorem Dev.modWg_parts (d : Dev) (w : Nat) (f : WG → WG) : (d.modWg w f).parts = d.parts := rfl
@[simp] theorem Dev.modWg_msix (d : Dev) (w : Nat) (f : WG → WG) : (d.modWg w f).msix = d.msix := rfl
@[simp] theorem Dev.modWg_saveRuns (d : Dev) (w : Nat) (f : WG → WG) : (d.modWg w f).saveRuns = d.saveRuns := rfl
@[simp] theorem Dev.modWg_domains (d : Dev) (w : Nat) (f : WG → WG) : (d.modWg w f).domains = d.domains := rfl
@[simp] theorem Dev.modWg_harts (d : Dev) (w : Nat) (f : WG → WG) : (d.modWg w f).harts = d.harts := rfl
@[simp] theorem Dev.modWg_dir (d : Dev) (w : Nat) (f : WG → WG) : (d.modWg w f).dir = d.dir := rfl
@[simp] theorem Dev.modWg_txns (d : Dev) (w : Nat) (f : WG → WG) : (d.modWg w f).txns = d.txns := rfl
@[simp] theorem Dev.modWg_reqs (d : Dev) (w : Nat) (f : WG → WG) : (d.modWg w f).reqs = d.reqs := rfl
@[simp] theorem Dev.modWg_copies (d : Dev) (w : Nat) (f : WG → WG) : (d.modWg w f).copies = d.copies := rfl
@[simp] theorem Dev.modWg_msgs (d : Dev) (w : Nat) (f : WG → WG) : (d.modWg w f).msgs = d.msgs := rfl
@[simp] theorem Dev.modWg_links (d : Dev) (w : Nat) (f : WG → WG) : (d.modWg w f).links = d.links := rfl
@[simp] theorem Dev.modWg_heads (d : Dev) (w : Nat) (f : WG → WG) : (d.modWg w f).heads = d.heads := rfl
@[simp] theorem Dev.modWg_headPollAt (d : Dev) (w : Nat) (f : WG → WG) : (d.modWg w f).headPollAt = d.headPollAt := rfl
@[simp] theorem Dev.modWg_out (d : Dev) (w : Nat) (f : WG → WG) : (d.modWg w f).out = d.out := rfl
@[simp] theorem Dev.modWg_imageBytes (d : Dev) (w : Nat) (f : WG → WG) : (d.modWg w f).imageBytes = d.imageBytes := rfl
@[simp] theorem Dev.modWg_rcnt (d : Dev) (w : Nat) (f : WG → WG) : (d.modWg w f).rcnt = d.rcnt := rfl
@[simp] theorem Dev.modWg_resets (d : Dev) (w : Nat) (f : WG → WG) : (d.modWg w f).resets = d.resets := rfl
@[simp] theorem Dev.modWg_power (d : Dev) (w : Nat) (f : WG → WG) : (d.modWg w f).power = d.power := rfl
@[simp] theorem Dev.modWg_auxKept (d : Dev) (w : Nat) (f : WG → WG) : (d.modWg w f).auxKept = d.auxKept := rfl
@[simp] theorem Dev.modWg_pinHigh (d : Dev) (w : Nat) (f : WG → WG) : (d.modWg w f).pinHigh = d.pinHigh := rfl
@[simp] theorem Dev.modWg_inbox (d : Dev) (w : Nat) (f : WG → WG) : (d.modWg w f).inbox = d.inbox := rfl

@[simp] theorem Dev.modFib_arg (d : Dev) (w k : Nat) (f : Fib → Fib) : (d.modFib w k f).arg = d.arg := rfl
@[simp] theorem Dev.modFib_ropes (d : Dev) (w k : Nat) (f : Fib → Fib) : (d.modFib w k f).ropes = d.ropes := rfl
@[simp] theorem Dev.modFib_agenda (d : Dev) (w k : Nat) (f : Fib → Fib) : (d.modFib w k f).agenda = d.agenda := rfl
@[simp] theorem Dev.modFib_inputs (d : Dev) (w k : Nat) (f : Fib → Fib) : (d.modFib w k f).inputs = d.inputs := rfl
@[simp] theorem Dev.modFib_choices (d : Dev) (w k : Nat) (f : Fib → Fib) : (d.modFib w k f).choices = d.choices := rfl
@[simp] theorem Dev.modFib_curHart (d : Dev) (w k : Nat) (f : Fib → Fib) : (d.modFib w k f).curHart = d.curHart := rfl
@[simp] theorem Dev.modFib_nextId (d : Dev) (w k : Nat) (f : Fib → Fib) : (d.modFib w k f).nextId = d.nextId := rfl
@[simp] theorem Dev.modFib_fresh (d : Dev) (w k : Nat) (f : Fib → Fib) : (d.modFib w k f).fresh = d.fresh := rfl
@[simp] theorem Dev.modFib_evSeq (d : Dev) (w k : Nat) (f : Fib → Fib) : (d.modFib w k f).evSeq = d.evSeq := rfl
@[simp] theorem Dev.modFib_wb (d : Dev) (w k : Nat) (f : Fib → Fib) : (d.modFib w k f).wb = d.wb := rfl
@[simp] theorem Dev.modFib_poison (d : Dev) (w k : Nat) (f : Fib → Fib) : (d.modFib w k f).poison = d.poison := rfl
@[simp] theorem Dev.modFib_hostErr (d : Dev) (w k : Nat) (f : Fib → Fib) : (d.modFib w k f).hostErr = d.hostErr := rfl
@[simp] theorem Dev.modFib_launches (d : Dev) (w k : Nat) (f : Fib → Fib) : (d.modFib w k f).launches = d.launches := rfl
@[simp] theorem Dev.modFib_passes (d : Dev) (w k : Nat) (f : Fib → Fib) : (d.modFib w k f).passes = d.passes := rfl
@[simp] theorem Dev.modFib_ops (d : Dev) (w k : Nat) (f : Fib → Fib) : (d.modFib w k f).ops = d.ops := rfl
@[simp] theorem Dev.modFib_cores (d : Dev) (w k : Nat) (f : Fib → Fib) : (d.modFib w k f).cores = d.cores := rfl
@[simp] theorem Dev.modFib_l2 (d : Dev) (w k : Nat) (f : Fib → Fib) : (d.modFib w k f).l2 = d.l2 := rfl
@[simp] theorem Dev.modFib_tags (d : Dev) (w k : Nat) (f : Fib → Fib) : (d.modFib w k f).tags = d.tags := rfl
@[simp] theorem Dev.modFib_quotaStops (d : Dev) (w k : Nat) (f : Fib → Fib) : (d.modFib w k f).quotaStops = d.quotaStops := rfl
@[simp] theorem Dev.modFib_retq (d : Dev) (w k : Nat) (f : Fib → Fib) : (d.modFib w k f).retq = d.retq := rfl
@[simp] theorem Dev.modFib_fwd (d : Dev) (w k : Nat) (f : Fib → Fib) : (d.modFib w k f).fwd = d.fwd := rfl
@[simp] theorem Dev.modFib_eps (d : Dev) (w k : Nat) (f : Fib → Fib) : (d.modFib w k f).eps = d.eps := rfl
@[simp] theorem Dev.modFib_fills (d : Dev) (w k : Nat) (f : Fib → Fib) : (d.modFib w k f).fills = d.fills := rfl
@[simp] theorem Dev.modFib_fifoS (d : Dev) (w k : Nat) (f : Fib → Fib) : (d.modFib w k f).fifoS = d.fifoS := rfl
@[simp] theorem Dev.modFib_fifoL (d : Dev) (w k : Nat) (f : Fib → Fib) : (d.modFib w k f).fifoL = d.fifoL := rfl
@[simp] theorem Dev.modFib_sweepS (d : Dev) (w k : Nat) (f : Fib → Fib) : (d.modFib w k f).sweepS = d.sweepS := rfl
@[simp] theorem Dev.modFib_sweepL (d : Dev) (w k : Nat) (f : Fib → Fib) : (d.modFib w k f).sweepL = d.sweepL := rfl
@[simp] theorem Dev.modFib_mops (d : Dev) (w k : Nat) (f : Fib → Fib) : (d.modFib w k f).mops = d.mops := rfl
@[simp] theorem Dev.modFib_laneH (d : Dev) (w k : Nat) (f : Fib → Fib) : (d.modFib w k f).laneH = d.laneH := rfl
@[simp] theorem Dev.modFib_laneR (d : Dev) (w k : Nat) (f : Fib → Fib) : (d.modFib w k f).laneR = d.laneR := rfl
@[simp] theorem Dev.modFib_laneRHeld (d : Dev) (w k : Nat) (f : Fib → Fib) : (d.modFib w k f).laneRHeld = d.laneRHeld := rfl
@[simp] theorem Dev.modFib_handed (d : Dev) (w k : Nat) (f : Fib → Fib) : (d.modFib w k f).handed = d.handed := rfl
@[simp] theorem Dev.modFib_cairnOpen (d : Dev) (w k : Nat) (f : Fib → Fib) : (d.modFib w k f).cairnOpen = d.cairnOpen := rfl
@[simp] theorem Dev.modFib_cairnSince (d : Dev) (w k : Nat) (f : Fib → Fib) : (d.modFib w k f).cairnSince = d.cairnSince := rfl
@[simp] theorem Dev.modFib_cairnClosed (d : Dev) (w k : Nat) (f : Fib → Fib) : (d.modFib w k f).cairnClosed = d.cairnClosed := rfl
@[simp] theorem Dev.modFib_hub (d : Dev) (w k : Nat) (f : Fib → Fib) : (d.modFib w k f).hub = d.hub := rfl
@[simp] theorem Dev.modFib_queues (d : Dev) (w k : Nat) (f : Fib → Fib) : (d.modFib w k f).queues = d.queues := rfl
@[simp] theorem Dev.modFib_pkts (d : Dev) (w k : Nat) (f : Fib → Fib) : (d.modFib w k f).pkts = d.pkts := rfl
@[simp] theorem Dev.modFib_parts (d : Dev) (w k : Nat) (f : Fib → Fib) : (d.modFib w k f).parts = d.parts := rfl
@[simp] theorem Dev.modFib_msix (d : Dev) (w k : Nat) (f : Fib → Fib) : (d.modFib w k f).msix = d.msix := rfl
@[simp] theorem Dev.modFib_saveRuns (d : Dev) (w k : Nat) (f : Fib → Fib) : (d.modFib w k f).saveRuns = d.saveRuns := rfl
@[simp] theorem Dev.modFib_domains (d : Dev) (w k : Nat) (f : Fib → Fib) : (d.modFib w k f).domains = d.domains := rfl
@[simp] theorem Dev.modFib_harts (d : Dev) (w k : Nat) (f : Fib → Fib) : (d.modFib w k f).harts = d.harts := rfl
@[simp] theorem Dev.modFib_dir (d : Dev) (w k : Nat) (f : Fib → Fib) : (d.modFib w k f).dir = d.dir := rfl
@[simp] theorem Dev.modFib_txns (d : Dev) (w k : Nat) (f : Fib → Fib) : (d.modFib w k f).txns = d.txns := rfl
@[simp] theorem Dev.modFib_reqs (d : Dev) (w k : Nat) (f : Fib → Fib) : (d.modFib w k f).reqs = d.reqs := rfl
@[simp] theorem Dev.modFib_copies (d : Dev) (w k : Nat) (f : Fib → Fib) : (d.modFib w k f).copies = d.copies := rfl
@[simp] theorem Dev.modFib_msgs (d : Dev) (w k : Nat) (f : Fib → Fib) : (d.modFib w k f).msgs = d.msgs := rfl
@[simp] theorem Dev.modFib_links (d : Dev) (w k : Nat) (f : Fib → Fib) : (d.modFib w k f).links = d.links := rfl
@[simp] theorem Dev.modFib_heads (d : Dev) (w k : Nat) (f : Fib → Fib) : (d.modFib w k f).heads = d.heads := rfl
@[simp] theorem Dev.modFib_headPollAt (d : Dev) (w k : Nat) (f : Fib → Fib) : (d.modFib w k f).headPollAt = d.headPollAt := rfl
@[simp] theorem Dev.modFib_out (d : Dev) (w k : Nat) (f : Fib → Fib) : (d.modFib w k f).out = d.out := rfl
@[simp] theorem Dev.modFib_imageBytes (d : Dev) (w k : Nat) (f : Fib → Fib) : (d.modFib w k f).imageBytes = d.imageBytes := rfl
@[simp] theorem Dev.modFib_rcnt (d : Dev) (w k : Nat) (f : Fib → Fib) : (d.modFib w k f).rcnt = d.rcnt := rfl
@[simp] theorem Dev.modFib_resets (d : Dev) (w k : Nat) (f : Fib → Fib) : (d.modFib w k f).resets = d.resets := rfl
@[simp] theorem Dev.modFib_power (d : Dev) (w k : Nat) (f : Fib → Fib) : (d.modFib w k f).power = d.power := rfl
@[simp] theorem Dev.modFib_auxKept (d : Dev) (w k : Nat) (f : Fib → Fib) : (d.modFib w k f).auxKept = d.auxKept := rfl
@[simp] theorem Dev.modFib_pinHigh (d : Dev) (w k : Nat) (f : Fib → Fib) : (d.modFib w k f).pinHigh = d.pinHigh := rfl
@[simp] theorem Dev.modFib_inbox (d : Dev) (w k : Nat) (f : Fib → Fib) : (d.modFib w k f).inbox = d.inbox := rfl

@[simp] theorem Dev.modLaunch_arg (d : Dev) (l : Nat) (f : Launch → Launch) : (d.modLaunch l f).arg = d.arg := rfl
@[simp] theorem Dev.modLaunch_ropes (d : Dev) (l : Nat) (f : Launch → Launch) : (d.modLaunch l f).ropes = d.ropes := rfl
@[simp] theorem Dev.modLaunch_agenda (d : Dev) (l : Nat) (f : Launch → Launch) : (d.modLaunch l f).agenda = d.agenda := rfl
@[simp] theorem Dev.modLaunch_inputs (d : Dev) (l : Nat) (f : Launch → Launch) : (d.modLaunch l f).inputs = d.inputs := rfl
@[simp] theorem Dev.modLaunch_choices (d : Dev) (l : Nat) (f : Launch → Launch) : (d.modLaunch l f).choices = d.choices := rfl
@[simp] theorem Dev.modLaunch_curHart (d : Dev) (l : Nat) (f : Launch → Launch) : (d.modLaunch l f).curHart = d.curHart := rfl
@[simp] theorem Dev.modLaunch_nextId (d : Dev) (l : Nat) (f : Launch → Launch) : (d.modLaunch l f).nextId = d.nextId := rfl
@[simp] theorem Dev.modLaunch_fresh (d : Dev) (l : Nat) (f : Launch → Launch) : (d.modLaunch l f).fresh = d.fresh := rfl
@[simp] theorem Dev.modLaunch_evSeq (d : Dev) (l : Nat) (f : Launch → Launch) : (d.modLaunch l f).evSeq = d.evSeq := rfl
@[simp] theorem Dev.modLaunch_wb (d : Dev) (l : Nat) (f : Launch → Launch) : (d.modLaunch l f).wb = d.wb := rfl
@[simp] theorem Dev.modLaunch_poison (d : Dev) (l : Nat) (f : Launch → Launch) : (d.modLaunch l f).poison = d.poison := rfl
@[simp] theorem Dev.modLaunch_hostErr (d : Dev) (l : Nat) (f : Launch → Launch) : (d.modLaunch l f).hostErr = d.hostErr := rfl
@[simp] theorem Dev.modLaunch_wgs (d : Dev) (l : Nat) (f : Launch → Launch) : (d.modLaunch l f).wgs = d.wgs := rfl
@[simp] theorem Dev.modLaunch_passes (d : Dev) (l : Nat) (f : Launch → Launch) : (d.modLaunch l f).passes = d.passes := rfl
@[simp] theorem Dev.modLaunch_ops (d : Dev) (l : Nat) (f : Launch → Launch) : (d.modLaunch l f).ops = d.ops := rfl
@[simp] theorem Dev.modLaunch_cores (d : Dev) (l : Nat) (f : Launch → Launch) : (d.modLaunch l f).cores = d.cores := rfl
@[simp] theorem Dev.modLaunch_l2 (d : Dev) (l : Nat) (f : Launch → Launch) : (d.modLaunch l f).l2 = d.l2 := rfl
@[simp] theorem Dev.modLaunch_tags (d : Dev) (l : Nat) (f : Launch → Launch) : (d.modLaunch l f).tags = d.tags := rfl
@[simp] theorem Dev.modLaunch_quotaStops (d : Dev) (l : Nat) (f : Launch → Launch) : (d.modLaunch l f).quotaStops = d.quotaStops := rfl
@[simp] theorem Dev.modLaunch_retq (d : Dev) (l : Nat) (f : Launch → Launch) : (d.modLaunch l f).retq = d.retq := rfl
@[simp] theorem Dev.modLaunch_fwd (d : Dev) (l : Nat) (f : Launch → Launch) : (d.modLaunch l f).fwd = d.fwd := rfl
@[simp] theorem Dev.modLaunch_eps (d : Dev) (l : Nat) (f : Launch → Launch) : (d.modLaunch l f).eps = d.eps := rfl
@[simp] theorem Dev.modLaunch_fills (d : Dev) (l : Nat) (f : Launch → Launch) : (d.modLaunch l f).fills = d.fills := rfl
@[simp] theorem Dev.modLaunch_fifoS (d : Dev) (l : Nat) (f : Launch → Launch) : (d.modLaunch l f).fifoS = d.fifoS := rfl
@[simp] theorem Dev.modLaunch_fifoL (d : Dev) (l : Nat) (f : Launch → Launch) : (d.modLaunch l f).fifoL = d.fifoL := rfl
@[simp] theorem Dev.modLaunch_sweepS (d : Dev) (l : Nat) (f : Launch → Launch) : (d.modLaunch l f).sweepS = d.sweepS := rfl
@[simp] theorem Dev.modLaunch_sweepL (d : Dev) (l : Nat) (f : Launch → Launch) : (d.modLaunch l f).sweepL = d.sweepL := rfl
@[simp] theorem Dev.modLaunch_mops (d : Dev) (l : Nat) (f : Launch → Launch) : (d.modLaunch l f).mops = d.mops := rfl
@[simp] theorem Dev.modLaunch_laneH (d : Dev) (l : Nat) (f : Launch → Launch) : (d.modLaunch l f).laneH = d.laneH := rfl
@[simp] theorem Dev.modLaunch_laneR (d : Dev) (l : Nat) (f : Launch → Launch) : (d.modLaunch l f).laneR = d.laneR := rfl
@[simp] theorem Dev.modLaunch_laneRHeld (d : Dev) (l : Nat) (f : Launch → Launch) : (d.modLaunch l f).laneRHeld = d.laneRHeld := rfl
@[simp] theorem Dev.modLaunch_handed (d : Dev) (l : Nat) (f : Launch → Launch) : (d.modLaunch l f).handed = d.handed := rfl
@[simp] theorem Dev.modLaunch_cairnOpen (d : Dev) (l : Nat) (f : Launch → Launch) : (d.modLaunch l f).cairnOpen = d.cairnOpen := rfl
@[simp] theorem Dev.modLaunch_cairnSince (d : Dev) (l : Nat) (f : Launch → Launch) : (d.modLaunch l f).cairnSince = d.cairnSince := rfl
@[simp] theorem Dev.modLaunch_cairnClosed (d : Dev) (l : Nat) (f : Launch → Launch) : (d.modLaunch l f).cairnClosed = d.cairnClosed := rfl
@[simp] theorem Dev.modLaunch_hub (d : Dev) (l : Nat) (f : Launch → Launch) : (d.modLaunch l f).hub = d.hub := rfl
@[simp] theorem Dev.modLaunch_queues (d : Dev) (l : Nat) (f : Launch → Launch) : (d.modLaunch l f).queues = d.queues := rfl
@[simp] theorem Dev.modLaunch_pkts (d : Dev) (l : Nat) (f : Launch → Launch) : (d.modLaunch l f).pkts = d.pkts := rfl
@[simp] theorem Dev.modLaunch_parts (d : Dev) (l : Nat) (f : Launch → Launch) : (d.modLaunch l f).parts = d.parts := rfl
@[simp] theorem Dev.modLaunch_msix (d : Dev) (l : Nat) (f : Launch → Launch) : (d.modLaunch l f).msix = d.msix := rfl
@[simp] theorem Dev.modLaunch_saveRuns (d : Dev) (l : Nat) (f : Launch → Launch) : (d.modLaunch l f).saveRuns = d.saveRuns := rfl
@[simp] theorem Dev.modLaunch_domains (d : Dev) (l : Nat) (f : Launch → Launch) : (d.modLaunch l f).domains = d.domains := rfl
@[simp] theorem Dev.modLaunch_harts (d : Dev) (l : Nat) (f : Launch → Launch) : (d.modLaunch l f).harts = d.harts := rfl
@[simp] theorem Dev.modLaunch_dir (d : Dev) (l : Nat) (f : Launch → Launch) : (d.modLaunch l f).dir = d.dir := rfl
@[simp] theorem Dev.modLaunch_txns (d : Dev) (l : Nat) (f : Launch → Launch) : (d.modLaunch l f).txns = d.txns := rfl
@[simp] theorem Dev.modLaunch_reqs (d : Dev) (l : Nat) (f : Launch → Launch) : (d.modLaunch l f).reqs = d.reqs := rfl
@[simp] theorem Dev.modLaunch_copies (d : Dev) (l : Nat) (f : Launch → Launch) : (d.modLaunch l f).copies = d.copies := rfl
@[simp] theorem Dev.modLaunch_msgs (d : Dev) (l : Nat) (f : Launch → Launch) : (d.modLaunch l f).msgs = d.msgs := rfl
@[simp] theorem Dev.modLaunch_links (d : Dev) (l : Nat) (f : Launch → Launch) : (d.modLaunch l f).links = d.links := rfl
@[simp] theorem Dev.modLaunch_heads (d : Dev) (l : Nat) (f : Launch → Launch) : (d.modLaunch l f).heads = d.heads := rfl
@[simp] theorem Dev.modLaunch_headPollAt (d : Dev) (l : Nat) (f : Launch → Launch) : (d.modLaunch l f).headPollAt = d.headPollAt := rfl
@[simp] theorem Dev.modLaunch_out (d : Dev) (l : Nat) (f : Launch → Launch) : (d.modLaunch l f).out = d.out := rfl
@[simp] theorem Dev.modLaunch_imageBytes (d : Dev) (l : Nat) (f : Launch → Launch) : (d.modLaunch l f).imageBytes = d.imageBytes := rfl
@[simp] theorem Dev.modLaunch_rcnt (d : Dev) (l : Nat) (f : Launch → Launch) : (d.modLaunch l f).rcnt = d.rcnt := rfl
@[simp] theorem Dev.modLaunch_resets (d : Dev) (l : Nat) (f : Launch → Launch) : (d.modLaunch l f).resets = d.resets := rfl
@[simp] theorem Dev.modLaunch_power (d : Dev) (l : Nat) (f : Launch → Launch) : (d.modLaunch l f).power = d.power := rfl
@[simp] theorem Dev.modLaunch_auxKept (d : Dev) (l : Nat) (f : Launch → Launch) : (d.modLaunch l f).auxKept = d.auxKept := rfl
@[simp] theorem Dev.modLaunch_pinHigh (d : Dev) (l : Nat) (f : Launch → Launch) : (d.modLaunch l f).pinHigh = d.pinHigh := rfl
@[simp] theorem Dev.modLaunch_inbox (d : Dev) (l : Nat) (f : Launch → Launch) : (d.modLaunch l f).inbox = d.inbox := rfl

@[simp] theorem Dev.modPass_arg (d : Dev) (p : Nat) (f : Pass → Pass) : (d.modPass p f).arg = d.arg := rfl
@[simp] theorem Dev.modPass_ropes (d : Dev) (p : Nat) (f : Pass → Pass) : (d.modPass p f).ropes = d.ropes := rfl
@[simp] theorem Dev.modPass_agenda (d : Dev) (p : Nat) (f : Pass → Pass) : (d.modPass p f).agenda = d.agenda := rfl
@[simp] theorem Dev.modPass_inputs (d : Dev) (p : Nat) (f : Pass → Pass) : (d.modPass p f).inputs = d.inputs := rfl
@[simp] theorem Dev.modPass_choices (d : Dev) (p : Nat) (f : Pass → Pass) : (d.modPass p f).choices = d.choices := rfl
@[simp] theorem Dev.modPass_curHart (d : Dev) (p : Nat) (f : Pass → Pass) : (d.modPass p f).curHart = d.curHart := rfl
@[simp] theorem Dev.modPass_nextId (d : Dev) (p : Nat) (f : Pass → Pass) : (d.modPass p f).nextId = d.nextId := rfl
@[simp] theorem Dev.modPass_fresh (d : Dev) (p : Nat) (f : Pass → Pass) : (d.modPass p f).fresh = d.fresh := rfl
@[simp] theorem Dev.modPass_evSeq (d : Dev) (p : Nat) (f : Pass → Pass) : (d.modPass p f).evSeq = d.evSeq := rfl
@[simp] theorem Dev.modPass_wb (d : Dev) (p : Nat) (f : Pass → Pass) : (d.modPass p f).wb = d.wb := rfl
@[simp] theorem Dev.modPass_poison (d : Dev) (p : Nat) (f : Pass → Pass) : (d.modPass p f).poison = d.poison := rfl
@[simp] theorem Dev.modPass_hostErr (d : Dev) (p : Nat) (f : Pass → Pass) : (d.modPass p f).hostErr = d.hostErr := rfl
@[simp] theorem Dev.modPass_wgs (d : Dev) (p : Nat) (f : Pass → Pass) : (d.modPass p f).wgs = d.wgs := rfl
@[simp] theorem Dev.modPass_launches (d : Dev) (p : Nat) (f : Pass → Pass) : (d.modPass p f).launches = d.launches := rfl
@[simp] theorem Dev.modPass_ops (d : Dev) (p : Nat) (f : Pass → Pass) : (d.modPass p f).ops = d.ops := rfl
@[simp] theorem Dev.modPass_cores (d : Dev) (p : Nat) (f : Pass → Pass) : (d.modPass p f).cores = d.cores := rfl
@[simp] theorem Dev.modPass_l2 (d : Dev) (p : Nat) (f : Pass → Pass) : (d.modPass p f).l2 = d.l2 := rfl
@[simp] theorem Dev.modPass_tags (d : Dev) (p : Nat) (f : Pass → Pass) : (d.modPass p f).tags = d.tags := rfl
@[simp] theorem Dev.modPass_quotaStops (d : Dev) (p : Nat) (f : Pass → Pass) : (d.modPass p f).quotaStops = d.quotaStops := rfl
@[simp] theorem Dev.modPass_retq (d : Dev) (p : Nat) (f : Pass → Pass) : (d.modPass p f).retq = d.retq := rfl
@[simp] theorem Dev.modPass_fwd (d : Dev) (p : Nat) (f : Pass → Pass) : (d.modPass p f).fwd = d.fwd := rfl
@[simp] theorem Dev.modPass_eps (d : Dev) (p : Nat) (f : Pass → Pass) : (d.modPass p f).eps = d.eps := rfl
@[simp] theorem Dev.modPass_fills (d : Dev) (p : Nat) (f : Pass → Pass) : (d.modPass p f).fills = d.fills := rfl
@[simp] theorem Dev.modPass_fifoS (d : Dev) (p : Nat) (f : Pass → Pass) : (d.modPass p f).fifoS = d.fifoS := rfl
@[simp] theorem Dev.modPass_fifoL (d : Dev) (p : Nat) (f : Pass → Pass) : (d.modPass p f).fifoL = d.fifoL := rfl
@[simp] theorem Dev.modPass_sweepS (d : Dev) (p : Nat) (f : Pass → Pass) : (d.modPass p f).sweepS = d.sweepS := rfl
@[simp] theorem Dev.modPass_sweepL (d : Dev) (p : Nat) (f : Pass → Pass) : (d.modPass p f).sweepL = d.sweepL := rfl
@[simp] theorem Dev.modPass_mops (d : Dev) (p : Nat) (f : Pass → Pass) : (d.modPass p f).mops = d.mops := rfl
@[simp] theorem Dev.modPass_laneH (d : Dev) (p : Nat) (f : Pass → Pass) : (d.modPass p f).laneH = d.laneH := rfl
@[simp] theorem Dev.modPass_laneR (d : Dev) (p : Nat) (f : Pass → Pass) : (d.modPass p f).laneR = d.laneR := rfl
@[simp] theorem Dev.modPass_laneRHeld (d : Dev) (p : Nat) (f : Pass → Pass) : (d.modPass p f).laneRHeld = d.laneRHeld := rfl
@[simp] theorem Dev.modPass_handed (d : Dev) (p : Nat) (f : Pass → Pass) : (d.modPass p f).handed = d.handed := rfl
@[simp] theorem Dev.modPass_cairnOpen (d : Dev) (p : Nat) (f : Pass → Pass) : (d.modPass p f).cairnOpen = d.cairnOpen := rfl
@[simp] theorem Dev.modPass_cairnSince (d : Dev) (p : Nat) (f : Pass → Pass) : (d.modPass p f).cairnSince = d.cairnSince := rfl
@[simp] theorem Dev.modPass_cairnClosed (d : Dev) (p : Nat) (f : Pass → Pass) : (d.modPass p f).cairnClosed = d.cairnClosed := rfl
@[simp] theorem Dev.modPass_hub (d : Dev) (p : Nat) (f : Pass → Pass) : (d.modPass p f).hub = d.hub := rfl
@[simp] theorem Dev.modPass_queues (d : Dev) (p : Nat) (f : Pass → Pass) : (d.modPass p f).queues = d.queues := rfl
@[simp] theorem Dev.modPass_pkts (d : Dev) (p : Nat) (f : Pass → Pass) : (d.modPass p f).pkts = d.pkts := rfl
@[simp] theorem Dev.modPass_parts (d : Dev) (p : Nat) (f : Pass → Pass) : (d.modPass p f).parts = d.parts := rfl
@[simp] theorem Dev.modPass_msix (d : Dev) (p : Nat) (f : Pass → Pass) : (d.modPass p f).msix = d.msix := rfl
@[simp] theorem Dev.modPass_saveRuns (d : Dev) (p : Nat) (f : Pass → Pass) : (d.modPass p f).saveRuns = d.saveRuns := rfl
@[simp] theorem Dev.modPass_domains (d : Dev) (p : Nat) (f : Pass → Pass) : (d.modPass p f).domains = d.domains := rfl
@[simp] theorem Dev.modPass_harts (d : Dev) (p : Nat) (f : Pass → Pass) : (d.modPass p f).harts = d.harts := rfl
@[simp] theorem Dev.modPass_dir (d : Dev) (p : Nat) (f : Pass → Pass) : (d.modPass p f).dir = d.dir := rfl
@[simp] theorem Dev.modPass_txns (d : Dev) (p : Nat) (f : Pass → Pass) : (d.modPass p f).txns = d.txns := rfl
@[simp] theorem Dev.modPass_reqs (d : Dev) (p : Nat) (f : Pass → Pass) : (d.modPass p f).reqs = d.reqs := rfl
@[simp] theorem Dev.modPass_copies (d : Dev) (p : Nat) (f : Pass → Pass) : (d.modPass p f).copies = d.copies := rfl
@[simp] theorem Dev.modPass_msgs (d : Dev) (p : Nat) (f : Pass → Pass) : (d.modPass p f).msgs = d.msgs := rfl
@[simp] theorem Dev.modPass_links (d : Dev) (p : Nat) (f : Pass → Pass) : (d.modPass p f).links = d.links := rfl
@[simp] theorem Dev.modPass_heads (d : Dev) (p : Nat) (f : Pass → Pass) : (d.modPass p f).heads = d.heads := rfl
@[simp] theorem Dev.modPass_headPollAt (d : Dev) (p : Nat) (f : Pass → Pass) : (d.modPass p f).headPollAt = d.headPollAt := rfl
@[simp] theorem Dev.modPass_out (d : Dev) (p : Nat) (f : Pass → Pass) : (d.modPass p f).out = d.out := rfl
@[simp] theorem Dev.modPass_imageBytes (d : Dev) (p : Nat) (f : Pass → Pass) : (d.modPass p f).imageBytes = d.imageBytes := rfl
@[simp] theorem Dev.modPass_rcnt (d : Dev) (p : Nat) (f : Pass → Pass) : (d.modPass p f).rcnt = d.rcnt := rfl
@[simp] theorem Dev.modPass_resets (d : Dev) (p : Nat) (f : Pass → Pass) : (d.modPass p f).resets = d.resets := rfl
@[simp] theorem Dev.modPass_power (d : Dev) (p : Nat) (f : Pass → Pass) : (d.modPass p f).power = d.power := rfl
@[simp] theorem Dev.modPass_auxKept (d : Dev) (p : Nat) (f : Pass → Pass) : (d.modPass p f).auxKept = d.auxKept := rfl
@[simp] theorem Dev.modPass_pinHigh (d : Dev) (p : Nat) (f : Pass → Pass) : (d.modPass p f).pinHigh = d.pinHigh := rfl
@[simp] theorem Dev.modPass_inbox (d : Dev) (p : Nat) (f : Pass → Pass) : (d.modPass p f).inbox = d.inbox := rfl

@[simp] theorem Dev.modCore_arg (d : Dev) (c : Nat) (f : Core → Core) : (d.modCore c f).arg = d.arg := rfl
@[simp] theorem Dev.modCore_ropes (d : Dev) (c : Nat) (f : Core → Core) : (d.modCore c f).ropes = d.ropes := rfl
@[simp] theorem Dev.modCore_agenda (d : Dev) (c : Nat) (f : Core → Core) : (d.modCore c f).agenda = d.agenda := rfl
@[simp] theorem Dev.modCore_inputs (d : Dev) (c : Nat) (f : Core → Core) : (d.modCore c f).inputs = d.inputs := rfl
@[simp] theorem Dev.modCore_choices (d : Dev) (c : Nat) (f : Core → Core) : (d.modCore c f).choices = d.choices := rfl
@[simp] theorem Dev.modCore_curHart (d : Dev) (c : Nat) (f : Core → Core) : (d.modCore c f).curHart = d.curHart := rfl
@[simp] theorem Dev.modCore_nextId (d : Dev) (c : Nat) (f : Core → Core) : (d.modCore c f).nextId = d.nextId := rfl
@[simp] theorem Dev.modCore_fresh (d : Dev) (c : Nat) (f : Core → Core) : (d.modCore c f).fresh = d.fresh := rfl
@[simp] theorem Dev.modCore_evSeq (d : Dev) (c : Nat) (f : Core → Core) : (d.modCore c f).evSeq = d.evSeq := rfl
@[simp] theorem Dev.modCore_wb (d : Dev) (c : Nat) (f : Core → Core) : (d.modCore c f).wb = d.wb := rfl
@[simp] theorem Dev.modCore_poison (d : Dev) (c : Nat) (f : Core → Core) : (d.modCore c f).poison = d.poison := rfl
@[simp] theorem Dev.modCore_hostErr (d : Dev) (c : Nat) (f : Core → Core) : (d.modCore c f).hostErr = d.hostErr := rfl
@[simp] theorem Dev.modCore_wgs (d : Dev) (c : Nat) (f : Core → Core) : (d.modCore c f).wgs = d.wgs := rfl
@[simp] theorem Dev.modCore_launches (d : Dev) (c : Nat) (f : Core → Core) : (d.modCore c f).launches = d.launches := rfl
@[simp] theorem Dev.modCore_passes (d : Dev) (c : Nat) (f : Core → Core) : (d.modCore c f).passes = d.passes := rfl
@[simp] theorem Dev.modCore_ops (d : Dev) (c : Nat) (f : Core → Core) : (d.modCore c f).ops = d.ops := rfl
@[simp] theorem Dev.modCore_l2 (d : Dev) (c : Nat) (f : Core → Core) : (d.modCore c f).l2 = d.l2 := rfl
@[simp] theorem Dev.modCore_tags (d : Dev) (c : Nat) (f : Core → Core) : (d.modCore c f).tags = d.tags := rfl
@[simp] theorem Dev.modCore_quotaStops (d : Dev) (c : Nat) (f : Core → Core) : (d.modCore c f).quotaStops = d.quotaStops := rfl
@[simp] theorem Dev.modCore_retq (d : Dev) (c : Nat) (f : Core → Core) : (d.modCore c f).retq = d.retq := rfl
@[simp] theorem Dev.modCore_fwd (d : Dev) (c : Nat) (f : Core → Core) : (d.modCore c f).fwd = d.fwd := rfl
@[simp] theorem Dev.modCore_eps (d : Dev) (c : Nat) (f : Core → Core) : (d.modCore c f).eps = d.eps := rfl
@[simp] theorem Dev.modCore_fills (d : Dev) (c : Nat) (f : Core → Core) : (d.modCore c f).fills = d.fills := rfl
@[simp] theorem Dev.modCore_fifoS (d : Dev) (c : Nat) (f : Core → Core) : (d.modCore c f).fifoS = d.fifoS := rfl
@[simp] theorem Dev.modCore_fifoL (d : Dev) (c : Nat) (f : Core → Core) : (d.modCore c f).fifoL = d.fifoL := rfl
@[simp] theorem Dev.modCore_sweepS (d : Dev) (c : Nat) (f : Core → Core) : (d.modCore c f).sweepS = d.sweepS := rfl
@[simp] theorem Dev.modCore_sweepL (d : Dev) (c : Nat) (f : Core → Core) : (d.modCore c f).sweepL = d.sweepL := rfl
@[simp] theorem Dev.modCore_mops (d : Dev) (c : Nat) (f : Core → Core) : (d.modCore c f).mops = d.mops := rfl
@[simp] theorem Dev.modCore_laneH (d : Dev) (c : Nat) (f : Core → Core) : (d.modCore c f).laneH = d.laneH := rfl
@[simp] theorem Dev.modCore_laneR (d : Dev) (c : Nat) (f : Core → Core) : (d.modCore c f).laneR = d.laneR := rfl
@[simp] theorem Dev.modCore_laneRHeld (d : Dev) (c : Nat) (f : Core → Core) : (d.modCore c f).laneRHeld = d.laneRHeld := rfl
@[simp] theorem Dev.modCore_handed (d : Dev) (c : Nat) (f : Core → Core) : (d.modCore c f).handed = d.handed := rfl
@[simp] theorem Dev.modCore_cairnOpen (d : Dev) (c : Nat) (f : Core → Core) : (d.modCore c f).cairnOpen = d.cairnOpen := rfl
@[simp] theorem Dev.modCore_cairnSince (d : Dev) (c : Nat) (f : Core → Core) : (d.modCore c f).cairnSince = d.cairnSince := rfl
@[simp] theorem Dev.modCore_cairnClosed (d : Dev) (c : Nat) (f : Core → Core) : (d.modCore c f).cairnClosed = d.cairnClosed := rfl
@[simp] theorem Dev.modCore_hub (d : Dev) (c : Nat) (f : Core → Core) : (d.modCore c f).hub = d.hub := rfl
@[simp] theorem Dev.modCore_queues (d : Dev) (c : Nat) (f : Core → Core) : (d.modCore c f).queues = d.queues := rfl
@[simp] theorem Dev.modCore_pkts (d : Dev) (c : Nat) (f : Core → Core) : (d.modCore c f).pkts = d.pkts := rfl
@[simp] theorem Dev.modCore_parts (d : Dev) (c : Nat) (f : Core → Core) : (d.modCore c f).parts = d.parts := rfl
@[simp] theorem Dev.modCore_msix (d : Dev) (c : Nat) (f : Core → Core) : (d.modCore c f).msix = d.msix := rfl
@[simp] theorem Dev.modCore_saveRuns (d : Dev) (c : Nat) (f : Core → Core) : (d.modCore c f).saveRuns = d.saveRuns := rfl
@[simp] theorem Dev.modCore_domains (d : Dev) (c : Nat) (f : Core → Core) : (d.modCore c f).domains = d.domains := rfl
@[simp] theorem Dev.modCore_harts (d : Dev) (c : Nat) (f : Core → Core) : (d.modCore c f).harts = d.harts := rfl
@[simp] theorem Dev.modCore_dir (d : Dev) (c : Nat) (f : Core → Core) : (d.modCore c f).dir = d.dir := rfl
@[simp] theorem Dev.modCore_txns (d : Dev) (c : Nat) (f : Core → Core) : (d.modCore c f).txns = d.txns := rfl
@[simp] theorem Dev.modCore_reqs (d : Dev) (c : Nat) (f : Core → Core) : (d.modCore c f).reqs = d.reqs := rfl
@[simp] theorem Dev.modCore_copies (d : Dev) (c : Nat) (f : Core → Core) : (d.modCore c f).copies = d.copies := rfl
@[simp] theorem Dev.modCore_msgs (d : Dev) (c : Nat) (f : Core → Core) : (d.modCore c f).msgs = d.msgs := rfl
@[simp] theorem Dev.modCore_links (d : Dev) (c : Nat) (f : Core → Core) : (d.modCore c f).links = d.links := rfl
@[simp] theorem Dev.modCore_heads (d : Dev) (c : Nat) (f : Core → Core) : (d.modCore c f).heads = d.heads := rfl
@[simp] theorem Dev.modCore_headPollAt (d : Dev) (c : Nat) (f : Core → Core) : (d.modCore c f).headPollAt = d.headPollAt := rfl
@[simp] theorem Dev.modCore_out (d : Dev) (c : Nat) (f : Core → Core) : (d.modCore c f).out = d.out := rfl
@[simp] theorem Dev.modCore_imageBytes (d : Dev) (c : Nat) (f : Core → Core) : (d.modCore c f).imageBytes = d.imageBytes := rfl
@[simp] theorem Dev.modCore_rcnt (d : Dev) (c : Nat) (f : Core → Core) : (d.modCore c f).rcnt = d.rcnt := rfl
@[simp] theorem Dev.modCore_resets (d : Dev) (c : Nat) (f : Core → Core) : (d.modCore c f).resets = d.resets := rfl
@[simp] theorem Dev.modCore_power (d : Dev) (c : Nat) (f : Core → Core) : (d.modCore c f).power = d.power := rfl
@[simp] theorem Dev.modCore_auxKept (d : Dev) (c : Nat) (f : Core → Core) : (d.modCore c f).auxKept = d.auxKept := rfl
@[simp] theorem Dev.modCore_pinHigh (d : Dev) (c : Nat) (f : Core → Core) : (d.modCore c f).pinHigh = d.pinHigh := rfl
@[simp] theorem Dev.modCore_inbox (d : Dev) (c : Nat) (f : Core → Core) : (d.modCore c f).inbox = d.inbox := rfl

@[simp] theorem Dev.modOp_arg (d : Dev) (i : Nat) (f : Op → Op) : (d.modOp i f).arg = d.arg := rfl
@[simp] theorem Dev.modOp_ropes (d : Dev) (i : Nat) (f : Op → Op) : (d.modOp i f).ropes = d.ropes := rfl
@[simp] theorem Dev.modOp_agenda (d : Dev) (i : Nat) (f : Op → Op) : (d.modOp i f).agenda = d.agenda := rfl
@[simp] theorem Dev.modOp_inputs (d : Dev) (i : Nat) (f : Op → Op) : (d.modOp i f).inputs = d.inputs := rfl
@[simp] theorem Dev.modOp_choices (d : Dev) (i : Nat) (f : Op → Op) : (d.modOp i f).choices = d.choices := rfl
@[simp] theorem Dev.modOp_curHart (d : Dev) (i : Nat) (f : Op → Op) : (d.modOp i f).curHart = d.curHart := rfl
@[simp] theorem Dev.modOp_nextId (d : Dev) (i : Nat) (f : Op → Op) : (d.modOp i f).nextId = d.nextId := rfl
@[simp] theorem Dev.modOp_fresh (d : Dev) (i : Nat) (f : Op → Op) : (d.modOp i f).fresh = d.fresh := rfl
@[simp] theorem Dev.modOp_evSeq (d : Dev) (i : Nat) (f : Op → Op) : (d.modOp i f).evSeq = d.evSeq := rfl
@[simp] theorem Dev.modOp_wb (d : Dev) (i : Nat) (f : Op → Op) : (d.modOp i f).wb = d.wb := rfl
@[simp] theorem Dev.modOp_poison (d : Dev) (i : Nat) (f : Op → Op) : (d.modOp i f).poison = d.poison := rfl
@[simp] theorem Dev.modOp_hostErr (d : Dev) (i : Nat) (f : Op → Op) : (d.modOp i f).hostErr = d.hostErr := rfl
@[simp] theorem Dev.modOp_wgs (d : Dev) (i : Nat) (f : Op → Op) : (d.modOp i f).wgs = d.wgs := rfl
@[simp] theorem Dev.modOp_launches (d : Dev) (i : Nat) (f : Op → Op) : (d.modOp i f).launches = d.launches := rfl
@[simp] theorem Dev.modOp_passes (d : Dev) (i : Nat) (f : Op → Op) : (d.modOp i f).passes = d.passes := rfl
@[simp] theorem Dev.modOp_cores (d : Dev) (i : Nat) (f : Op → Op) : (d.modOp i f).cores = d.cores := rfl
@[simp] theorem Dev.modOp_l2 (d : Dev) (i : Nat) (f : Op → Op) : (d.modOp i f).l2 = d.l2 := rfl
@[simp] theorem Dev.modOp_tags (d : Dev) (i : Nat) (f : Op → Op) : (d.modOp i f).tags = d.tags := rfl
@[simp] theorem Dev.modOp_quotaStops (d : Dev) (i : Nat) (f : Op → Op) : (d.modOp i f).quotaStops = d.quotaStops := rfl
@[simp] theorem Dev.modOp_retq (d : Dev) (i : Nat) (f : Op → Op) : (d.modOp i f).retq = d.retq := rfl
@[simp] theorem Dev.modOp_fwd (d : Dev) (i : Nat) (f : Op → Op) : (d.modOp i f).fwd = d.fwd := rfl
@[simp] theorem Dev.modOp_eps (d : Dev) (i : Nat) (f : Op → Op) : (d.modOp i f).eps = d.eps := rfl
@[simp] theorem Dev.modOp_fills (d : Dev) (i : Nat) (f : Op → Op) : (d.modOp i f).fills = d.fills := rfl
@[simp] theorem Dev.modOp_fifoS (d : Dev) (i : Nat) (f : Op → Op) : (d.modOp i f).fifoS = d.fifoS := rfl
@[simp] theorem Dev.modOp_fifoL (d : Dev) (i : Nat) (f : Op → Op) : (d.modOp i f).fifoL = d.fifoL := rfl
@[simp] theorem Dev.modOp_sweepS (d : Dev) (i : Nat) (f : Op → Op) : (d.modOp i f).sweepS = d.sweepS := rfl
@[simp] theorem Dev.modOp_sweepL (d : Dev) (i : Nat) (f : Op → Op) : (d.modOp i f).sweepL = d.sweepL := rfl
@[simp] theorem Dev.modOp_mops (d : Dev) (i : Nat) (f : Op → Op) : (d.modOp i f).mops = d.mops := rfl
@[simp] theorem Dev.modOp_laneH (d : Dev) (i : Nat) (f : Op → Op) : (d.modOp i f).laneH = d.laneH := rfl
@[simp] theorem Dev.modOp_laneR (d : Dev) (i : Nat) (f : Op → Op) : (d.modOp i f).laneR = d.laneR := rfl
@[simp] theorem Dev.modOp_laneRHeld (d : Dev) (i : Nat) (f : Op → Op) : (d.modOp i f).laneRHeld = d.laneRHeld := rfl
@[simp] theorem Dev.modOp_handed (d : Dev) (i : Nat) (f : Op → Op) : (d.modOp i f).handed = d.handed := rfl
@[simp] theorem Dev.modOp_cairnOpen (d : Dev) (i : Nat) (f : Op → Op) : (d.modOp i f).cairnOpen = d.cairnOpen := rfl
@[simp] theorem Dev.modOp_cairnSince (d : Dev) (i : Nat) (f : Op → Op) : (d.modOp i f).cairnSince = d.cairnSince := rfl
@[simp] theorem Dev.modOp_cairnClosed (d : Dev) (i : Nat) (f : Op → Op) : (d.modOp i f).cairnClosed = d.cairnClosed := rfl
@[simp] theorem Dev.modOp_hub (d : Dev) (i : Nat) (f : Op → Op) : (d.modOp i f).hub = d.hub := rfl
@[simp] theorem Dev.modOp_queues (d : Dev) (i : Nat) (f : Op → Op) : (d.modOp i f).queues = d.queues := rfl
@[simp] theorem Dev.modOp_pkts (d : Dev) (i : Nat) (f : Op → Op) : (d.modOp i f).pkts = d.pkts := rfl
@[simp] theorem Dev.modOp_parts (d : Dev) (i : Nat) (f : Op → Op) : (d.modOp i f).parts = d.parts := rfl
@[simp] theorem Dev.modOp_msix (d : Dev) (i : Nat) (f : Op → Op) : (d.modOp i f).msix = d.msix := rfl
@[simp] theorem Dev.modOp_saveRuns (d : Dev) (i : Nat) (f : Op → Op) : (d.modOp i f).saveRuns = d.saveRuns := rfl
@[simp] theorem Dev.modOp_domains (d : Dev) (i : Nat) (f : Op → Op) : (d.modOp i f).domains = d.domains := rfl
@[simp] theorem Dev.modOp_harts (d : Dev) (i : Nat) (f : Op → Op) : (d.modOp i f).harts = d.harts := rfl
@[simp] theorem Dev.modOp_dir (d : Dev) (i : Nat) (f : Op → Op) : (d.modOp i f).dir = d.dir := rfl
@[simp] theorem Dev.modOp_txns (d : Dev) (i : Nat) (f : Op → Op) : (d.modOp i f).txns = d.txns := rfl
@[simp] theorem Dev.modOp_reqs (d : Dev) (i : Nat) (f : Op → Op) : (d.modOp i f).reqs = d.reqs := rfl
@[simp] theorem Dev.modOp_copies (d : Dev) (i : Nat) (f : Op → Op) : (d.modOp i f).copies = d.copies := rfl
@[simp] theorem Dev.modOp_msgs (d : Dev) (i : Nat) (f : Op → Op) : (d.modOp i f).msgs = d.msgs := rfl
@[simp] theorem Dev.modOp_links (d : Dev) (i : Nat) (f : Op → Op) : (d.modOp i f).links = d.links := rfl
@[simp] theorem Dev.modOp_heads (d : Dev) (i : Nat) (f : Op → Op) : (d.modOp i f).heads = d.heads := rfl
@[simp] theorem Dev.modOp_headPollAt (d : Dev) (i : Nat) (f : Op → Op) : (d.modOp i f).headPollAt = d.headPollAt := rfl
@[simp] theorem Dev.modOp_out (d : Dev) (i : Nat) (f : Op → Op) : (d.modOp i f).out = d.out := rfl
@[simp] theorem Dev.modOp_imageBytes (d : Dev) (i : Nat) (f : Op → Op) : (d.modOp i f).imageBytes = d.imageBytes := rfl
@[simp] theorem Dev.modOp_rcnt (d : Dev) (i : Nat) (f : Op → Op) : (d.modOp i f).rcnt = d.rcnt := rfl
@[simp] theorem Dev.modOp_resets (d : Dev) (i : Nat) (f : Op → Op) : (d.modOp i f).resets = d.resets := rfl
@[simp] theorem Dev.modOp_power (d : Dev) (i : Nat) (f : Op → Op) : (d.modOp i f).power = d.power := rfl
@[simp] theorem Dev.modOp_auxKept (d : Dev) (i : Nat) (f : Op → Op) : (d.modOp i f).auxKept = d.auxKept := rfl
@[simp] theorem Dev.modOp_pinHigh (d : Dev) (i : Nat) (f : Op → Op) : (d.modOp i f).pinHigh = d.pinHigh := rfl
@[simp] theorem Dev.modOp_inbox (d : Dev) (i : Nat) (f : Op → Op) : (d.modOp i f).inbox = d.inbox := rfl

@[simp] theorem Dev.dropOp_arg (d : Dev) (i : Nat) : (d.dropOp i).arg = d.arg := rfl
@[simp] theorem Dev.dropOp_ropes (d : Dev) (i : Nat) : (d.dropOp i).ropes = d.ropes := rfl
@[simp] theorem Dev.dropOp_agenda (d : Dev) (i : Nat) : (d.dropOp i).agenda = d.agenda := rfl
@[simp] theorem Dev.dropOp_inputs (d : Dev) (i : Nat) : (d.dropOp i).inputs = d.inputs := rfl
@[simp] theorem Dev.dropOp_choices (d : Dev) (i : Nat) : (d.dropOp i).choices = d.choices := rfl
@[simp] theorem Dev.dropOp_curHart (d : Dev) (i : Nat) : (d.dropOp i).curHart = d.curHart := rfl
@[simp] theorem Dev.dropOp_nextId (d : Dev) (i : Nat) : (d.dropOp i).nextId = d.nextId := rfl
@[simp] theorem Dev.dropOp_fresh (d : Dev) (i : Nat) : (d.dropOp i).fresh = d.fresh := rfl
@[simp] theorem Dev.dropOp_evSeq (d : Dev) (i : Nat) : (d.dropOp i).evSeq = d.evSeq := rfl
@[simp] theorem Dev.dropOp_wb (d : Dev) (i : Nat) : (d.dropOp i).wb = d.wb := rfl
@[simp] theorem Dev.dropOp_poison (d : Dev) (i : Nat) : (d.dropOp i).poison = d.poison := rfl
@[simp] theorem Dev.dropOp_hostErr (d : Dev) (i : Nat) : (d.dropOp i).hostErr = d.hostErr := rfl
@[simp] theorem Dev.dropOp_wgs (d : Dev) (i : Nat) : (d.dropOp i).wgs = d.wgs := rfl
@[simp] theorem Dev.dropOp_launches (d : Dev) (i : Nat) : (d.dropOp i).launches = d.launches := rfl
@[simp] theorem Dev.dropOp_passes (d : Dev) (i : Nat) : (d.dropOp i).passes = d.passes := rfl
@[simp] theorem Dev.dropOp_cores (d : Dev) (i : Nat) : (d.dropOp i).cores = d.cores := rfl
@[simp] theorem Dev.dropOp_l2 (d : Dev) (i : Nat) : (d.dropOp i).l2 = d.l2 := rfl
@[simp] theorem Dev.dropOp_tags (d : Dev) (i : Nat) : (d.dropOp i).tags = d.tags := rfl
@[simp] theorem Dev.dropOp_quotaStops (d : Dev) (i : Nat) : (d.dropOp i).quotaStops = d.quotaStops := rfl
@[simp] theorem Dev.dropOp_retq (d : Dev) (i : Nat) : (d.dropOp i).retq = d.retq := rfl
@[simp] theorem Dev.dropOp_fwd (d : Dev) (i : Nat) : (d.dropOp i).fwd = d.fwd := rfl
@[simp] theorem Dev.dropOp_eps (d : Dev) (i : Nat) : (d.dropOp i).eps = d.eps := rfl
@[simp] theorem Dev.dropOp_fills (d : Dev) (i : Nat) : (d.dropOp i).fills = d.fills := rfl
@[simp] theorem Dev.dropOp_fifoS (d : Dev) (i : Nat) : (d.dropOp i).fifoS = d.fifoS := rfl
@[simp] theorem Dev.dropOp_fifoL (d : Dev) (i : Nat) : (d.dropOp i).fifoL = d.fifoL := rfl
@[simp] theorem Dev.dropOp_sweepS (d : Dev) (i : Nat) : (d.dropOp i).sweepS = d.sweepS := rfl
@[simp] theorem Dev.dropOp_sweepL (d : Dev) (i : Nat) : (d.dropOp i).sweepL = d.sweepL := rfl
@[simp] theorem Dev.dropOp_mops (d : Dev) (i : Nat) : (d.dropOp i).mops = d.mops := rfl
@[simp] theorem Dev.dropOp_laneH (d : Dev) (i : Nat) : (d.dropOp i).laneH = d.laneH := rfl
@[simp] theorem Dev.dropOp_laneR (d : Dev) (i : Nat) : (d.dropOp i).laneR = d.laneR := rfl
@[simp] theorem Dev.dropOp_laneRHeld (d : Dev) (i : Nat) : (d.dropOp i).laneRHeld = d.laneRHeld := rfl
@[simp] theorem Dev.dropOp_handed (d : Dev) (i : Nat) : (d.dropOp i).handed = d.handed := rfl
@[simp] theorem Dev.dropOp_cairnOpen (d : Dev) (i : Nat) : (d.dropOp i).cairnOpen = d.cairnOpen := rfl
@[simp] theorem Dev.dropOp_cairnSince (d : Dev) (i : Nat) : (d.dropOp i).cairnSince = d.cairnSince := rfl
@[simp] theorem Dev.dropOp_cairnClosed (d : Dev) (i : Nat) : (d.dropOp i).cairnClosed = d.cairnClosed := rfl
@[simp] theorem Dev.dropOp_hub (d : Dev) (i : Nat) : (d.dropOp i).hub = d.hub := rfl
@[simp] theorem Dev.dropOp_queues (d : Dev) (i : Nat) : (d.dropOp i).queues = d.queues := rfl
@[simp] theorem Dev.dropOp_pkts (d : Dev) (i : Nat) : (d.dropOp i).pkts = d.pkts := rfl
@[simp] theorem Dev.dropOp_parts (d : Dev) (i : Nat) : (d.dropOp i).parts = d.parts := rfl
@[simp] theorem Dev.dropOp_msix (d : Dev) (i : Nat) : (d.dropOp i).msix = d.msix := rfl
@[simp] theorem Dev.dropOp_saveRuns (d : Dev) (i : Nat) : (d.dropOp i).saveRuns = d.saveRuns := rfl
@[simp] theorem Dev.dropOp_domains (d : Dev) (i : Nat) : (d.dropOp i).domains = d.domains := rfl
@[simp] theorem Dev.dropOp_harts (d : Dev) (i : Nat) : (d.dropOp i).harts = d.harts := rfl
@[simp] theorem Dev.dropOp_dir (d : Dev) (i : Nat) : (d.dropOp i).dir = d.dir := rfl
@[simp] theorem Dev.dropOp_txns (d : Dev) (i : Nat) : (d.dropOp i).txns = d.txns := rfl
@[simp] theorem Dev.dropOp_reqs (d : Dev) (i : Nat) : (d.dropOp i).reqs = d.reqs := rfl
@[simp] theorem Dev.dropOp_copies (d : Dev) (i : Nat) : (d.dropOp i).copies = d.copies := rfl
@[simp] theorem Dev.dropOp_msgs (d : Dev) (i : Nat) : (d.dropOp i).msgs = d.msgs := rfl
@[simp] theorem Dev.dropOp_links (d : Dev) (i : Nat) : (d.dropOp i).links = d.links := rfl
@[simp] theorem Dev.dropOp_heads (d : Dev) (i : Nat) : (d.dropOp i).heads = d.heads := rfl
@[simp] theorem Dev.dropOp_headPollAt (d : Dev) (i : Nat) : (d.dropOp i).headPollAt = d.headPollAt := rfl
@[simp] theorem Dev.dropOp_out (d : Dev) (i : Nat) : (d.dropOp i).out = d.out := rfl
@[simp] theorem Dev.dropOp_imageBytes (d : Dev) (i : Nat) : (d.dropOp i).imageBytes = d.imageBytes := rfl
@[simp] theorem Dev.dropOp_rcnt (d : Dev) (i : Nat) : (d.dropOp i).rcnt = d.rcnt := rfl
@[simp] theorem Dev.dropOp_resets (d : Dev) (i : Nat) : (d.dropOp i).resets = d.resets := rfl
@[simp] theorem Dev.dropOp_power (d : Dev) (i : Nat) : (d.dropOp i).power = d.power := rfl
@[simp] theorem Dev.dropOp_auxKept (d : Dev) (i : Nat) : (d.dropOp i).auxKept = d.auxKept := rfl
@[simp] theorem Dev.dropOp_pinHigh (d : Dev) (i : Nat) : (d.dropOp i).pinHigh = d.pinHigh := rfl
@[simp] theorem Dev.dropOp_inbox (d : Dev) (i : Nat) : (d.dropOp i).inbox = d.inbox := rfl

@[simp] theorem Dev.modHub_arg (d : Dev) (f : Hub → Hub) : (d.modHub f).arg = d.arg := rfl
@[simp] theorem Dev.modHub_ropes (d : Dev) (f : Hub → Hub) : (d.modHub f).ropes = d.ropes := rfl
@[simp] theorem Dev.modHub_agenda (d : Dev) (f : Hub → Hub) : (d.modHub f).agenda = d.agenda := rfl
@[simp] theorem Dev.modHub_inputs (d : Dev) (f : Hub → Hub) : (d.modHub f).inputs = d.inputs := rfl
@[simp] theorem Dev.modHub_choices (d : Dev) (f : Hub → Hub) : (d.modHub f).choices = d.choices := rfl
@[simp] theorem Dev.modHub_curHart (d : Dev) (f : Hub → Hub) : (d.modHub f).curHart = d.curHart := rfl
@[simp] theorem Dev.modHub_nextId (d : Dev) (f : Hub → Hub) : (d.modHub f).nextId = d.nextId := rfl
@[simp] theorem Dev.modHub_fresh (d : Dev) (f : Hub → Hub) : (d.modHub f).fresh = d.fresh := rfl
@[simp] theorem Dev.modHub_evSeq (d : Dev) (f : Hub → Hub) : (d.modHub f).evSeq = d.evSeq := rfl
@[simp] theorem Dev.modHub_wb (d : Dev) (f : Hub → Hub) : (d.modHub f).wb = d.wb := rfl
@[simp] theorem Dev.modHub_poison (d : Dev) (f : Hub → Hub) : (d.modHub f).poison = d.poison := rfl
@[simp] theorem Dev.modHub_hostErr (d : Dev) (f : Hub → Hub) : (d.modHub f).hostErr = d.hostErr := rfl
@[simp] theorem Dev.modHub_wgs (d : Dev) (f : Hub → Hub) : (d.modHub f).wgs = d.wgs := rfl
@[simp] theorem Dev.modHub_launches (d : Dev) (f : Hub → Hub) : (d.modHub f).launches = d.launches := rfl
@[simp] theorem Dev.modHub_passes (d : Dev) (f : Hub → Hub) : (d.modHub f).passes = d.passes := rfl
@[simp] theorem Dev.modHub_ops (d : Dev) (f : Hub → Hub) : (d.modHub f).ops = d.ops := rfl
@[simp] theorem Dev.modHub_cores (d : Dev) (f : Hub → Hub) : (d.modHub f).cores = d.cores := rfl
@[simp] theorem Dev.modHub_l2 (d : Dev) (f : Hub → Hub) : (d.modHub f).l2 = d.l2 := rfl
@[simp] theorem Dev.modHub_tags (d : Dev) (f : Hub → Hub) : (d.modHub f).tags = d.tags := rfl
@[simp] theorem Dev.modHub_quotaStops (d : Dev) (f : Hub → Hub) : (d.modHub f).quotaStops = d.quotaStops := rfl
@[simp] theorem Dev.modHub_retq (d : Dev) (f : Hub → Hub) : (d.modHub f).retq = d.retq := rfl
@[simp] theorem Dev.modHub_fwd (d : Dev) (f : Hub → Hub) : (d.modHub f).fwd = d.fwd := rfl
@[simp] theorem Dev.modHub_eps (d : Dev) (f : Hub → Hub) : (d.modHub f).eps = d.eps := rfl
@[simp] theorem Dev.modHub_fills (d : Dev) (f : Hub → Hub) : (d.modHub f).fills = d.fills := rfl
@[simp] theorem Dev.modHub_fifoS (d : Dev) (f : Hub → Hub) : (d.modHub f).fifoS = d.fifoS := rfl
@[simp] theorem Dev.modHub_fifoL (d : Dev) (f : Hub → Hub) : (d.modHub f).fifoL = d.fifoL := rfl
@[simp] theorem Dev.modHub_sweepS (d : Dev) (f : Hub → Hub) : (d.modHub f).sweepS = d.sweepS := rfl
@[simp] theorem Dev.modHub_sweepL (d : Dev) (f : Hub → Hub) : (d.modHub f).sweepL = d.sweepL := rfl
@[simp] theorem Dev.modHub_mops (d : Dev) (f : Hub → Hub) : (d.modHub f).mops = d.mops := rfl
@[simp] theorem Dev.modHub_laneH (d : Dev) (f : Hub → Hub) : (d.modHub f).laneH = d.laneH := rfl
@[simp] theorem Dev.modHub_laneR (d : Dev) (f : Hub → Hub) : (d.modHub f).laneR = d.laneR := rfl
@[simp] theorem Dev.modHub_laneRHeld (d : Dev) (f : Hub → Hub) : (d.modHub f).laneRHeld = d.laneRHeld := rfl
@[simp] theorem Dev.modHub_handed (d : Dev) (f : Hub → Hub) : (d.modHub f).handed = d.handed := rfl
@[simp] theorem Dev.modHub_cairnOpen (d : Dev) (f : Hub → Hub) : (d.modHub f).cairnOpen = d.cairnOpen := rfl
@[simp] theorem Dev.modHub_cairnSince (d : Dev) (f : Hub → Hub) : (d.modHub f).cairnSince = d.cairnSince := rfl
@[simp] theorem Dev.modHub_cairnClosed (d : Dev) (f : Hub → Hub) : (d.modHub f).cairnClosed = d.cairnClosed := rfl
@[simp] theorem Dev.modHub_queues (d : Dev) (f : Hub → Hub) : (d.modHub f).queues = d.queues := rfl
@[simp] theorem Dev.modHub_pkts (d : Dev) (f : Hub → Hub) : (d.modHub f).pkts = d.pkts := rfl
@[simp] theorem Dev.modHub_parts (d : Dev) (f : Hub → Hub) : (d.modHub f).parts = d.parts := rfl
@[simp] theorem Dev.modHub_msix (d : Dev) (f : Hub → Hub) : (d.modHub f).msix = d.msix := rfl
@[simp] theorem Dev.modHub_saveRuns (d : Dev) (f : Hub → Hub) : (d.modHub f).saveRuns = d.saveRuns := rfl
@[simp] theorem Dev.modHub_domains (d : Dev) (f : Hub → Hub) : (d.modHub f).domains = d.domains := rfl
@[simp] theorem Dev.modHub_harts (d : Dev) (f : Hub → Hub) : (d.modHub f).harts = d.harts := rfl
@[simp] theorem Dev.modHub_dir (d : Dev) (f : Hub → Hub) : (d.modHub f).dir = d.dir := rfl
@[simp] theorem Dev.modHub_txns (d : Dev) (f : Hub → Hub) : (d.modHub f).txns = d.txns := rfl
@[simp] theorem Dev.modHub_reqs (d : Dev) (f : Hub → Hub) : (d.modHub f).reqs = d.reqs := rfl
@[simp] theorem Dev.modHub_copies (d : Dev) (f : Hub → Hub) : (d.modHub f).copies = d.copies := rfl
@[simp] theorem Dev.modHub_msgs (d : Dev) (f : Hub → Hub) : (d.modHub f).msgs = d.msgs := rfl
@[simp] theorem Dev.modHub_links (d : Dev) (f : Hub → Hub) : (d.modHub f).links = d.links := rfl
@[simp] theorem Dev.modHub_heads (d : Dev) (f : Hub → Hub) : (d.modHub f).heads = d.heads := rfl
@[simp] theorem Dev.modHub_headPollAt (d : Dev) (f : Hub → Hub) : (d.modHub f).headPollAt = d.headPollAt := rfl
@[simp] theorem Dev.modHub_out (d : Dev) (f : Hub → Hub) : (d.modHub f).out = d.out := rfl
@[simp] theorem Dev.modHub_imageBytes (d : Dev) (f : Hub → Hub) : (d.modHub f).imageBytes = d.imageBytes := rfl
@[simp] theorem Dev.modHub_rcnt (d : Dev) (f : Hub → Hub) : (d.modHub f).rcnt = d.rcnt := rfl
@[simp] theorem Dev.modHub_resets (d : Dev) (f : Hub → Hub) : (d.modHub f).resets = d.resets := rfl
@[simp] theorem Dev.modHub_power (d : Dev) (f : Hub → Hub) : (d.modHub f).power = d.power := rfl
@[simp] theorem Dev.modHub_auxKept (d : Dev) (f : Hub → Hub) : (d.modHub f).auxKept = d.auxKept := rfl
@[simp] theorem Dev.modHub_pinHigh (d : Dev) (f : Hub → Hub) : (d.modHub f).pinHigh = d.pinHigh := rfl
@[simp] theorem Dev.modHub_inbox (d : Dev) (f : Hub → Hub) : (d.modHub f).inbox = d.inbox := rfl

@[simp] theorem Dev.modHart_arg (d : Dev) (h : Nat) (f : Hart → Hart) : (d.modHart h f).arg = d.arg := rfl
@[simp] theorem Dev.modHart_ropes (d : Dev) (h : Nat) (f : Hart → Hart) : (d.modHart h f).ropes = d.ropes := rfl
@[simp] theorem Dev.modHart_agenda (d : Dev) (h : Nat) (f : Hart → Hart) : (d.modHart h f).agenda = d.agenda := rfl
@[simp] theorem Dev.modHart_inputs (d : Dev) (h : Nat) (f : Hart → Hart) : (d.modHart h f).inputs = d.inputs := rfl
@[simp] theorem Dev.modHart_choices (d : Dev) (h : Nat) (f : Hart → Hart) : (d.modHart h f).choices = d.choices := rfl
@[simp] theorem Dev.modHart_curHart (d : Dev) (h : Nat) (f : Hart → Hart) : (d.modHart h f).curHart = d.curHart := rfl
@[simp] theorem Dev.modHart_nextId (d : Dev) (h : Nat) (f : Hart → Hart) : (d.modHart h f).nextId = d.nextId := rfl
@[simp] theorem Dev.modHart_fresh (d : Dev) (h : Nat) (f : Hart → Hart) : (d.modHart h f).fresh = d.fresh := rfl
@[simp] theorem Dev.modHart_evSeq (d : Dev) (h : Nat) (f : Hart → Hart) : (d.modHart h f).evSeq = d.evSeq := rfl
@[simp] theorem Dev.modHart_wb (d : Dev) (h : Nat) (f : Hart → Hart) : (d.modHart h f).wb = d.wb := rfl
@[simp] theorem Dev.modHart_poison (d : Dev) (h : Nat) (f : Hart → Hart) : (d.modHart h f).poison = d.poison := rfl
@[simp] theorem Dev.modHart_hostErr (d : Dev) (h : Nat) (f : Hart → Hart) : (d.modHart h f).hostErr = d.hostErr := rfl
@[simp] theorem Dev.modHart_wgs (d : Dev) (h : Nat) (f : Hart → Hart) : (d.modHart h f).wgs = d.wgs := rfl
@[simp] theorem Dev.modHart_launches (d : Dev) (h : Nat) (f : Hart → Hart) : (d.modHart h f).launches = d.launches := rfl
@[simp] theorem Dev.modHart_passes (d : Dev) (h : Nat) (f : Hart → Hart) : (d.modHart h f).passes = d.passes := rfl
@[simp] theorem Dev.modHart_ops (d : Dev) (h : Nat) (f : Hart → Hart) : (d.modHart h f).ops = d.ops := rfl
@[simp] theorem Dev.modHart_cores (d : Dev) (h : Nat) (f : Hart → Hart) : (d.modHart h f).cores = d.cores := rfl
@[simp] theorem Dev.modHart_l2 (d : Dev) (h : Nat) (f : Hart → Hart) : (d.modHart h f).l2 = d.l2 := rfl
@[simp] theorem Dev.modHart_tags (d : Dev) (h : Nat) (f : Hart → Hart) : (d.modHart h f).tags = d.tags := rfl
@[simp] theorem Dev.modHart_quotaStops (d : Dev) (h : Nat) (f : Hart → Hart) : (d.modHart h f).quotaStops = d.quotaStops := rfl
@[simp] theorem Dev.modHart_retq (d : Dev) (h : Nat) (f : Hart → Hart) : (d.modHart h f).retq = d.retq := rfl
@[simp] theorem Dev.modHart_fwd (d : Dev) (h : Nat) (f : Hart → Hart) : (d.modHart h f).fwd = d.fwd := rfl
@[simp] theorem Dev.modHart_eps (d : Dev) (h : Nat) (f : Hart → Hart) : (d.modHart h f).eps = d.eps := rfl
@[simp] theorem Dev.modHart_fills (d : Dev) (h : Nat) (f : Hart → Hart) : (d.modHart h f).fills = d.fills := rfl
@[simp] theorem Dev.modHart_fifoS (d : Dev) (h : Nat) (f : Hart → Hart) : (d.modHart h f).fifoS = d.fifoS := rfl
@[simp] theorem Dev.modHart_fifoL (d : Dev) (h : Nat) (f : Hart → Hart) : (d.modHart h f).fifoL = d.fifoL := rfl
@[simp] theorem Dev.modHart_sweepS (d : Dev) (h : Nat) (f : Hart → Hart) : (d.modHart h f).sweepS = d.sweepS := rfl
@[simp] theorem Dev.modHart_sweepL (d : Dev) (h : Nat) (f : Hart → Hart) : (d.modHart h f).sweepL = d.sweepL := rfl
@[simp] theorem Dev.modHart_mops (d : Dev) (h : Nat) (f : Hart → Hart) : (d.modHart h f).mops = d.mops := rfl
@[simp] theorem Dev.modHart_laneH (d : Dev) (h : Nat) (f : Hart → Hart) : (d.modHart h f).laneH = d.laneH := rfl
@[simp] theorem Dev.modHart_laneR (d : Dev) (h : Nat) (f : Hart → Hart) : (d.modHart h f).laneR = d.laneR := rfl
@[simp] theorem Dev.modHart_laneRHeld (d : Dev) (h : Nat) (f : Hart → Hart) : (d.modHart h f).laneRHeld = d.laneRHeld := rfl
@[simp] theorem Dev.modHart_handed (d : Dev) (h : Nat) (f : Hart → Hart) : (d.modHart h f).handed = d.handed := rfl
@[simp] theorem Dev.modHart_cairnOpen (d : Dev) (h : Nat) (f : Hart → Hart) : (d.modHart h f).cairnOpen = d.cairnOpen := rfl
@[simp] theorem Dev.modHart_cairnSince (d : Dev) (h : Nat) (f : Hart → Hart) : (d.modHart h f).cairnSince = d.cairnSince := rfl
@[simp] theorem Dev.modHart_cairnClosed (d : Dev) (h : Nat) (f : Hart → Hart) : (d.modHart h f).cairnClosed = d.cairnClosed := rfl
@[simp] theorem Dev.modHart_hub (d : Dev) (h : Nat) (f : Hart → Hart) : (d.modHart h f).hub = d.hub := rfl
@[simp] theorem Dev.modHart_queues (d : Dev) (h : Nat) (f : Hart → Hart) : (d.modHart h f).queues = d.queues := rfl
@[simp] theorem Dev.modHart_pkts (d : Dev) (h : Nat) (f : Hart → Hart) : (d.modHart h f).pkts = d.pkts := rfl
@[simp] theorem Dev.modHart_parts (d : Dev) (h : Nat) (f : Hart → Hart) : (d.modHart h f).parts = d.parts := rfl
@[simp] theorem Dev.modHart_msix (d : Dev) (h : Nat) (f : Hart → Hart) : (d.modHart h f).msix = d.msix := rfl
@[simp] theorem Dev.modHart_saveRuns (d : Dev) (h : Nat) (f : Hart → Hart) : (d.modHart h f).saveRuns = d.saveRuns := rfl
@[simp] theorem Dev.modHart_domains (d : Dev) (h : Nat) (f : Hart → Hart) : (d.modHart h f).domains = d.domains := rfl
@[simp] theorem Dev.modHart_dir (d : Dev) (h : Nat) (f : Hart → Hart) : (d.modHart h f).dir = d.dir := rfl
@[simp] theorem Dev.modHart_txns (d : Dev) (h : Nat) (f : Hart → Hart) : (d.modHart h f).txns = d.txns := rfl
@[simp] theorem Dev.modHart_reqs (d : Dev) (h : Nat) (f : Hart → Hart) : (d.modHart h f).reqs = d.reqs := rfl
@[simp] theorem Dev.modHart_copies (d : Dev) (h : Nat) (f : Hart → Hart) : (d.modHart h f).copies = d.copies := rfl
@[simp] theorem Dev.modHart_msgs (d : Dev) (h : Nat) (f : Hart → Hart) : (d.modHart h f).msgs = d.msgs := rfl
@[simp] theorem Dev.modHart_links (d : Dev) (h : Nat) (f : Hart → Hart) : (d.modHart h f).links = d.links := rfl
@[simp] theorem Dev.modHart_heads (d : Dev) (h : Nat) (f : Hart → Hart) : (d.modHart h f).heads = d.heads := rfl
@[simp] theorem Dev.modHart_headPollAt (d : Dev) (h : Nat) (f : Hart → Hart) : (d.modHart h f).headPollAt = d.headPollAt := rfl
@[simp] theorem Dev.modHart_out (d : Dev) (h : Nat) (f : Hart → Hart) : (d.modHart h f).out = d.out := rfl
@[simp] theorem Dev.modHart_imageBytes (d : Dev) (h : Nat) (f : Hart → Hart) : (d.modHart h f).imageBytes = d.imageBytes := rfl
@[simp] theorem Dev.modHart_rcnt (d : Dev) (h : Nat) (f : Hart → Hart) : (d.modHart h f).rcnt = d.rcnt := rfl
@[simp] theorem Dev.modHart_resets (d : Dev) (h : Nat) (f : Hart → Hart) : (d.modHart h f).resets = d.resets := rfl
@[simp] theorem Dev.modHart_power (d : Dev) (h : Nat) (f : Hart → Hart) : (d.modHart h f).power = d.power := rfl
@[simp] theorem Dev.modHart_auxKept (d : Dev) (h : Nat) (f : Hart → Hart) : (d.modHart h f).auxKept = d.auxKept := rfl
@[simp] theorem Dev.modHart_pinHigh (d : Dev) (h : Nat) (f : Hart → Hart) : (d.modHart h f).pinHigh = d.pinHigh := rfl
@[simp] theorem Dev.modHart_inbox (d : Dev) (h : Nat) (f : Hart → Hart) : (d.modHart h f).inbox = d.inbox := rfl

@[simp] theorem Dev.popped_arg (d : Dev) (r : List Rope) : (d.popped r).arg = d.arg := rfl
@[simp] theorem Dev.popped_agenda (d : Dev) (r : List Rope) : (d.popped r).agenda = d.agenda := rfl
@[simp] theorem Dev.popped_inputs (d : Dev) (r : List Rope) : (d.popped r).inputs = d.inputs := rfl
@[simp] theorem Dev.popped_choices (d : Dev) (r : List Rope) : (d.popped r).choices = d.choices := rfl
@[simp] theorem Dev.popped_curHart (d : Dev) (r : List Rope) : (d.popped r).curHart = d.curHart := rfl
@[simp] theorem Dev.popped_fresh (d : Dev) (r : List Rope) : (d.popped r).fresh = d.fresh := rfl
@[simp] theorem Dev.popped_evSeq (d : Dev) (r : List Rope) : (d.popped r).evSeq = d.evSeq := rfl
@[simp] theorem Dev.popped_wb (d : Dev) (r : List Rope) : (d.popped r).wb = d.wb := rfl
@[simp] theorem Dev.popped_poison (d : Dev) (r : List Rope) : (d.popped r).poison = d.poison := rfl
@[simp] theorem Dev.popped_hostErr (d : Dev) (r : List Rope) : (d.popped r).hostErr = d.hostErr := rfl
@[simp] theorem Dev.popped_wgs (d : Dev) (r : List Rope) : (d.popped r).wgs = d.wgs := rfl
@[simp] theorem Dev.popped_launches (d : Dev) (r : List Rope) : (d.popped r).launches = d.launches := rfl
@[simp] theorem Dev.popped_passes (d : Dev) (r : List Rope) : (d.popped r).passes = d.passes := rfl
@[simp] theorem Dev.popped_ops (d : Dev) (r : List Rope) : (d.popped r).ops = d.ops := rfl
@[simp] theorem Dev.popped_cores (d : Dev) (r : List Rope) : (d.popped r).cores = d.cores := rfl
@[simp] theorem Dev.popped_l2 (d : Dev) (r : List Rope) : (d.popped r).l2 = d.l2 := rfl
@[simp] theorem Dev.popped_tags (d : Dev) (r : List Rope) : (d.popped r).tags = d.tags := rfl
@[simp] theorem Dev.popped_quotaStops (d : Dev) (r : List Rope) : (d.popped r).quotaStops = d.quotaStops := rfl
@[simp] theorem Dev.popped_retq (d : Dev) (r : List Rope) : (d.popped r).retq = d.retq := rfl
@[simp] theorem Dev.popped_fwd (d : Dev) (r : List Rope) : (d.popped r).fwd = d.fwd := rfl
@[simp] theorem Dev.popped_eps (d : Dev) (r : List Rope) : (d.popped r).eps = d.eps := rfl
@[simp] theorem Dev.popped_fills (d : Dev) (r : List Rope) : (d.popped r).fills = d.fills := rfl
@[simp] theorem Dev.popped_fifoS (d : Dev) (r : List Rope) : (d.popped r).fifoS = d.fifoS := rfl
@[simp] theorem Dev.popped_fifoL (d : Dev) (r : List Rope) : (d.popped r).fifoL = d.fifoL := rfl
@[simp] theorem Dev.popped_sweepS (d : Dev) (r : List Rope) : (d.popped r).sweepS = d.sweepS := rfl
@[simp] theorem Dev.popped_sweepL (d : Dev) (r : List Rope) : (d.popped r).sweepL = d.sweepL := rfl
@[simp] theorem Dev.popped_mops (d : Dev) (r : List Rope) : (d.popped r).mops = d.mops := rfl
@[simp] theorem Dev.popped_laneH (d : Dev) (r : List Rope) : (d.popped r).laneH = d.laneH := rfl
@[simp] theorem Dev.popped_laneR (d : Dev) (r : List Rope) : (d.popped r).laneR = d.laneR := rfl
@[simp] theorem Dev.popped_laneRHeld (d : Dev) (r : List Rope) : (d.popped r).laneRHeld = d.laneRHeld := rfl
@[simp] theorem Dev.popped_handed (d : Dev) (r : List Rope) : (d.popped r).handed = d.handed := rfl
@[simp] theorem Dev.popped_cairnOpen (d : Dev) (r : List Rope) : (d.popped r).cairnOpen = d.cairnOpen := rfl
@[simp] theorem Dev.popped_cairnSince (d : Dev) (r : List Rope) : (d.popped r).cairnSince = d.cairnSince := rfl
@[simp] theorem Dev.popped_cairnClosed (d : Dev) (r : List Rope) : (d.popped r).cairnClosed = d.cairnClosed := rfl
@[simp] theorem Dev.popped_hub (d : Dev) (r : List Rope) : (d.popped r).hub = d.hub := rfl
@[simp] theorem Dev.popped_queues (d : Dev) (r : List Rope) : (d.popped r).queues = d.queues := rfl
@[simp] theorem Dev.popped_pkts (d : Dev) (r : List Rope) : (d.popped r).pkts = d.pkts := rfl
@[simp] theorem Dev.popped_parts (d : Dev) (r : List Rope) : (d.popped r).parts = d.parts := rfl
@[simp] theorem Dev.popped_msix (d : Dev) (r : List Rope) : (d.popped r).msix = d.msix := rfl
@[simp] theorem Dev.popped_saveRuns (d : Dev) (r : List Rope) : (d.popped r).saveRuns = d.saveRuns := rfl
@[simp] theorem Dev.popped_domains (d : Dev) (r : List Rope) : (d.popped r).domains = d.domains := rfl
@[simp] theorem Dev.popped_harts (d : Dev) (r : List Rope) : (d.popped r).harts = d.harts := rfl
@[simp] theorem Dev.popped_dir (d : Dev) (r : List Rope) : (d.popped r).dir = d.dir := rfl
@[simp] theorem Dev.popped_txns (d : Dev) (r : List Rope) : (d.popped r).txns = d.txns := rfl
@[simp] theorem Dev.popped_reqs (d : Dev) (r : List Rope) : (d.popped r).reqs = d.reqs := rfl
@[simp] theorem Dev.popped_copies (d : Dev) (r : List Rope) : (d.popped r).copies = d.copies := rfl
@[simp] theorem Dev.popped_msgs (d : Dev) (r : List Rope) : (d.popped r).msgs = d.msgs := rfl
@[simp] theorem Dev.popped_links (d : Dev) (r : List Rope) : (d.popped r).links = d.links := rfl
@[simp] theorem Dev.popped_heads (d : Dev) (r : List Rope) : (d.popped r).heads = d.heads := rfl
@[simp] theorem Dev.popped_headPollAt (d : Dev) (r : List Rope) : (d.popped r).headPollAt = d.headPollAt := rfl
@[simp] theorem Dev.popped_out (d : Dev) (r : List Rope) : (d.popped r).out = d.out := rfl
@[simp] theorem Dev.popped_imageBytes (d : Dev) (r : List Rope) : (d.popped r).imageBytes = d.imageBytes := rfl
@[simp] theorem Dev.popped_rcnt (d : Dev) (r : List Rope) : (d.popped r).rcnt = d.rcnt := rfl
@[simp] theorem Dev.popped_resets (d : Dev) (r : List Rope) : (d.popped r).resets = d.resets := rfl
@[simp] theorem Dev.popped_power (d : Dev) (r : List Rope) : (d.popped r).power = d.power := rfl
@[simp] theorem Dev.popped_auxKept (d : Dev) (r : List Rope) : (d.popped r).auxKept = d.auxKept := rfl
@[simp] theorem Dev.popped_pinHigh (d : Dev) (r : List Rope) : (d.popped r).pinHigh = d.pinHigh := rfl
@[simp] theorem Dev.popped_inbox (d : Dev) (r : List Rope) : (d.popped r).inbox = d.inbox := rfl

/-! ## Work-groups -/

@[simp] theorem WG.modFib_id (g : WG) (k : Nat) (f : Fib → Fib) : (g.modFib k f).id = g.id := rfl
@[simp] theorem WG.modFib_launch (g : WG) (k : Nat) (f : Fib → Fib) : (g.modFib k f).launch = g.launch := rfl
@[simp] theorem WG.modFib_kind (g : WG) (k : Nat) (f : Fib → Fib) : (g.modFib k f).kind = g.kind := rfl
@[simp] theorem WG.modFib_place (g : WG) (k : Nat) (f : Fib → Fib) : (g.modFib k f).place = g.place := rfl
@[simp] theorem WG.modFib_core (g : WG) (k : Nat) (f : Fib → Fib) : (g.modFib k f).core = g.core := rfl
@[simp] theorem WG.modFib_slot (g : WG) (k : Nat) (f : Fib → Fib) : (g.modFib k f).slot = g.slot := rfl
@[simp] theorem WG.modFib_vbase (g : WG) (k : Nat) (f : Fib → Fib) : (g.modFib k f).vbase = g.vbase := rfl
@[simp] theorem WG.modFib_gidx (g : WG) (k : Nat) (f : Fib → Fib) : (g.modFib k f).gidx = g.gidx := rfl
@[simp] theorem WG.modFib_wid (g : WG) (k : Nat) (f : Fib → Fib) : (g.modFib k f).wid = g.wid := rfl
@[simp] theorem WG.modFib_rank (g : WG) (k : Nat) (f : Fib → Fib) : (g.modFib k f).rank = g.rank := rfl
@[simp] theorem WG.modFib_cohort (g : WG) (k : Nat) (f : Fib → Fib) : (g.modFib k f).cohort = g.cohort := rfl
@[simp] theorem WG.modFib_seq (g : WG) (k : Nat) (f : Fib → Fib) : (g.modFib k f).seq = g.seq := rfl
@[simp] theorem WG.modFib_k (g : WG) (k : Nat) (f : Fib → Fib) : (g.modFib k f).k = g.k := rfl
@[simp] theorem WG.modFib_kOld (g : WG) (k : Nat) (f : Fib → Fib) : (g.modFib k f).kOld = g.kOld := rfl
@[simp] theorem WG.modFib_kcAt (g : WG) (k : Nat) (f : Fib → Fib) : (g.modFib k f).kcAt = g.kcAt := rfl
@[simp] theorem WG.modFib_kp (g : WG) (k : Nat) (f : Fib → Fib) : (g.modFib k f).kp = g.kp := rfl
@[simp] theorem WG.modFib_kn (g : WG) (k : Nat) (f : Fib → Fib) : (g.modFib k f).kn = g.kn := rfl
@[simp] theorem WG.modFib_knAt (g : WG) (k : Nat) (f : Fib → Fib) : (g.modFib k f).knAt = g.knAt := rfl
@[simp] theorem WG.modFib_bars (g : WG) (k : Nat) (f : Fib → Fib) : (g.modFib k f).bars = g.bars := rfl
@[simp] theorem WG.modFib_gangs (g : WG) (k : Nat) (f : Fib → Fib) : (g.modFib k f).gangs = g.gangs := rfl
@[simp] theorem WG.modFib_gn (g : WG) (k : Nat) (f : Fib → Fib) : (g.modFib k f).gn = g.gn := rfl
@[simp] theorem WG.modFib_vault (g : WG) (k : Nat) (f : Fib → Fib) : (g.modFib k f).vault = g.vault := rfl
@[simp] theorem WG.modFib_empt (g : WG) (k : Nat) (f : Fib → Fib) : (g.modFib k f).empt = g.empt := rfl
@[simp] theorem WG.modFib_vbad (g : WG) (k : Nat) (f : Fib → Fib) : (g.modFib k f).vbad = g.vbad := rfl
@[simp] theorem WG.modFib_tiles (g : WG) (k : Nat) (f : Fib → Fib) : (g.modFib k f).tiles = g.tiles := rfl
@[simp] theorem WG.modFib_mops (g : WG) (k : Nat) (f : Fib → Fib) : (g.modFib k f).mops = g.mops := rfl
@[simp] theorem WG.modFib_halt (g : WG) (k : Nat) (f : Fib → Fib) : (g.modFib k f).halt = g.halt := rfl
@[simp] theorem WG.modFib_haltAt (g : WG) (k : Nat) (f : Fib → Fib) : (g.modFib k f).haltAt = g.haltAt := rfl
@[simp] theorem WG.modFib_skidMax (g : WG) (k : Nat) (f : Fib → Fib) : (g.modFib k f).skidMax = g.skidMax := rfl
@[simp] theorem WG.modFib_trap (g : WG) (k : Nat) (f : Fib → Fib) : (g.modFib k f).trap = g.trap := rfl
@[simp] theorem WG.modFib_trapFl (g : WG) (k : Nat) (f : Fib → Fib) : (g.modFib k f).trapFl = g.trapFl := rfl
@[simp] theorem WG.modFib_stopped (g : WG) (k : Nat) (f : Fib → Fib) : (g.modFib k f).stopped = g.stopped := rfl
@[simp] theorem WG.modFib_frozen (g : WG) (k : Nat) (f : Fib → Fib) : (g.modFib k f).frozen = g.frozen := rfl
@[simp] theorem WG.modFib_handling (g : WG) (k : Nat) (f : Fib → Fib) : (g.modFib k f).handling = g.handling := rfl
@[simp] theorem WG.modFib_frozenAt (g : WG) (k : Nat) (f : Fib → Fib) : (g.modFib k f).frozenAt = g.frozenAt := rfl
@[simp] theorem WG.modFib_trapPend (g : WG) (k : Nat) (f : Fib → Fib) : (g.modFib k f).trapPend = g.trapPend := rfl
@[simp] theorem WG.modFib_asyncs (g : WG) (k : Nat) (f : Fib → Fib) : (g.modFib k f).asyncs = g.asyncs := rfl
@[simp] theorem WG.modFib_asyncsLater (g : WG) (k : Nat) (f : Fib → Fib) : (g.modFib k f).asyncsLater = g.asyncsLater := rfl
@[simp] theorem WG.modFib_wantPreempt (g : WG) (k : Nat) (f : Fib → Fib) : (g.modFib k f).wantPreempt = g.wantPreempt := rfl
@[simp] theorem WG.modFib_tcause (g : WG) (k : Nat) (f : Fib → Fib) : (g.modFib k f).tcause = g.tcause := rfl
@[simp] theorem WG.modFib_tpc (g : WG) (k : Nat) (f : Fib → Fib) : (g.modFib k f).tpc = g.tpc := rfl
@[simp] theorem WG.modFib_tval (g : WG) (k : Nat) (f : Fib → Fib) : (g.modFib k f).tval = g.tval := rfl
@[simp] theorem WG.modFib_tscr (g : WG) (k : Nat) (f : Fib → Fib) : (g.modFib k f).tscr = g.tscr := rfl
@[simp] theorem WG.modFib_waddr (g : WG) (k : Nat) (f : Fib → Fib) : (g.modFib k f).waddr = g.waddr := rfl
@[simp] theorem WG.modFib_wctl (g : WG) (k : Nat) (f : Fib → Fib) : (g.modFib k f).wctl = g.wctl := rfl
@[simp] theorem WG.modFib_ctx (g : WG) (k : Nat) (f : Fib → Fib) : (g.modFib k f).ctx = g.ctx := rfl
@[simp] theorem WG.modFib_rng (g : WG) (k : Nat) (f : Fib → Fib) : (g.modFib k f).rng = g.rng := rfl
@[simp] theorem WG.modFib_issue (g : WG) (k : Nat) (f : Fib → Fib) : (g.modFib k f).issue = g.issue := rfl
@[simp] theorem WG.modFib_trapIssue (g : WG) (k : Nat) (f : Fib → Fib) : (g.modFib k f).trapIssue = g.trapIssue := rfl
@[simp] theorem WG.modFib_hdr (g : WG) (k : Nat) (f : Fib → Fib) : (g.modFib k f).hdr = g.hdr := rfl
@[simp] theorem WG.modFib_entries (g : WG) (k : Nat) (f : Fib → Fib) : (g.modFib k f).entries = g.entries := rfl
@[simp] theorem WG.modFib_markers (g : WG) (k : Nat) (f : Fib → Fib) : (g.modFib k f).markers = g.markers := rfl
@[simp] theorem WG.modFib_mesh (g : WG) (k : Nat) (f : Fib → Fib) : (g.modFib k f).mesh = g.mesh := rfl
@[simp] theorem WG.modFib_prims (g : WG) (k : Nat) (f : Fib → Fib) : (g.modFib k f).prims = g.prims := rfl
@[simp] theorem WG.modFib_mends (g : WG) (k : Nat) (f : Fib → Fib) : (g.modFib k f).mends = g.mends := rfl
@[simp] theorem WG.modFib_eng (g : WG) (k : Nat) (f : Fib → Fib) : (g.modFib k f).eng = g.eng := rfl
@[simp] theorem WG.modFib_blockedAt (g : WG) (k : Nat) (f : Fib → Fib) : (g.modFib k f).blockedAt = g.blockedAt := rfl
@[simp] theorem WG.modFib_faultAt (g : WG) (k : Nat) (f : Fib → Fib) : (g.modFib k f).faultAt = g.faultAt := rfl
@[simp] theorem WG.modFib_suspendedAt (g : WG) (k : Nat) (f : Fib → Fib) : (g.modFib k f).suspendedAt = g.suspendedAt := rfl
@[simp] theorem WG.modFib_placedAt (g : WG) (k : Nat) (f : Fib → Fib) : (g.modFib k f).placedAt = g.placedAt := rfl
@[simp] theorem WG.modFib_fetched (g : WG) (k : Nat) (f : Fib → Fib) : (g.modFib k f).fetched = g.fetched := rfl
@[simp] theorem WG.modFib_image (g : WG) (k : Nat) (f : Fib → Fib) : (g.modFib k f).image = g.image := rfl
@[simp] theorem WG.modFib_kept (g : WG) (k : Nat) (f : Fib → Fib) : (g.modFib k f).kept = g.kept := rfl
@[simp] theorem WG.modFib_urgent (g : WG) (k : Nat) (f : Fib → Fib) : (g.modFib k f).urgent = g.urgent := rfl
@[simp] theorem WG.modFib_ending (g : WG) (k : Nat) (f : Fib → Fib) : (g.modFib k f).ending = g.ending := rfl

@[simp] theorem WG.setFull_id (g : WG) (n : Nat) : (g.setFull n).id = g.id := rfl
@[simp] theorem WG.setFull_launch (g : WG) (n : Nat) : (g.setFull n).launch = g.launch := rfl
@[simp] theorem WG.setFull_kind (g : WG) (n : Nat) : (g.setFull n).kind = g.kind := rfl
@[simp] theorem WG.setFull_place (g : WG) (n : Nat) : (g.setFull n).place = g.place := rfl
@[simp] theorem WG.setFull_core (g : WG) (n : Nat) : (g.setFull n).core = g.core := rfl
@[simp] theorem WG.setFull_slot (g : WG) (n : Nat) : (g.setFull n).slot = g.slot := rfl
@[simp] theorem WG.setFull_vbase (g : WG) (n : Nat) : (g.setFull n).vbase = g.vbase := rfl
@[simp] theorem WG.setFull_gidx (g : WG) (n : Nat) : (g.setFull n).gidx = g.gidx := rfl
@[simp] theorem WG.setFull_wid (g : WG) (n : Nat) : (g.setFull n).wid = g.wid := rfl
@[simp] theorem WG.setFull_rank (g : WG) (n : Nat) : (g.setFull n).rank = g.rank := rfl
@[simp] theorem WG.setFull_cohort (g : WG) (n : Nat) : (g.setFull n).cohort = g.cohort := rfl
@[simp] theorem WG.setFull_seq (g : WG) (n : Nat) : (g.setFull n).seq = g.seq := rfl
@[simp] theorem WG.setFull_fibs (g : WG) (n : Nat) : (g.setFull n).fibs = g.fibs := rfl
@[simp] theorem WG.setFull_k (g : WG) (n : Nat) : (g.setFull n).k = g.k := rfl
@[simp] theorem WG.setFull_kOld (g : WG) (n : Nat) : (g.setFull n).kOld = g.kOld := rfl
@[simp] theorem WG.setFull_kcAt (g : WG) (n : Nat) : (g.setFull n).kcAt = g.kcAt := rfl
@[simp] theorem WG.setFull_kp (g : WG) (n : Nat) : (g.setFull n).kp = g.kp := rfl
@[simp] theorem WG.setFull_kn (g : WG) (n : Nat) : (g.setFull n).kn = g.kn := rfl
@[simp] theorem WG.setFull_knAt (g : WG) (n : Nat) : (g.setFull n).knAt = g.knAt := rfl
@[simp] theorem WG.setFull_bars (g : WG) (n : Nat) : (g.setFull n).bars = g.bars := rfl
@[simp] theorem WG.setFull_gangs (g : WG) (n : Nat) : (g.setFull n).gangs = g.gangs := rfl
@[simp] theorem WG.setFull_gn (g : WG) (n : Nat) : (g.setFull n).gn = g.gn := rfl
@[simp] theorem WG.setFull_vault (g : WG) (n : Nat) : (g.setFull n).vault = g.vault := rfl
@[simp] theorem WG.setFull_vbad (g : WG) (n : Nat) : (g.setFull n).vbad = g.vbad := rfl
@[simp] theorem WG.setFull_tiles (g : WG) (n : Nat) : (g.setFull n).tiles = g.tiles := rfl
@[simp] theorem WG.setFull_mops (g : WG) (n : Nat) : (g.setFull n).mops = g.mops := rfl
@[simp] theorem WG.setFull_halt (g : WG) (n : Nat) : (g.setFull n).halt = g.halt := rfl
@[simp] theorem WG.setFull_haltAt (g : WG) (n : Nat) : (g.setFull n).haltAt = g.haltAt := rfl
@[simp] theorem WG.setFull_skidMax (g : WG) (n : Nat) : (g.setFull n).skidMax = g.skidMax := rfl
@[simp] theorem WG.setFull_trap (g : WG) (n : Nat) : (g.setFull n).trap = g.trap := rfl
@[simp] theorem WG.setFull_trapFl (g : WG) (n : Nat) : (g.setFull n).trapFl = g.trapFl := rfl
@[simp] theorem WG.setFull_stopped (g : WG) (n : Nat) : (g.setFull n).stopped = g.stopped := rfl
@[simp] theorem WG.setFull_frozen (g : WG) (n : Nat) : (g.setFull n).frozen = g.frozen := rfl
@[simp] theorem WG.setFull_handling (g : WG) (n : Nat) : (g.setFull n).handling = g.handling := rfl
@[simp] theorem WG.setFull_frozenAt (g : WG) (n : Nat) : (g.setFull n).frozenAt = g.frozenAt := rfl
@[simp] theorem WG.setFull_trapPend (g : WG) (n : Nat) : (g.setFull n).trapPend = g.trapPend := rfl
@[simp] theorem WG.setFull_asyncs (g : WG) (n : Nat) : (g.setFull n).asyncs = g.asyncs := rfl
@[simp] theorem WG.setFull_asyncsLater (g : WG) (n : Nat) : (g.setFull n).asyncsLater = g.asyncsLater := rfl
@[simp] theorem WG.setFull_wantPreempt (g : WG) (n : Nat) : (g.setFull n).wantPreempt = g.wantPreempt := rfl
@[simp] theorem WG.setFull_tcause (g : WG) (n : Nat) : (g.setFull n).tcause = g.tcause := rfl
@[simp] theorem WG.setFull_tpc (g : WG) (n : Nat) : (g.setFull n).tpc = g.tpc := rfl
@[simp] theorem WG.setFull_tval (g : WG) (n : Nat) : (g.setFull n).tval = g.tval := rfl
@[simp] theorem WG.setFull_tscr (g : WG) (n : Nat) : (g.setFull n).tscr = g.tscr := rfl
@[simp] theorem WG.setFull_waddr (g : WG) (n : Nat) : (g.setFull n).waddr = g.waddr := rfl
@[simp] theorem WG.setFull_wctl (g : WG) (n : Nat) : (g.setFull n).wctl = g.wctl := rfl
@[simp] theorem WG.setFull_ctx (g : WG) (n : Nat) : (g.setFull n).ctx = g.ctx := rfl
@[simp] theorem WG.setFull_rng (g : WG) (n : Nat) : (g.setFull n).rng = g.rng := rfl
@[simp] theorem WG.setFull_issue (g : WG) (n : Nat) : (g.setFull n).issue = g.issue := rfl
@[simp] theorem WG.setFull_trapIssue (g : WG) (n : Nat) : (g.setFull n).trapIssue = g.trapIssue := rfl
@[simp] theorem WG.setFull_hdr (g : WG) (n : Nat) : (g.setFull n).hdr = g.hdr := rfl
@[simp] theorem WG.setFull_entries (g : WG) (n : Nat) : (g.setFull n).entries = g.entries := rfl
@[simp] theorem WG.setFull_markers (g : WG) (n : Nat) : (g.setFull n).markers = g.markers := rfl
@[simp] theorem WG.setFull_mesh (g : WG) (n : Nat) : (g.setFull n).mesh = g.mesh := rfl
@[simp] theorem WG.setFull_prims (g : WG) (n : Nat) : (g.setFull n).prims = g.prims := rfl
@[simp] theorem WG.setFull_mends (g : WG) (n : Nat) : (g.setFull n).mends = g.mends := rfl
@[simp] theorem WG.setFull_eng (g : WG) (n : Nat) : (g.setFull n).eng = g.eng := rfl
@[simp] theorem WG.setFull_blockedAt (g : WG) (n : Nat) : (g.setFull n).blockedAt = g.blockedAt := rfl
@[simp] theorem WG.setFull_faultAt (g : WG) (n : Nat) : (g.setFull n).faultAt = g.faultAt := rfl
@[simp] theorem WG.setFull_suspendedAt (g : WG) (n : Nat) : (g.setFull n).suspendedAt = g.suspendedAt := rfl
@[simp] theorem WG.setFull_placedAt (g : WG) (n : Nat) : (g.setFull n).placedAt = g.placedAt := rfl
@[simp] theorem WG.setFull_fetched (g : WG) (n : Nat) : (g.setFull n).fetched = g.fetched := rfl
@[simp] theorem WG.setFull_image (g : WG) (n : Nat) : (g.setFull n).image = g.image := rfl
@[simp] theorem WG.setFull_kept (g : WG) (n : Nat) : (g.setFull n).kept = g.kept := rfl
@[simp] theorem WG.setFull_urgent (g : WG) (n : Nat) : (g.setFull n).urgent = g.urgent := rfl
@[simp] theorem WG.setFull_ending (g : WG) (n : Nat) : (g.setFull n).ending = g.ending := rfl

@[simp] theorem WG.setEmpty_id (g : WG) (n : Nat) : (g.setEmpty n).id = g.id := rfl
@[simp] theorem WG.setEmpty_launch (g : WG) (n : Nat) : (g.setEmpty n).launch = g.launch := rfl
@[simp] theorem WG.setEmpty_kind (g : WG) (n : Nat) : (g.setEmpty n).kind = g.kind := rfl
@[simp] theorem WG.setEmpty_place (g : WG) (n : Nat) : (g.setEmpty n).place = g.place := rfl
@[simp] theorem WG.setEmpty_core (g : WG) (n : Nat) : (g.setEmpty n).core = g.core := rfl
@[simp] theorem WG.setEmpty_slot (g : WG) (n : Nat) : (g.setEmpty n).slot = g.slot := rfl
@[simp] theorem WG.setEmpty_vbase (g : WG) (n : Nat) : (g.setEmpty n).vbase = g.vbase := rfl
@[simp] theorem WG.setEmpty_gidx (g : WG) (n : Nat) : (g.setEmpty n).gidx = g.gidx := rfl
@[simp] theorem WG.setEmpty_wid (g : WG) (n : Nat) : (g.setEmpty n).wid = g.wid := rfl
@[simp] theorem WG.setEmpty_rank (g : WG) (n : Nat) : (g.setEmpty n).rank = g.rank := rfl
@[simp] theorem WG.setEmpty_cohort (g : WG) (n : Nat) : (g.setEmpty n).cohort = g.cohort := rfl
@[simp] theorem WG.setEmpty_seq (g : WG) (n : Nat) : (g.setEmpty n).seq = g.seq := rfl
@[simp] theorem WG.setEmpty_fibs (g : WG) (n : Nat) : (g.setEmpty n).fibs = g.fibs := rfl
@[simp] theorem WG.setEmpty_k (g : WG) (n : Nat) : (g.setEmpty n).k = g.k := rfl
@[simp] theorem WG.setEmpty_kOld (g : WG) (n : Nat) : (g.setEmpty n).kOld = g.kOld := rfl
@[simp] theorem WG.setEmpty_kcAt (g : WG) (n : Nat) : (g.setEmpty n).kcAt = g.kcAt := rfl
@[simp] theorem WG.setEmpty_kp (g : WG) (n : Nat) : (g.setEmpty n).kp = g.kp := rfl
@[simp] theorem WG.setEmpty_kn (g : WG) (n : Nat) : (g.setEmpty n).kn = g.kn := rfl
@[simp] theorem WG.setEmpty_knAt (g : WG) (n : Nat) : (g.setEmpty n).knAt = g.knAt := rfl
@[simp] theorem WG.setEmpty_bars (g : WG) (n : Nat) : (g.setEmpty n).bars = g.bars := rfl
@[simp] theorem WG.setEmpty_gangs (g : WG) (n : Nat) : (g.setEmpty n).gangs = g.gangs := rfl
@[simp] theorem WG.setEmpty_gn (g : WG) (n : Nat) : (g.setEmpty n).gn = g.gn := rfl
@[simp] theorem WG.setEmpty_vault (g : WG) (n : Nat) : (g.setEmpty n).vault = g.vault := rfl
@[simp] theorem WG.setEmpty_vbad (g : WG) (n : Nat) : (g.setEmpty n).vbad = g.vbad := rfl
@[simp] theorem WG.setEmpty_tiles (g : WG) (n : Nat) : (g.setEmpty n).tiles = g.tiles := rfl
@[simp] theorem WG.setEmpty_mops (g : WG) (n : Nat) : (g.setEmpty n).mops = g.mops := rfl
@[simp] theorem WG.setEmpty_halt (g : WG) (n : Nat) : (g.setEmpty n).halt = g.halt := rfl
@[simp] theorem WG.setEmpty_haltAt (g : WG) (n : Nat) : (g.setEmpty n).haltAt = g.haltAt := rfl
@[simp] theorem WG.setEmpty_skidMax (g : WG) (n : Nat) : (g.setEmpty n).skidMax = g.skidMax := rfl
@[simp] theorem WG.setEmpty_trap (g : WG) (n : Nat) : (g.setEmpty n).trap = g.trap := rfl
@[simp] theorem WG.setEmpty_trapFl (g : WG) (n : Nat) : (g.setEmpty n).trapFl = g.trapFl := rfl
@[simp] theorem WG.setEmpty_stopped (g : WG) (n : Nat) : (g.setEmpty n).stopped = g.stopped := rfl
@[simp] theorem WG.setEmpty_frozen (g : WG) (n : Nat) : (g.setEmpty n).frozen = g.frozen := rfl
@[simp] theorem WG.setEmpty_handling (g : WG) (n : Nat) : (g.setEmpty n).handling = g.handling := rfl
@[simp] theorem WG.setEmpty_frozenAt (g : WG) (n : Nat) : (g.setEmpty n).frozenAt = g.frozenAt := rfl
@[simp] theorem WG.setEmpty_trapPend (g : WG) (n : Nat) : (g.setEmpty n).trapPend = g.trapPend := rfl
@[simp] theorem WG.setEmpty_asyncs (g : WG) (n : Nat) : (g.setEmpty n).asyncs = g.asyncs := rfl
@[simp] theorem WG.setEmpty_asyncsLater (g : WG) (n : Nat) : (g.setEmpty n).asyncsLater = g.asyncsLater := rfl
@[simp] theorem WG.setEmpty_wantPreempt (g : WG) (n : Nat) : (g.setEmpty n).wantPreempt = g.wantPreempt := rfl
@[simp] theorem WG.setEmpty_tcause (g : WG) (n : Nat) : (g.setEmpty n).tcause = g.tcause := rfl
@[simp] theorem WG.setEmpty_tpc (g : WG) (n : Nat) : (g.setEmpty n).tpc = g.tpc := rfl
@[simp] theorem WG.setEmpty_tval (g : WG) (n : Nat) : (g.setEmpty n).tval = g.tval := rfl
@[simp] theorem WG.setEmpty_tscr (g : WG) (n : Nat) : (g.setEmpty n).tscr = g.tscr := rfl
@[simp] theorem WG.setEmpty_waddr (g : WG) (n : Nat) : (g.setEmpty n).waddr = g.waddr := rfl
@[simp] theorem WG.setEmpty_wctl (g : WG) (n : Nat) : (g.setEmpty n).wctl = g.wctl := rfl
@[simp] theorem WG.setEmpty_ctx (g : WG) (n : Nat) : (g.setEmpty n).ctx = g.ctx := rfl
@[simp] theorem WG.setEmpty_rng (g : WG) (n : Nat) : (g.setEmpty n).rng = g.rng := rfl
@[simp] theorem WG.setEmpty_issue (g : WG) (n : Nat) : (g.setEmpty n).issue = g.issue := rfl
@[simp] theorem WG.setEmpty_trapIssue (g : WG) (n : Nat) : (g.setEmpty n).trapIssue = g.trapIssue := rfl
@[simp] theorem WG.setEmpty_hdr (g : WG) (n : Nat) : (g.setEmpty n).hdr = g.hdr := rfl
@[simp] theorem WG.setEmpty_entries (g : WG) (n : Nat) : (g.setEmpty n).entries = g.entries := rfl
@[simp] theorem WG.setEmpty_markers (g : WG) (n : Nat) : (g.setEmpty n).markers = g.markers := rfl
@[simp] theorem WG.setEmpty_mesh (g : WG) (n : Nat) : (g.setEmpty n).mesh = g.mesh := rfl
@[simp] theorem WG.setEmpty_prims (g : WG) (n : Nat) : (g.setEmpty n).prims = g.prims := rfl
@[simp] theorem WG.setEmpty_mends (g : WG) (n : Nat) : (g.setEmpty n).mends = g.mends := rfl
@[simp] theorem WG.setEmpty_eng (g : WG) (n : Nat) : (g.setEmpty n).eng = g.eng := rfl
@[simp] theorem WG.setEmpty_blockedAt (g : WG) (n : Nat) : (g.setEmpty n).blockedAt = g.blockedAt := rfl
@[simp] theorem WG.setEmpty_faultAt (g : WG) (n : Nat) : (g.setEmpty n).faultAt = g.faultAt := rfl
@[simp] theorem WG.setEmpty_suspendedAt (g : WG) (n : Nat) : (g.setEmpty n).suspendedAt = g.suspendedAt := rfl
@[simp] theorem WG.setEmpty_placedAt (g : WG) (n : Nat) : (g.setEmpty n).placedAt = g.placedAt := rfl
@[simp] theorem WG.setEmpty_fetched (g : WG) (n : Nat) : (g.setEmpty n).fetched = g.fetched := rfl
@[simp] theorem WG.setEmpty_image (g : WG) (n : Nat) : (g.setEmpty n).image = g.image := rfl
@[simp] theorem WG.setEmpty_kept (g : WG) (n : Nat) : (g.setEmpty n).kept = g.kept := rfl
@[simp] theorem WG.setEmpty_urgent (g : WG) (n : Nat) : (g.setEmpty n).urgent = g.urgent := rfl
@[simp] theorem WG.setEmpty_ending (g : WG) (n : Nat) : (g.setEmpty n).ending = g.ending := rfl

@[simp] theorem WG.exitAll_id (g : WG) : (g.exitAll).id = g.id := rfl
@[simp] theorem WG.exitAll_launch (g : WG) : (g.exitAll).launch = g.launch := rfl
@[simp] theorem WG.exitAll_kind (g : WG) : (g.exitAll).kind = g.kind := rfl
@[simp] theorem WG.exitAll_place (g : WG) : (g.exitAll).place = g.place := rfl
@[simp] theorem WG.exitAll_core (g : WG) : (g.exitAll).core = g.core := rfl
@[simp] theorem WG.exitAll_slot (g : WG) : (g.exitAll).slot = g.slot := rfl
@[simp] theorem WG.exitAll_vbase (g : WG) : (g.exitAll).vbase = g.vbase := rfl
@[simp] theorem WG.exitAll_gidx (g : WG) : (g.exitAll).gidx = g.gidx := rfl
@[simp] theorem WG.exitAll_wid (g : WG) : (g.exitAll).wid = g.wid := rfl
@[simp] theorem WG.exitAll_rank (g : WG) : (g.exitAll).rank = g.rank := rfl
@[simp] theorem WG.exitAll_cohort (g : WG) : (g.exitAll).cohort = g.cohort := rfl
@[simp] theorem WG.exitAll_seq (g : WG) : (g.exitAll).seq = g.seq := rfl
@[simp] theorem WG.exitAll_k (g : WG) : (g.exitAll).k = g.k := rfl
@[simp] theorem WG.exitAll_kOld (g : WG) : (g.exitAll).kOld = g.kOld := rfl
@[simp] theorem WG.exitAll_kcAt (g : WG) : (g.exitAll).kcAt = g.kcAt := rfl
@[simp] theorem WG.exitAll_kp (g : WG) : (g.exitAll).kp = g.kp := rfl
@[simp] theorem WG.exitAll_kn (g : WG) : (g.exitAll).kn = g.kn := rfl
@[simp] theorem WG.exitAll_knAt (g : WG) : (g.exitAll).knAt = g.knAt := rfl
@[simp] theorem WG.exitAll_bars (g : WG) : (g.exitAll).bars = g.bars := rfl
@[simp] theorem WG.exitAll_gangs (g : WG) : (g.exitAll).gangs = g.gangs := rfl
@[simp] theorem WG.exitAll_gn (g : WG) : (g.exitAll).gn = g.gn := rfl
@[simp] theorem WG.exitAll_vault (g : WG) : (g.exitAll).vault = g.vault := rfl
@[simp] theorem WG.exitAll_empt (g : WG) : (g.exitAll).empt = g.empt := rfl
@[simp] theorem WG.exitAll_vbad (g : WG) : (g.exitAll).vbad = g.vbad := rfl
@[simp] theorem WG.exitAll_tiles (g : WG) : (g.exitAll).tiles = g.tiles := rfl
@[simp] theorem WG.exitAll_mops (g : WG) : (g.exitAll).mops = g.mops := rfl
@[simp] theorem WG.exitAll_halt (g : WG) : (g.exitAll).halt = g.halt := rfl
@[simp] theorem WG.exitAll_haltAt (g : WG) : (g.exitAll).haltAt = g.haltAt := rfl
@[simp] theorem WG.exitAll_skidMax (g : WG) : (g.exitAll).skidMax = g.skidMax := rfl
@[simp] theorem WG.exitAll_trap (g : WG) : (g.exitAll).trap = g.trap := rfl
@[simp] theorem WG.exitAll_trapFl (g : WG) : (g.exitAll).trapFl = g.trapFl := rfl
@[simp] theorem WG.exitAll_stopped (g : WG) : (g.exitAll).stopped = g.stopped := rfl
@[simp] theorem WG.exitAll_frozen (g : WG) : (g.exitAll).frozen = g.frozen := rfl
@[simp] theorem WG.exitAll_handling (g : WG) : (g.exitAll).handling = g.handling := rfl
@[simp] theorem WG.exitAll_frozenAt (g : WG) : (g.exitAll).frozenAt = g.frozenAt := rfl
@[simp] theorem WG.exitAll_trapPend (g : WG) : (g.exitAll).trapPend = g.trapPend := rfl
@[simp] theorem WG.exitAll_asyncs (g : WG) : (g.exitAll).asyncs = g.asyncs := rfl
@[simp] theorem WG.exitAll_asyncsLater (g : WG) : (g.exitAll).asyncsLater = g.asyncsLater := rfl
@[simp] theorem WG.exitAll_wantPreempt (g : WG) : (g.exitAll).wantPreempt = g.wantPreempt := rfl
@[simp] theorem WG.exitAll_tcause (g : WG) : (g.exitAll).tcause = g.tcause := rfl
@[simp] theorem WG.exitAll_tpc (g : WG) : (g.exitAll).tpc = g.tpc := rfl
@[simp] theorem WG.exitAll_tval (g : WG) : (g.exitAll).tval = g.tval := rfl
@[simp] theorem WG.exitAll_tscr (g : WG) : (g.exitAll).tscr = g.tscr := rfl
@[simp] theorem WG.exitAll_waddr (g : WG) : (g.exitAll).waddr = g.waddr := rfl
@[simp] theorem WG.exitAll_wctl (g : WG) : (g.exitAll).wctl = g.wctl := rfl
@[simp] theorem WG.exitAll_ctx (g : WG) : (g.exitAll).ctx = g.ctx := rfl
@[simp] theorem WG.exitAll_rng (g : WG) : (g.exitAll).rng = g.rng := rfl
@[simp] theorem WG.exitAll_issue (g : WG) : (g.exitAll).issue = g.issue := rfl
@[simp] theorem WG.exitAll_trapIssue (g : WG) : (g.exitAll).trapIssue = g.trapIssue := rfl
@[simp] theorem WG.exitAll_hdr (g : WG) : (g.exitAll).hdr = g.hdr := rfl
@[simp] theorem WG.exitAll_entries (g : WG) : (g.exitAll).entries = g.entries := rfl
@[simp] theorem WG.exitAll_markers (g : WG) : (g.exitAll).markers = g.markers := rfl
@[simp] theorem WG.exitAll_mesh (g : WG) : (g.exitAll).mesh = g.mesh := rfl
@[simp] theorem WG.exitAll_prims (g : WG) : (g.exitAll).prims = g.prims := rfl
@[simp] theorem WG.exitAll_mends (g : WG) : (g.exitAll).mends = g.mends := rfl
@[simp] theorem WG.exitAll_eng (g : WG) : (g.exitAll).eng = g.eng := rfl
@[simp] theorem WG.exitAll_blockedAt (g : WG) : (g.exitAll).blockedAt = g.blockedAt := rfl
@[simp] theorem WG.exitAll_faultAt (g : WG) : (g.exitAll).faultAt = g.faultAt := rfl
@[simp] theorem WG.exitAll_suspendedAt (g : WG) : (g.exitAll).suspendedAt = g.suspendedAt := rfl
@[simp] theorem WG.exitAll_placedAt (g : WG) : (g.exitAll).placedAt = g.placedAt := rfl
@[simp] theorem WG.exitAll_fetched (g : WG) : (g.exitAll).fetched = g.fetched := rfl
@[simp] theorem WG.exitAll_image (g : WG) : (g.exitAll).image = g.image := rfl
@[simp] theorem WG.exitAll_kept (g : WG) : (g.exitAll).kept = g.kept := rfl
@[simp] theorem WG.exitAll_urgent (g : WG) : (g.exitAll).urgent = g.urgent := rfl
@[simp] theorem WG.exitAll_ending (g : WG) : (g.exitAll).ending = g.ending := rfl

/-! ## Fibres -/

@[simp] theorem Fib.setWords_live (f : Fib) (r : Nat) (ws : List Word) : (f.setWords r ws).live = f.live := rfl
@[simp] theorem Fib.setWords_started (f : Fib) (r : Nat) (ws : List Word) : (f.setWords r ws).started = f.started := rfl
@[simp] theorem Fib.setWords_pc (f : Fib) (r : Nat) (ws : List Word) : (f.setWords r ws).pc = f.pc := rfl
@[simp] theorem Fib.setWords_preds (f : Fib) (r : Nat) (ws : List Word) : (f.setWords r ws).preds = f.preds := rfl
@[simp] theorem Fib.setWords_pend (f : Fib) (r : Nat) (ws : List Word) : (f.setWords r ws).pend = f.pend := rfl
@[simp] theorem Fib.setWords_priv (f : Fib) (r : Nat) (ws : List Word) : (f.setWords r ws).priv = f.priv := rfl
@[simp] theorem Fib.setWords_hnd (f : Fib) (r : Nat) (ws : List Word) : (f.setWords r ws).hnd = f.hnd := rfl
@[simp] theorem Fib.setWords_privBefore (f : Fib) (r : Nat) (ws : List Word) : (f.setWords r ws).privBefore = f.privBefore := rfl
@[simp] theorem Fib.setWords_critn (f : Fib) (r : Nat) (ws : List Word) : (f.setWords r ws).critn = f.critn := rfl
@[simp] theorem Fib.setWords_critAt (f : Fib) (r : Nat) (ws : List Word) : (f.setWords r ws).critAt = f.critAt := rfl
@[simp] theorem Fib.setWords_cnt (f : Fib) (r : Nat) (ws : List Word) : (f.setWords r ws).cnt = f.cnt := rfl
@[simp] theorem Fib.setWords_fpflags (f : Fib) (r : Nat) (ws : List Word) : (f.setWords r ws).fpflags = f.fpflags := rfl
@[simp] theorem Fib.setWords_lane (f : Fib) (r : Nat) (ws : List Word) : (f.setWords r ws).lane = f.lane := rfl
@[simp] theorem Fib.setWords_pos (f : Fib) (r : Nat) (ws : List Word) : (f.setWords r ws).pos = f.pos := rfl
@[simp] theorem Fib.setWords_fslot (f : Fib) (r : Nat) (ws : List Word) : (f.setWords r ws).fslot = f.fslot := rfl
@[simp] theorem Fib.setWords_wait (f : Fib) (r : Nat) (ws : List Word) : (f.setWords r ws).wait = f.wait := rfl
@[simp] theorem Fib.setWords_cand (f : Fib) (r : Nat) (ws : List Word) : (f.setWords r ws).cand = f.cand := rfl
@[simp] theorem Fib.setWords_age (f : Fib) (r : Nat) (ws : List Word) : (f.setWords r ws).age = f.age := rfl
@[simp] theorem Fib.setWords_order (f : Fib) (r : Nat) (ws : List Word) : (f.setWords r ws).order = f.order := rfl
@[simp] theorem Fib.setWords_readyAt (f : Fib) (r : Nat) (ws : List Word) : (f.setWords r ws).readyAt = f.readyAt := rfl
@[simp] theorem Fib.setWords_skid (f : Fib) (r : Nat) (ws : List Word) : (f.setWords r ws).skid = f.skid := rfl
@[simp] theorem Fib.setWords_tagGrp (f : Fib) (r : Nat) (ws : List Word) : (f.setWords r ws).tagGrp = f.tagGrp := rfl
@[simp] theorem Fib.setWords_stuck (f : Fib) (r : Nat) (ws : List Word) : (f.setWords r ws).stuck = f.stuck := rfl
@[simp] theorem Fib.setWords_unborn (f : Fib) (r : Nat) (ws : List Word) : (f.setWords r ws).unborn = f.unborn := rfl
@[simp] theorem Fib.setWords_pcause (f : Fib) (r : Nat) (ws : List Word) : (f.setWords r ws).pcause = f.pcause := rfl
@[simp] theorem Fib.setWords_pixel (f : Fib) (r : Nat) (ws : List Word) : (f.setWords r ws).pixel = f.pixel := rfl
@[simp] theorem Fib.setWords_trav (f : Fib) (r : Nat) (ws : List Word) : (f.setWords r ws).trav = f.trav := rfl

@[simp] theorem Fib.fill_live (f : Fib) (r n : Nat) : (f.fill r n).live = f.live := rfl
@[simp] theorem Fib.fill_started (f : Fib) (r n : Nat) : (f.fill r n).started = f.started := rfl
@[simp] theorem Fib.fill_pc (f : Fib) (r n : Nat) : (f.fill r n).pc = f.pc := rfl
@[simp] theorem Fib.fill_preds (f : Fib) (r n : Nat) : (f.fill r n).preds = f.preds := rfl
@[simp] theorem Fib.fill_pend (f : Fib) (r n : Nat) : (f.fill r n).pend = f.pend := rfl
@[simp] theorem Fib.fill_win (f : Fib) (r n : Nat) : (f.fill r n).win = f.win := rfl
@[simp] theorem Fib.fill_priv (f : Fib) (r n : Nat) : (f.fill r n).priv = f.priv := rfl
@[simp] theorem Fib.fill_hnd (f : Fib) (r n : Nat) : (f.fill r n).hnd = f.hnd := rfl
@[simp] theorem Fib.fill_privBefore (f : Fib) (r n : Nat) : (f.fill r n).privBefore = f.privBefore := rfl
@[simp] theorem Fib.fill_critn (f : Fib) (r n : Nat) : (f.fill r n).critn = f.critn := rfl
@[simp] theorem Fib.fill_critAt (f : Fib) (r n : Nat) : (f.fill r n).critAt = f.critAt := rfl
@[simp] theorem Fib.fill_cnt (f : Fib) (r n : Nat) : (f.fill r n).cnt = f.cnt := rfl
@[simp] theorem Fib.fill_fpflags (f : Fib) (r n : Nat) : (f.fill r n).fpflags = f.fpflags := rfl
@[simp] theorem Fib.fill_lane (f : Fib) (r n : Nat) : (f.fill r n).lane = f.lane := rfl
@[simp] theorem Fib.fill_pos (f : Fib) (r n : Nat) : (f.fill r n).pos = f.pos := rfl
@[simp] theorem Fib.fill_fslot (f : Fib) (r n : Nat) : (f.fill r n).fslot = f.fslot := rfl
@[simp] theorem Fib.fill_wait (f : Fib) (r n : Nat) : (f.fill r n).wait = f.wait := rfl
@[simp] theorem Fib.fill_cand (f : Fib) (r n : Nat) : (f.fill r n).cand = f.cand := rfl
@[simp] theorem Fib.fill_age (f : Fib) (r n : Nat) : (f.fill r n).age = f.age := rfl
@[simp] theorem Fib.fill_order (f : Fib) (r n : Nat) : (f.fill r n).order = f.order := rfl
@[simp] theorem Fib.fill_readyAt (f : Fib) (r n : Nat) : (f.fill r n).readyAt = f.readyAt := rfl
@[simp] theorem Fib.fill_skid (f : Fib) (r n : Nat) : (f.fill r n).skid = f.skid := rfl
@[simp] theorem Fib.fill_tagGrp (f : Fib) (r n : Nat) : (f.fill r n).tagGrp = f.tagGrp := rfl
@[simp] theorem Fib.fill_stuck (f : Fib) (r n : Nat) : (f.fill r n).stuck = f.stuck := rfl
@[simp] theorem Fib.fill_unborn (f : Fib) (r n : Nat) : (f.fill r n).unborn = f.unborn := rfl
@[simp] theorem Fib.fill_pcause (f : Fib) (r n : Nat) : (f.fill r n).pcause = f.pcause := rfl
@[simp] theorem Fib.fill_pixel (f : Fib) (r n : Nat) : (f.fill r n).pixel = f.pixel := rfl
@[simp] theorem Fib.fill_trav (f : Fib) (r n : Nat) : (f.fill r n).trav = f.trav := rfl

@[simp] theorem Fib.orFlags_live (f : Fib) (fl : Fl) : (f.orFlags fl).live = f.live := rfl
@[simp] theorem Fib.orFlags_started (f : Fib) (fl : Fl) : (f.orFlags fl).started = f.started := rfl
@[simp] theorem Fib.orFlags_pc (f : Fib) (fl : Fl) : (f.orFlags fl).pc = f.pc := rfl
@[simp] theorem Fib.orFlags_preds (f : Fib) (fl : Fl) : (f.orFlags fl).preds = f.preds := rfl
@[simp] theorem Fib.orFlags_pend (f : Fib) (fl : Fl) : (f.orFlags fl).pend = f.pend := rfl
@[simp] theorem Fib.orFlags_win (f : Fib) (fl : Fl) : (f.orFlags fl).win = f.win := rfl
@[simp] theorem Fib.orFlags_emp (f : Fib) (fl : Fl) : (f.orFlags fl).emp = f.emp := rfl
@[simp] theorem Fib.orFlags_priv (f : Fib) (fl : Fl) : (f.orFlags fl).priv = f.priv := rfl
@[simp] theorem Fib.orFlags_hnd (f : Fib) (fl : Fl) : (f.orFlags fl).hnd = f.hnd := rfl
@[simp] theorem Fib.orFlags_privBefore (f : Fib) (fl : Fl) : (f.orFlags fl).privBefore = f.privBefore := rfl
@[simp] theorem Fib.orFlags_critn (f : Fib) (fl : Fl) : (f.orFlags fl).critn = f.critn := rfl
@[simp] theorem Fib.orFlags_critAt (f : Fib) (fl : Fl) : (f.orFlags fl).critAt = f.critAt := rfl
@[simp] theorem Fib.orFlags_cnt (f : Fib) (fl : Fl) : (f.orFlags fl).cnt = f.cnt := rfl
@[simp] theorem Fib.orFlags_lane (f : Fib) (fl : Fl) : (f.orFlags fl).lane = f.lane := rfl
@[simp] theorem Fib.orFlags_pos (f : Fib) (fl : Fl) : (f.orFlags fl).pos = f.pos := rfl
@[simp] theorem Fib.orFlags_fslot (f : Fib) (fl : Fl) : (f.orFlags fl).fslot = f.fslot := rfl
@[simp] theorem Fib.orFlags_wait (f : Fib) (fl : Fl) : (f.orFlags fl).wait = f.wait := rfl
@[simp] theorem Fib.orFlags_cand (f : Fib) (fl : Fl) : (f.orFlags fl).cand = f.cand := rfl
@[simp] theorem Fib.orFlags_age (f : Fib) (fl : Fl) : (f.orFlags fl).age = f.age := rfl
@[simp] theorem Fib.orFlags_order (f : Fib) (fl : Fl) : (f.orFlags fl).order = f.order := rfl
@[simp] theorem Fib.orFlags_readyAt (f : Fib) (fl : Fl) : (f.orFlags fl).readyAt = f.readyAt := rfl
@[simp] theorem Fib.orFlags_skid (f : Fib) (fl : Fl) : (f.orFlags fl).skid = f.skid := rfl
@[simp] theorem Fib.orFlags_tagGrp (f : Fib) (fl : Fl) : (f.orFlags fl).tagGrp = f.tagGrp := rfl
@[simp] theorem Fib.orFlags_stuck (f : Fib) (fl : Fl) : (f.orFlags fl).stuck = f.stuck := rfl
@[simp] theorem Fib.orFlags_unborn (f : Fib) (fl : Fl) : (f.orFlags fl).unborn = f.unborn := rfl
@[simp] theorem Fib.orFlags_pcause (f : Fib) (fl : Fl) : (f.orFlags fl).pcause = f.pcause := rfl
@[simp] theorem Fib.orFlags_pixel (f : Fib) (fl : Fl) : (f.orFlags fl).pixel = f.pixel := rfl
@[simp] theorem Fib.orFlags_trav (f : Fib) (fl : Fl) : (f.orFlags fl).trav = f.trav := rfl

@[simp] theorem Fib.advance_live (f : Fib) (n len : Nat) : (f.advance n len).live = f.live := rfl
@[simp] theorem Fib.advance_started (f : Fib) (n len : Nat) : (f.advance n len).started = f.started := rfl
@[simp] theorem Fib.advance_preds (f : Fib) (n len : Nat) : (f.advance n len).preds = f.preds := rfl
@[simp] theorem Fib.advance_pend (f : Fib) (n len : Nat) : (f.advance n len).pend = f.pend := rfl
@[simp] theorem Fib.advance_win (f : Fib) (n len : Nat) : (f.advance n len).win = f.win := rfl
@[simp] theorem Fib.advance_emp (f : Fib) (n len : Nat) : (f.advance n len).emp = f.emp := rfl
@[simp] theorem Fib.advance_priv (f : Fib) (n len : Nat) : (f.advance n len).priv = f.priv := rfl
@[simp] theorem Fib.advance_hnd (f : Fib) (n len : Nat) : (f.advance n len).hnd = f.hnd := rfl
@[simp] theorem Fib.advance_privBefore (f : Fib) (n len : Nat) : (f.advance n len).privBefore = f.privBefore := rfl
@[simp] theorem Fib.advance_critn (f : Fib) (n len : Nat) : (f.advance n len).critn = f.critn := rfl
@[simp] theorem Fib.advance_critAt (f : Fib) (n len : Nat) : (f.advance n len).critAt = f.critAt := rfl
@[simp] theorem Fib.advance_cnt (f : Fib) (n len : Nat) : (f.advance n len).cnt = f.cnt := rfl
@[simp] theorem Fib.advance_fpflags (f : Fib) (n len : Nat) : (f.advance n len).fpflags = f.fpflags := rfl
@[simp] theorem Fib.advance_lane (f : Fib) (n len : Nat) : (f.advance n len).lane = f.lane := rfl
@[simp] theorem Fib.advance_pos (f : Fib) (n len : Nat) : (f.advance n len).pos = f.pos := rfl
@[simp] theorem Fib.advance_fslot (f : Fib) (n len : Nat) : (f.advance n len).fslot = f.fslot := rfl
@[simp] theorem Fib.advance_cand (f : Fib) (n len : Nat) : (f.advance n len).cand = f.cand := rfl
@[simp] theorem Fib.advance_age (f : Fib) (n len : Nat) : (f.advance n len).age = f.age := rfl
@[simp] theorem Fib.advance_order (f : Fib) (n len : Nat) : (f.advance n len).order = f.order := rfl
@[simp] theorem Fib.advance_skid (f : Fib) (n len : Nat) : (f.advance n len).skid = f.skid := rfl
@[simp] theorem Fib.advance_stuck (f : Fib) (n len : Nat) : (f.advance n len).stuck = f.stuck := rfl
@[simp] theorem Fib.advance_unborn (f : Fib) (n len : Nat) : (f.advance n len).unborn = f.unborn := rfl
@[simp] theorem Fib.advance_pcause (f : Fib) (n len : Nat) : (f.advance n len).pcause = f.pcause := rfl
@[simp] theorem Fib.advance_pixel (f : Fib) (n len : Nat) : (f.advance n len).pixel = f.pixel := rfl
@[simp] theorem Fib.advance_trav (f : Fib) (n len : Nat) : (f.advance n len).trav = f.trav := rfl

@[simp] theorem Fib.jump_live (f : Fib) (n : Nat) (t : DWord) : (f.jump n t).live = f.live := rfl
@[simp] theorem Fib.jump_started (f : Fib) (n : Nat) (t : DWord) : (f.jump n t).started = f.started := rfl
@[simp] theorem Fib.jump_preds (f : Fib) (n : Nat) (t : DWord) : (f.jump n t).preds = f.preds := rfl
@[simp] theorem Fib.jump_pend (f : Fib) (n : Nat) (t : DWord) : (f.jump n t).pend = f.pend := rfl
@[simp] theorem Fib.jump_win (f : Fib) (n : Nat) (t : DWord) : (f.jump n t).win = f.win := rfl
@[simp] theorem Fib.jump_emp (f : Fib) (n : Nat) (t : DWord) : (f.jump n t).emp = f.emp := rfl
@[simp] theorem Fib.jump_priv (f : Fib) (n : Nat) (t : DWord) : (f.jump n t).priv = f.priv := rfl
@[simp] theorem Fib.jump_hnd (f : Fib) (n : Nat) (t : DWord) : (f.jump n t).hnd = f.hnd := rfl
@[simp] theorem Fib.jump_privBefore (f : Fib) (n : Nat) (t : DWord) : (f.jump n t).privBefore = f.privBefore := rfl
@[simp] theorem Fib.jump_critn (f : Fib) (n : Nat) (t : DWord) : (f.jump n t).critn = f.critn := rfl
@[simp] theorem Fib.jump_critAt (f : Fib) (n : Nat) (t : DWord) : (f.jump n t).critAt = f.critAt := rfl
@[simp] theorem Fib.jump_cnt (f : Fib) (n : Nat) (t : DWord) : (f.jump n t).cnt = f.cnt := rfl
@[simp] theorem Fib.jump_fpflags (f : Fib) (n : Nat) (t : DWord) : (f.jump n t).fpflags = f.fpflags := rfl
@[simp] theorem Fib.jump_lane (f : Fib) (n : Nat) (t : DWord) : (f.jump n t).lane = f.lane := rfl
@[simp] theorem Fib.jump_pos (f : Fib) (n : Nat) (t : DWord) : (f.jump n t).pos = f.pos := rfl
@[simp] theorem Fib.jump_fslot (f : Fib) (n : Nat) (t : DWord) : (f.jump n t).fslot = f.fslot := rfl
@[simp] theorem Fib.jump_cand (f : Fib) (n : Nat) (t : DWord) : (f.jump n t).cand = f.cand := rfl
@[simp] theorem Fib.jump_age (f : Fib) (n : Nat) (t : DWord) : (f.jump n t).age = f.age := rfl
@[simp] theorem Fib.jump_order (f : Fib) (n : Nat) (t : DWord) : (f.jump n t).order = f.order := rfl
@[simp] theorem Fib.jump_skid (f : Fib) (n : Nat) (t : DWord) : (f.jump n t).skid = f.skid := rfl
@[simp] theorem Fib.jump_tagGrp (f : Fib) (n : Nat) (t : DWord) : (f.jump n t).tagGrp = f.tagGrp := rfl
@[simp] theorem Fib.jump_stuck (f : Fib) (n : Nat) (t : DWord) : (f.jump n t).stuck = f.stuck := rfl
@[simp] theorem Fib.jump_unborn (f : Fib) (n : Nat) (t : DWord) : (f.jump n t).unborn = f.unborn := rfl
@[simp] theorem Fib.jump_pcause (f : Fib) (n : Nat) (t : DWord) : (f.jump n t).pcause = f.pcause := rfl
@[simp] theorem Fib.jump_pixel (f : Fib) (n : Nat) (t : DWord) : (f.jump n t).pixel = f.pixel := rfl
@[simp] theorem Fib.jump_trav (f : Fib) (n : Nat) (t : DWord) : (f.jump n t).trav = f.trav := rfl

@[simp] theorem Fib.issued_live (f : Fib) (b : Bool) : (f.issued b).live = f.live := rfl
@[simp] theorem Fib.issued_pc (f : Fib) (b : Bool) : (f.issued b).pc = f.pc := rfl
@[simp] theorem Fib.issued_preds (f : Fib) (b : Bool) : (f.issued b).preds = f.preds := rfl
@[simp] theorem Fib.issued_pend (f : Fib) (b : Bool) : (f.issued b).pend = f.pend := rfl
@[simp] theorem Fib.issued_win (f : Fib) (b : Bool) : (f.issued b).win = f.win := rfl
@[simp] theorem Fib.issued_emp (f : Fib) (b : Bool) : (f.issued b).emp = f.emp := rfl
@[simp] theorem Fib.issued_priv (f : Fib) (b : Bool) : (f.issued b).priv = f.priv := rfl
@[simp] theorem Fib.issued_hnd (f : Fib) (b : Bool) : (f.issued b).hnd = f.hnd := rfl
@[simp] theorem Fib.issued_privBefore (f : Fib) (b : Bool) : (f.issued b).privBefore = f.privBefore := rfl
@[simp] theorem Fib.issued_critAt (f : Fib) (b : Bool) : (f.issued b).critAt = f.critAt := rfl
@[simp] theorem Fib.issued_cnt (f : Fib) (b : Bool) : (f.issued b).cnt = f.cnt := rfl
@[simp] theorem Fib.issued_fpflags (f : Fib) (b : Bool) : (f.issued b).fpflags = f.fpflags := rfl
@[simp] theorem Fib.issued_lane (f : Fib) (b : Bool) : (f.issued b).lane = f.lane := rfl
@[simp] theorem Fib.issued_pos (f : Fib) (b : Bool) : (f.issued b).pos = f.pos := rfl
@[simp] theorem Fib.issued_fslot (f : Fib) (b : Bool) : (f.issued b).fslot = f.fslot := rfl
@[simp] theorem Fib.issued_wait (f : Fib) (b : Bool) : (f.issued b).wait = f.wait := rfl
@[simp] theorem Fib.issued_age (f : Fib) (b : Bool) : (f.issued b).age = f.age := rfl
@[simp] theorem Fib.issued_order (f : Fib) (b : Bool) : (f.issued b).order = f.order := rfl
@[simp] theorem Fib.issued_readyAt (f : Fib) (b : Bool) : (f.issued b).readyAt = f.readyAt := rfl
@[simp] theorem Fib.issued_tagGrp (f : Fib) (b : Bool) : (f.issued b).tagGrp = f.tagGrp := rfl
@[simp] theorem Fib.issued_stuck (f : Fib) (b : Bool) : (f.issued b).stuck = f.stuck := rfl
@[simp] theorem Fib.issued_unborn (f : Fib) (b : Bool) : (f.issued b).unborn = f.unborn := rfl
@[simp] theorem Fib.issued_pcause (f : Fib) (b : Bool) : (f.issued b).pcause = f.pcause := rfl
@[simp] theorem Fib.issued_pixel (f : Fib) (b : Bool) : (f.issued b).pixel = f.pixel := rfl
@[simp] theorem Fib.issued_trav (f : Fib) (b : Bool) : (f.issued b).trav = f.trav := rfl

@[simp] theorem Fib.unissue_live (f f0 : Fib) : (f.unissue f0).live = f.live := rfl
@[simp] theorem Fib.unissue_started (f f0 : Fib) : (f.unissue f0).started = f.started := rfl
@[simp] theorem Fib.unissue_pc (f f0 : Fib) : (f.unissue f0).pc = f.pc := rfl
@[simp] theorem Fib.unissue_preds (f f0 : Fib) : (f.unissue f0).preds = f.preds := rfl
@[simp] theorem Fib.unissue_pend (f f0 : Fib) : (f.unissue f0).pend = f.pend := rfl
@[simp] theorem Fib.unissue_win (f f0 : Fib) : (f.unissue f0).win = f.win := rfl
@[simp] theorem Fib.unissue_emp (f f0 : Fib) : (f.unissue f0).emp = f.emp := rfl
@[simp] theorem Fib.unissue_priv (f f0 : Fib) : (f.unissue f0).priv = f.priv := rfl
@[simp] theorem Fib.unissue_hnd (f f0 : Fib) : (f.unissue f0).hnd = f.hnd := rfl
@[simp] theorem Fib.unissue_privBefore (f f0 : Fib) : (f.unissue f0).privBefore = f.privBefore := rfl
@[simp] theorem Fib.unissue_critAt (f f0 : Fib) : (f.unissue f0).critAt = f.critAt := rfl
@[simp] theorem Fib.unissue_cnt (f f0 : Fib) : (f.unissue f0).cnt = f.cnt := rfl
@[simp] theorem Fib.unissue_fpflags (f f0 : Fib) : (f.unissue f0).fpflags = f.fpflags := rfl
@[simp] theorem Fib.unissue_lane (f f0 : Fib) : (f.unissue f0).lane = f.lane := rfl
@[simp] theorem Fib.unissue_pos (f f0 : Fib) : (f.unissue f0).pos = f.pos := rfl
@[simp] theorem Fib.unissue_fslot (f f0 : Fib) : (f.unissue f0).fslot = f.fslot := rfl
@[simp] theorem Fib.unissue_wait (f f0 : Fib) : (f.unissue f0).wait = f.wait := rfl
@[simp] theorem Fib.unissue_cand (f f0 : Fib) : (f.unissue f0).cand = f.cand := rfl
@[simp] theorem Fib.unissue_age (f f0 : Fib) : (f.unissue f0).age = f.age := rfl
@[simp] theorem Fib.unissue_order (f f0 : Fib) : (f.unissue f0).order = f.order := rfl
@[simp] theorem Fib.unissue_readyAt (f f0 : Fib) : (f.unissue f0).readyAt = f.readyAt := rfl
@[simp] theorem Fib.unissue_tagGrp (f f0 : Fib) : (f.unissue f0).tagGrp = f.tagGrp := rfl
@[simp] theorem Fib.unissue_stuck (f f0 : Fib) : (f.unissue f0).stuck = f.stuck := rfl
@[simp] theorem Fib.unissue_unborn (f f0 : Fib) : (f.unissue f0).unborn = f.unborn := rfl
@[simp] theorem Fib.unissue_pcause (f f0 : Fib) : (f.unissue f0).pcause = f.pcause := rfl
@[simp] theorem Fib.unissue_pixel (f f0 : Fib) : (f.unissue f0).pixel = f.pixel := rfl
@[simp] theorem Fib.unissue_trav (f f0 : Fib) : (f.unissue f0).trav = f.trav := rfl

/-! ## States -/

@[simp] theorem State.put_clock (s : State) (d : Dev) : (s.put d).clock = s.clock := rfl
@[simp] theorem State.put_mem (s : State) (d : Dev) : (s.put d).mem = Memory.writes d.wb.reverse s.mem := rfl
@[simp] theorem State.put_wb (s : State) (d : Dev) : (s.put d).d.wb = [] := rfl
@[simp] theorem State.withFib_clock (s : State) (r : List Rope) (w k : Nat) (f : Fib) : (s.withFib r w k f).clock = s.clock := rfl
@[simp] theorem State.withFib_mem (s : State) (r : List Rope) (w k : Nat) (f : Fib) : (s.withFib r w k f).mem = s.mem := rfl

/-- A step of the device keeps what holds between steps. -/
theorem State.put_ok {s : State} (h : s.mem.wf = true) (d : Dev) : (s.put d).Ok := ⟨writes_wf _ h, rfl⟩

end Sys2Proof.Machine
end

