-- ==== Sys2Proof/Tests/Slice0.lean ====
section
/-! SUPPORT. Tests: ill-formed terms that WellFormed refuses, words written out from the encoding tables, single steps on small
states with results from the spec's tables or worked by hand, and for each statement states that meet its hypotheses. -/
namespace Sys2Proof.Tests

open Sys2Proof Sys2Proof.Machine Sys2Proof.Said

-- one theorem after another: each waits for the kernel
set_option Elab.async false

/-! ## Well-formedness -/

/-- An extended instruction with every field zero. -/
def x0 : X := { twin 0#2 false with form := .ext }

theorem test_wf_accepts : [Instr.iaddExtended x0, .nopExtended x0, .stExtended { x0 with d := 1, c := 1 }, .movkExtended { x0 with bk := true, b := 63 },
    .plop3 { x0 with a := 31, dx := 31 }, .iadd 0 false 1 2 3].all (·.wf) = true := by decide
theorem test_wf_unused_d : (Instr.nopExtended { x0 with d := 1 }).wf = false := by decide
theorem test_wf_k_index_d : (Instr.wkExtended { x0 with d := 64 }).wf = false := by decide
theorem test_wf_gang_register : (Instr.gang { x0 with d := 4 }).wf = false := by decide
theorem test_wf_d_equals_c : (Instr.stExtended { x0 with d := 1 }).wf = false := by decide
theorem test_wf_predicate_dx : (Instr.icmp { x0 with dx := 32 }).wf = false := by decide
theorem test_wf_unused_dx : (Instr.iaddExtended { x0 with dx := 1 }).wf = false := by decide
theorem test_wf_window_a : (Instr.ldExtended { x0 with ak := true }).wf = false := by decide
theorem test_wf_k_a : (Instr.iaddExtended { x0 with ak := true, a := 64 }).wf = false := by decide
theorem test_wf_predicate_a : (Instr.pmov { x0 with a := 32 }).wf = false ∧ (Instr.pmov { x0 with fa := true }).wf = false := by decide
theorem test_wf_unused_a : (Instr.moviExtended { x0 with bi := true, a := 1 }).wf = false := by decide
theorem test_wf_window_b : (Instr.spawn { x0 with bi := true }).wf = false ∧ (Instr.spawn { x0 with bk := true }).wf = false := by decide
theorem test_wf_full_b : (Instr.iaddExtended { x0 with bi := true, bk := true }).wf = false ∧ (Instr.iaddExtended { x0 with bk := true, b := 64 }).wf = false := by decide
theorem test_wf_literal_in_b : (Instr.iaddExtended { x0 with form := .extLit, bi := true, b := 1 }).wf = false := by decide
theorem test_wf_immediate_b : (Instr.moviExtended x0).wf = false := by decide
theorem test_wf_k_b : (Instr.movkExtended x0).wf = false := by decide
theorem test_wf_predicate_b : (Instr.plop3 { x0 with fb := true }).wf = false ∧ (Instr.plop3 { x0 with b := 32 }).wf = false := by decide
theorem test_wf_unused_b : (Instr.movExtended { x0 with b := 1 }).wf = false := by decide
theorem test_wf_predicate_c : (Instr.isel { x0 with c := 32 }).wf = false := by decide
theorem test_wf_unused_c : (Instr.iaddExtended { x0 with c := 1 }).wf = false := by decide
theorem test_wf_literal_width : (Instr.iaddExtended { x0 with form := .extLit, bi := true, lit := 0x100000000#64 }).wf = false ∧
    (Instr.iaddExtended { x0 with form := .extLit, bi := true, lit := 0x100000000#64, m := 0x0B#32 }).wf = true := by decide
theorem test_wf_literal_unread : (Instr.iaddExtended { x0 with form := .extLit }).wf = false ∧ (Instr.iaddExtended { x0 with lit := 1 }).wf = false := by decide
theorem test_wf_member_mask : (Instr.shfl { x0 with m := 0x80000000#32 }).wf = false ∧ (Instr.shfl { x0 with form := .extLit, m := 0x80000000#32, lit := 0xFFFFFFFF#64 }).wf = true := by decide
theorem test_wf_form : (Instr.iaddExtended { x0 with form := .cmp }).wf = false := by decide
theorem test_wf_compact_literal : (Instr.iaddExtended { x0 with form := .cmpLit, bi := true, d := 128 }).wf = false ∧
    (Instr.popcExtended { x0 with form := .cmpLit, bi := true }).wf = false ∧ (Instr.imadExtended { x0 with form := .cmpLit, bi := true, d := 1 }).wf = false := by decide
theorem test_wf_mod_bits : (Instr.iaddExtended { x0 with m := 0x80000000#32 }).wf = false := by decide
theorem test_wf_group_without_scope : (Instr.ldExtended { x0 with m := 0x00008000#32 }).wf = false ∧ (Instr.ldExtended { x0 with m := 0x0000E000#32 }).wf = true := by decide
theorem test_wf_reserved_under_values :
    [Instr.icmp { x0 with d := 1 }, .icmp { x0 with c := 1 }, .fcmp { x0 with d := 1 }, .fcmp { x0 with c := 1 }, .movsExtended { x0 with a := 1 },
      .movsExtended { x0 with d := 1, m := 0x98000000 }, .fclass { x0 with dx := 1 }, .fclass { x0 with d := 1, m := 0x00800000 },
      .unpk { x0 with m := 0x00100000 }, .unpk { x0 with m := 0x80800000 }, .pack { x0 with m := 0x80000020 }, .pack { x0 with b := 1 },
      .shfl { x0 with c := 1 }, .vote { x0 with m := 0x10000000 }, .vote { x0 with d := 1, m := 0x00800000 }, .atom { x0 with c := 1 },
      .atomf { x0 with d := 1, m := 0x80000000 }, .atomf { x0 with m := 0x00800020 }, .atomfx { x0 with d := 1, m := 0x80000000 },
      .ascl { x0 with a := 2 }, .ascl { x0 with b := 2 }, .await { x0 with m := 0x00800400 }, .attr { x0 with b := 1 },
      .smp { x0 with c := 1, m := 0x10000000 }, .sysrd { x0 with b := 1 }].all (fun i => !i.wf) = true := by decide

/-! ## Decoding (the words of R145 to R156, of the listings of chapters 6, 7 and 13 and of R453) -/

def one (w : Word) : Dec := (decode [w]).1
def three (a b c : Word) : Dec := (decode [a, b, c]).1

theorem test_decode_nop : one 0x00000004 = .ok (.nop 0 false) := by decide
theorem test_decode_exit_nonzero_d : one 0x00001014 = .badField false := by decide
theorem test_decode_literal_of_opc_45 : three 0x00000115 0 0 = .reserved := by decide
theorem test_decode_twin_of_exit : three 0x00000016 0 0 = .ok (.exitExtended x0) := by decide
theorem test_decode_sysrd : three 0x00000782 0 0 = .ok (.sysrd x0) := by decide
theorem test_decode_iadd_reserved_bit : three 0x0000003A 0x40000000 0 = .badField false := by decide
theorem test_decode_movs_fid : one 0x0000002C = .ok (.movs 0 false 0 0) := by decide
theorem test_decode_movi : one 0x00001024 = .ok (.movi 0 false 1 0) := by decide
theorem test_decode_icmp_gt : three 0x02000112 0x20000000 0x02000000 = .ok (.icmp { x0 with dx := 1, bi := true, m := 0x02000000 }) := by decide
theorem test_decode_bra_guarded : one 0x00006608 = .ok (.bra 1 true 6) := by decide
theorem test_decode_iadd : one 0x00081038 = .ok (.iadd 0 false 1 1 0) := by decide
theorem test_decode_isub_immediate : three 0x0000003E 0x20000100 0 = .ok (.isubExtended { x0 with bi := true, b := 1 }) := by decide
theorem test_decode_bra_back : one 0xFFFF8008 = .ok (.bra 0 false (-8)) := by decide
theorem test_decode_shfl_down : three 0x000A01A2 0x20000104 0x01000000 = .ok (.shfl { x0 with d := 5, a := 4, bi := true, b := 1, m := 0x01000000 }) := by decide
theorem test_decode_gang : three 0x00020302 0x20000F00 0 = .ok (.gang { x0 with d := 1, bi := true, b := 0x0F }) := by decide
theorem test_decode_tret_skip : three 0x0000078A 0 0x00800000 = .ok (.tretSkip { x0 with m := 0x00800000 }) := by decide
theorem test_decode_sysrd_tcause : three 0x00080782 0 0x01000000 = .ok (.sysrd { x0 with d := 4, m := 0x01000000 }) := by decide
theorem test_decode_frmput : three 0x0200079A 0x0000000A 0 = .ok (.frmput { x0 with dx := 1, a := 10 }) := by decide
-- by hand: D = 3 at bit 12, A = 2 at bit 19, B6 = 4 at bit 26; OPC 0x25, 0x3D, 0x18, 0x0D at bit 2
theorem test_decode_fadd : one 0x10103094 = .ok (.fadd 0 false 3 2 4) := by decide
theorem test_decode_ld : one 0x101030F4 = .ok (.ld 0 false 3 2 4) := by decide
theorem test_decode_and : one 0x10103060 = .ok (.and 0 false 3 2 4) := by decide
theorem test_decode_lea : one 0x10103034 = .ok (.lea 0 false 3 2 4) := by decide
-- LEN 0b01, OPC 0x25, B6 = 0x20 (rounding code 1), the literal 1.0
theorem test_decode_fadd_literal : three 0x80103095 0x3F800000 0 =
    .ok (.faddExtended { x0 with form := .cmpLit, d := 3, a := 2, bi := true, m := 0x20, lit := 0x3F800000 }) := by decide
-- XOPC 0x080, 0x08F, 0x0C1, 0x0E6, 0x0E8, 0x0EA, 0x04D, 0x065, 0x08A at bit 2 with D = 4 at bit 17, A = 6, B = 8, C = 10
theorem test_decode_atom_cas : three 0x00080202 0x000A0806 0x0380000C = .ok (.atom { x0 with d := 4, a := 6, b := 8, c := 10, m := 0x0380000C }) := by decide
theorem test_decode_cpy : three 0x0008023E 0x00000806 0 = .ok (.cpy { x0 with d := 4, a := 6, b := 8 }) := by decide
theorem test_decode_mma : three 0x00000306 0x00000806 0x00801000 = .ok (.mma { x0 with a := 6, b := 8, m := 0x00801000 }) := by decide
theorem test_decode_omst : three 0x0000039A 0x00000006 0 = .ok (.omst { x0 with a := 6 }) := by decide
theorem test_decode_smp : three 0x000803A2 0x000A0806 0x03000000 = .ok (.smp { x0 with d := 4, a := 6, b := 8, c := 10, m := 0x03000000 }) := by decide
theorem test_decode_trace : three 0x000803AA 0x000A0806 0 = .ok (.trace { x0 with d := 4, a := 6, b := 8, c := 10 }) := by decide
theorem test_decode_callx : three 0x00080136 0x00000806 0x04000000 = .ok (.callx { x0 with d := 4, a := 6, b := 8, m := 0x04000000 }) := by decide
theorem test_decode_fcvt : three 0x00080196 0x00000006 0x08000014 = .ok (.fcvt { x0 with d := 4, a := 6, m := 0x08000014 }) := by decide
theorem test_decode_bar_init : three 0x0000022A 0x20000800 0x01000000 = .ok (.barInit { x0 with b := 8, bi := true, m := 0x01000000 }) := by decide
theorem test_decode_rinsar : decodeRinsar 0x00C5850B = some (.rfetch 10 11 12) ∧ decodeRinsar 0x0073128B = some (.bfxt 5 6 7) ∧
    decodeRinsar 0x0000A28B = some (.swait 5 1) ∧ decodeRinsar 0x0020B28B = some (.dspch 5 1 2) ∧ decodeRinsar 0x0020A28B = none := by decide
theorem test_encode_three : encode (.shfl { x0 with d := 5, a := 4, bi := true, b := 1, m := 0x01000000 }) = [0x000A01A2, 0x20000104, 0x01000000] := by decide
/-! ## Small states -/

/-- 32 words of window, 64 fibres, 4,096 bytes of vault and 4 tiles. -/
def tRec : Record :=
  { tsize := 4096, w := 32, fcap := 64, fstart := 64, a := 4, v := 4096, psize := 256, pbase := 0x30000, csize := 1024, cbase := 0x20000
    em1 := [63, 0, 0, 0, 0, 0], wid := [6, 0, 0, 0, 0, 0] }
def tLaunch : Launch := { id := 5, r := tRec, kind := .grid }
def tFib (ws : List Word) : Fib := { live := true, started := true, win := ws ++ List.replicate (32 - ws.length) 0#32 }
/-- Work-group 3, whose first fibres are those listed; the others are not live. -/
def tWg (fs : List Fib) : WG :=
  { id := 3, launch := 5, rng := [{ vbase := 0, vsize := 2 ^ 40, iabase := 0xFF * 2 ^ 44, on := true }]
    fibs := fs ++ List.replicate (64 - fs.length) { win := List.replicate 32 0#32 }
    k := List.replicate 64 0#32, kOld := List.replicate 64 0#32, kp := List.replicate 64 0#32, bars := List.replicate 16 {} }
/-- Fibre 0 alone forms the rope that stands first. -/
def tState (g : WG) (l : Launch) : State :=
  { clock := 100, mem := []
    d := { ropes := [{ core := 0, quad := 0, fibs := [(3, 0)] }], nextId := 10, wgs := [g], launches := [l], choices := [5, 6, 7] } }
def tRun (g : WG) (l : Launch) : Run := { rest := [], w := 3, k := 0, g := g, f := (g.fib? 0).getD {}, l := l }

/-- One fibre with these first words. -/
def st (ws : List Word) : State := tState (tWg [tFib ws]) tLaunch
def rn (ws : List Word) : Run := tRun (tWg [tFib ws]) tLaunch

def after (o : Host.Outcome State Fault Refusal) : State :=
  match o with
  | .next t => t
  | _ => { clock := 0, mem := [], d := {} }
/-- Fibre 0 after a step. -/
def fibre (o : Host.Outcome State Fault Refusal) : Fib := ((after o).d.fib? 3 0).getD {}
def group (o : Host.Outcome State Fault Refusal) : WG := ((after o).d.wg? 3).getD (tWg [])
/-- Its window from a word on. -/
def words (o : Host.Outcome State Fault Refusal) (r n : Nat) : List Word := (fibre o).words r n
/-- The cause that halts the work-group, and its value. -/
def trapOf (o : Host.Outcome State Fault Refusal) : Option (Nat × Nat) := (group o).trap.map fun c => (c.cause, c.tval)

/-! ## Single steps -/

-- the table of R170
theorem test_iabs : words (exec (.iabs 0 false 1 0) (st [0x80000000])) 1 1 = [0x80000000] := by decide
theorem test_iabs_sat : (fibre (exec (.iabsExtended { x0 with d := 1, m := 0x100 }) (st [0x80000000]))).word 1 = 0x7FFFFFFF ∧
    (fibre (exec (.iabsExtended { x0 with d := 1, m := 0x100 }) (st [0x80000000]))).fpflags = 0x20 := by decide
theorem test_ineg_sat : words (exec (.inegExtended { x0 with d := 1, m := 0x100 }) (st [0x80000000])) 1 1 = [0x7FFFFFFF] := by decide
theorem test_imul_sat : words (exec (.imulExtended { x0 with d := 2, b := 1, m := 0x108 }) (st [0x10000, 0x10000])) 2 1 = [0xFFFFFFFF] := by decide
theorem test_imulh : words (exec (.imulh 0 false 2 0 1) (st [0xFFFFFFFF, 2])) 2 1 = [0xFFFFFFFF] := by decide
theorem test_isub_sat : words (exec (.isubExtended { x0 with d := 2, b := 1, m := 0x108 }) (st [3, 5])) 2 1 = [0] := by decide
-- the table of R171: 1 is added to w8:w9 in two steps
theorem test_iaddc_low :
    let f := fibre (exec (.iaddc { x0 with d := 4, dx := 2, a := 8, bi := true, b := 1, m := 0x00800000 }) (st [0, 0, 0, 0, 7, 7, 0, 0, 0xFFFFFFFF, 1]))
    f.word 4 = 0 ∧ f.pred 2 = true := by decide
theorem test_iaddc_high :
    let s := tState (tWg [{ tFib [0, 0, 0, 0, 7, 7, 0, 0, 0xFFFFFFFF, 1] with preds := 5 }]) tLaunch
    words (exec (.iaddc { x0 with d := 5, a := 9, bi := true, c := 2 }) s) 5 1 = [2] := by decide
theorem test_isubb_borrow :
    let f := fibre (exec (.isubb { x0 with d := 2, dx := 1, b := 1, m := 0x00800000 }) (st [3, 5]))
    f.word 2 = 0xFFFFFFFE ∧ f.pred 1 = true := by decide
-- by hand: (−3)·5 + 2^33 in 64 bits
theorem test_imadw : words (exec (.imadw { x0 with d := 4, a := 0, b := 1, c := 2 }) (st [0xFFFFFFFD, 5, 0, 2])) 4 2 = [0xFFFFFFF1, 1] := by decide
theorem test_imad_reads_old_d : words (exec (.imad 0 false 2 0 1) (st [3, 4, 5])) 2 1 = [17] := by decide
theorem test_isad : words (exec (.isad 0 false 2 0 1) (st [0xFFFFFFFE, 3, 10])) 2 1 = [15] := by decide
theorem test_iadd_wraps : words (exec (.iadd 0 false 2 0 1) (st [0xFFFFFFFF, 2])) 2 1 = [1] := by decide
theorem test_iadd_64 : words (exec (.iaddExtended { x0 with d := 4, b := 2, m := 0x0B }) (st [0xFFFFFFFF, 0, 1, 0])) 4 2 = [0, 1] := by decide
theorem test_imin_signed : words (exec (.imin 0 false 2 0 1) (st [0xFFFFFFFF, 1])) 2 1 = [0xFFFFFFFF] := by decide
theorem test_imax_unsigned : words (exec (.imaxExtended { x0 with d := 2, b := 1, m := 8 }) (st [0xFFFFFFFF, 1])) 2 1 = [0xFFFFFFFF] := by decide
theorem test_lop3_majority : words (exec (.lop3 { x0 with d := 3, b := 1, c := 2, m := 0x74000000 }) (st [0xC, 0xA, 9])) 3 1 = [8] := by decide
theorem test_shl_by_width : words (exec (.shl 0 false 1 0 32) (st [0xFFFFFFFF])) 1 1 = [0] := by decide
theorem test_sar_by_width : words (exec (.sar 0 false 1 0 63) (st [0x80000000])) 1 1 = [0xFFFFFFFF] := by decide
theorem test_rot : words (exec (.rot 0 false 1 0 36) (st [0x80000001])) 1 1 = [0x18] := by decide
theorem test_fsh : words (exec (.fsh { x0 with d := 3, c := 1, bi := true, b := 8, m := 0x00800000 }) (st [0x11223344, 0xAABBCCDD])) 3 1 = [0xDD112233] := by decide
theorem test_bfx_sign : words (exec (.bfx 0 false 2 0 1) (st [0xF0, 0x0404])) 2 1 = [0xFFFFFFFF] := by decide
theorem test_bfx_beyond : words (exec (.bfx 0 false 2 0 1) (st [0xF0, 0x0420])) 2 1 = [0] := by decide
theorem test_bfi : words (exec (.bfi 0 false 2 0 1) (st [0xAB, 0x0808, 0x11111111])) 2 1 = [0x1111AB11] := by decide
theorem test_popc_clz : words (exec (.popc 0 false 2 0) (st [0xF00F])) 2 1 = [8] ∧ words (exec (.clz 0 false 2 0) (st [0])) 2 1 = [32] := by decide
theorem test_brev : words (exec (.brev 0 false 2 0) (st [1])) 2 1 = [0x80000000] := by decide
-- the examples of R177
theorem test_prmt_fill : words (exec (.prmt 0 false 2 0 1) (st [0x44332211, 0x005C7100, 0x88776655])) 2 1 = [0xFF885511] := by decide
theorem test_prmt_reverse : words (exec (.prmt 0 false 2 0 1) (st [0x44332211, 0x20, 0x88776655])) 2 1 = [0x11111188] := by decide
theorem test_icmp_word : words (exec (.icmp { x0 with d := 2, dx := 1, b := 1, m := 0x11000000 }) (st [0xFFFFFFFF, 1])) 2 1 = [0xFFFFFFFF] := by decide
theorem test_isel : words (exec (.isel { x0 with d := 2, b := 1, c := 3 }) (st [7, 9])) 2 1 = [9] := by decide
theorem test_lea_keeps_space : words (exec (.leaExtended { x0 with d := 2, bi := true, b := 0xFF }) (st [0, 0x10000000])) 2 2 = [0xFFFFFFFF, 0x1FFFFFFF] := by decide
theorem test_pspace : let f := fibre (exec (.pspace { x0 with d := 2, dx := 1 }) (st [0, 0x10400000])); f.word 2 = 1 ∧ f.pred 1 = true := by decide
theorem test_p0_stays : (fibre (exec (.pmov { x0 with dx := 0, a := 0, m := 0x00800000 }) (st []))).pred 0 = true := by decide
-- R63
theorem test_movs_squad : words (exec (.movs 0 false 1 2) (st [])) 1 1 = [0] ∧ words (exec (.movs 0 false 1 12) (st [])) 1 1 = [32] := by decide
theorem test_movs_reserved : trapOf (exec (.movs 0 false 0 0x3F) (st [])) = some (0x02, 0xFC00002C) := by decide
-- R57: the committed value stands until a barrier phase completes
theorem test_wk_is_pending : (group (exec (.wk 0 false 4 0) (st [9]))).k.getD 4 1 = 0 := by decide
-- FP32: 1 + 2^-24 ties to even; the larger of the subnormals; R206
theorem test_fadd_tie : let f := fibre (exec (.fadd 0 false 2 0 1) (st [0x3F800000, 0x33800000])); f.word 2 = 0x3F800000 ∧ f.fpflags = 0x10 := by decide
theorem test_fadd_up : words (exec (.faddExtended { x0 with d := 2, b := 1, m := 0x40 }) (st [0x3F800000, 0x33800000])) 2 1 = [0x3F800001] := by decide
theorem test_fsub_infinities : words (exec (.fsub 0 false 2 0 1) (st [0x7F800000, 0x7F800000])) 2 1 = [0x7FC00000] := by decide
theorem test_fmul_subnormal : words (exec (.fmul 0 false 2 0 1) (st [0x00800000, 0x3F000000])) 2 1 = [0x00400000] := by decide
theorem test_ffma_once : words (exec (.ffma 0 false 2 0 1) (st [0x3F800001, 0x3F800001, 0xBF800002])) 2 1 = [0x28800000] := by decide
theorem test_fmin_nan : words (exec (.fmin 0 false 2 0 1) (st [0x7FC00000, 0x3F800000])) 2 1 = [0x3F800000] := by decide
theorem test_frnd : words (exec (.frnd 0 false 2 0) (st [0x40200000])) 2 1 = [0x40000000] := by decide
-- R99's sum is rounded once: 1·1 + 1·(−1) + 2^-149
theorem test_fdot2 : words (exec (.fdot2 0 false 2 0 1) (st [0x3C003C00, 0xBC003C00, 1])) 2 1 = [1] := by decide
theorem test_idot4 : words (exec (.idot4 0 false 2 0 1) (st [0xFF010203, 0x01010101, 10])) 2 1 = [15] := by decide
theorem test_icvtf : words (exec (.icvtf 0 false 2 0) (st [0xFFFFFFFF])) 2 1 = [0xBF800000] := by decide
theorem test_fcvti_clamps : let f := fibre (exec (.fcvti 0 false 2 0) (st [0x7F800000])); f.word 2 = 0x7FFFFFFF ∧ f.fpflags = 1 := by decide
-- R78: 448 is the largest E4M3 value, 65,504 the largest FP16
theorem test_fcvt_e4m3 : words (exec (.fcvt { x0 with d := 2, m := 0x08000014 }) (st [0x43E00000])) 2 1 = [0x7E] := by decide
theorem test_fcvt_f16 : words (exec (.fcvt { x0 with d := 2, m := 0x08000012 }) (st [0x477FE000])) 2 1 = [0x7BFF] := by decide
-- the examples of R221 and R222
theorem test_pack_sr_down : words (exec (.pack { x0 with d := 9, a := 4, b := 8, m := 0x028000A0 }) (st [0, 0, 0, 0, 0x3F880000, 0, 0, 0, 0x7F])) 9 1 = [0x38] := by decide
theorem test_pack_sr_up : words (exec (.pack { x0 with d := 9, a := 4, b := 8, m := 0x028000A0 }) (st [0, 0, 0, 0, 0x3F880000, 0, 0, 0, 0x80])) 9 1 = [0x39] := by decide
theorem test_unpk_e2m1 : words (exec (.unpk { x0 with d := 6, a := 1, m := 0x03800000 }) (st [0, 0xF2])) 6 2 = [0xCC38, 0] := by decide
-- control
theorem test_bra : (fibre (exec (.bra 0 false (-3)) (st []))).pc = 0xFFFFFFFFFFFFFFF4 := by decide
theorem test_call_link : let f := fibre (exec (.call 0 false 5 3) (st [])); f.pc = 20 ∧ f.word 3 = 4 := by decide
theorem test_ret_misaligned : trapOf (exec (.ret 0 false 0) (st [6])) = some (0x02, 0x10) := by decide
theorem test_brx : (fibre (exec (.brx { x0 with a := 0, b := 0xFC, bi := true }) (st [16]))).pc = 12 := by decide
theorem test_spawn : let o := exec (.spawn { x0 with a := 0, b := 2, d := 4, dx := 1, m := 0x01000000 }) (st [16, 0, 7, 8])
    (fibre o).word 4 = 1 ∧ (fibre o).pred 1 = true ∧ (((after o).d.fib? 3 1).map fun f => (f.live, f.unborn, f.pc, f.win.take 3)) = some (false, true, 16, [7, 8, 0]) := by decide
theorem test_exit : (fibre (exec (.exit 0 false) (st []))).live = false := by decide
theorem test_sleep : (fibre (exec (.sleep { x0 with bi := true, b := 5 }) (st []))).wait = .sleep 105 := by decide
theorem test_brk : trapOf (exec (.brk { x0 with m := 0x1234 }) (st [])) = some (0x10, 0x1234) := by decide
theorem test_user_sysrd : trapOf (exec (.sysrd { x0 with d := 4 }) (st [])) = some (0x0B, 0) := by decide
theorem test_false_guard : let f := fibre (exec (.iadd 0 true 2 0 1) (st [1, 2, 9])); f.word 2 = 9 ∧ f.pc = 4 := by decide

-- the table of R230: A is 5, 1, 4, 2, 7, 3; fibre 3's guard is false
def squad (i : Instr) : State :=
  tState (tWg (([5, 1, 4, 2, 7, 3].zipIdx).map fun p =>
    let f : Fib := { tFib [BitVec.ofNat 32 p.1, 99, 99] with preds := if p.1 ≥ 4 ∨ p.1 = 3 then 3 else 1 }
    if p.2 = 0 then f else { f with wait := .conv 0x3F (p.2 ≠ 3) i })) tLaunch
def squadX (m : Nat) : X := { x0 with form := .extLit, m := BitVec.ofNat 32 (2 ^ 31 + m), lit := 0x3F, d := 2 }
def squadWords (o : Host.Outcome State Fault Refusal) : List Word := ((group o).fibs.take 6).map (·.word 2)
theorem test_shfl_down : let x : X := { squadX 0x01000000 with dx := 2, bi := true, b := 1 }
    squadWords (exec (.shfl x) (squad (.shfl x))) = [1, 4, 99, 99, 3, 99] := by decide
theorem test_sqscan_add_excl : squadWords (exec (.sqscan (squadX 0x04000000)) (squad (.sqscan (squadX 0x04000000)))) = [0, 5, 6, 99, 10, 17] := by decide
theorem test_sqred_add : squadWords (exec (.sqred (squadX 0)) (squad (.sqred (squadX 0)))) = [20, 20, 20, 99, 20, 20] := by decide
theorem test_vote_ballot : let x : X := { squadX 0 with a := 1 }
    squadWords (exec (.vote x) (squad (.vote x))) = [0x35, 0x35, 0x35, 99, 0x35, 0x35] := by decide

-- the first table of R193: six fibres of a collection that has closed
def regroup : State :=
  let fs := [0x200, 0x100, 0x200, 0x100, 0x100, 0x200].zipIdx.map fun p => { tFib [BitVec.ofNat 32 p.1] with lane := p.2, wait := .coll 7 }
  let c : Coll := { id := 7, quad := 0, ctx := 0, text := 0, w := 32, opened := 80, closed := some 90
                    members := [(0x200, 7), (0x100, 3), (0x200, 7), (0x100, 3), (0x100, 9), (0x200, 7)].zipIdx.map fun p =>
                      { wg := 3, fib := p.2, target := p.1.1, key := p.1.2, live := 8, d := 9, link := 0x40 } }
  let s := tState (tWg fs) tLaunch
  { s with d := { s.d.modCore 0 fun k => { k with colls := [c] } with arg := { a := 0, b := 7 } } }
theorem test_callx_lanes : ((group (exec .regroupMoveComplete regroup)).fibs.take 6).map (fun f => (f.lane, f.pc)) =
    [(3, 0x200), (0, 0x100), (4, 0x200), (1, 0x100), (2, 0x100), (5, 0x200)] := by decide

-- barriers: R251, R252
theorem test_bar_init_zero : trapOf (exec (.barInit { x0 with bi := true, m := 0x01000000 }) (st [])) = some (0x07, 2) := by decide
theorem test_bar_phase : let s := tState { tWg [tFib []] with bars := [{ expect := 1, pend := 1, init := true }] } tLaunch
    ((group (exec (.barArv { x0 with bi := true, b := 1 }) s)).bars.getD 0 {}) = { expect := 1, pend := 1, init := true, phase := true } := by decide
-- vault: R102's range check, and a store that is performed at its home
theorem test_vault_range : trapOf (exec (.ld 0 false 4 0 0) (st [4094, 0x10000000])) = some (0x09, 0x1000000000000FFE) := by decide
theorem test_space_reserved : trapOf (exec (.ld 0 false 4 0 0) (st [0, 0x50000000])) = some (0x08, 0x5000000000000000) := by decide
theorem test_atomic_alignment : trapOf (exec (.red { x0 with b := 4 }) (st [2, 0x10000000])) = some (0x0A, 0x1000000000000002) := by decide
theorem test_feprb_empty : let s := tState { tWg [tFib [0, 0x10000000]] with empt := [0, 3] } tLaunch
    let f := fibre (exec (.feprb { x0 with d := 4, dx := 1, a := 0 }) s); f.word 4 = 0xFFFFFFF6 ∧ f.pred 1 = false := by decide
theorem test_home_add : let o : Op := { id := 4, kind := .red, wg := 3, fib := 0, ord := 0, grp := 1, addr := 0x1000, size := 4, due := 50
                                        parts := [{ va := 0x1000, off := 0, len := 4, st := .sent }], act := .int 0 9 5 0, bytes := [0, 0, 0, 0] }
    let s := { tState (tWg [tFib []]) tLaunch with mem := [(0x1000, 0xFE), (0x1004, 7)] }
    (after (exec .homeRequest { s with d := { s.d with ops := [o], arg := { a := 4 }, choices := [0] } })).mem = [(0x1000, 3), (0x1001, 1), (0x1004, 7)] := by decide

/-! ## States that meet the hypotheses of the statements -/

/-- `r.Of i x s`, as a check. -/
def ofB (r : Run) (i : Instr) (x : X) (s : State) : Bool :=
  match form i with
  | some (p, y) =>
    decide (y = x) && (match s.d.ropes with
      | q :: rest => q.fibs == [(r.w, r.k)] && rest == r.rest
      | [] => false) &&
    decide (s.d.wg? r.w = some r.g) && decide (r.g.fib? r.k = some r.f) && decide (s.d.launch? r.g.launch = some r.l) && r.f.live && s.d.wb.isEmpty &&
    decide (p.check (lvOf s.d r.g r.f r.l) x ((encode i).headD 0#32) = none) && (r.f.hnd || !r.f.pend.contains x.pg.toNat) &&
    (r.f.pred x.pg.toNat != x.pn) && decide (p.gate (lvOf s.d r.g r.f r.l) true r.f x = .pass)
  | none => false

theorem meets {r : Run} {i : Instr} {x : X} {s : State} {P : Prop} [Decidable P] (h : (ofB r i x s && decide P) = true) : r.Of i x s ∧ P := by
  rw [Bool.and_eq_true, decide_eq_true_eq] at h
  refine ⟨?_, h.2⟩
  have h := h.1
  unfold ofB at h
  split at h
  case h_2 => cases h
  case h_1 p y hf =>
    simp only [Bool.and_eq_true, decide_eq_true_eq] at h
    obtain ⟨⟨⟨⟨⟨⟨⟨⟨⟨⟨rfl, hr⟩, hw⟩, hk⟩, hl⟩, hv⟩, hq⟩, hc⟩, hs⟩, hg⟩, hp⟩ := h
    split at hr
    case h_2 => cases hr
    case h_1 q rest hq' =>
      simp only [Bool.and_eq_true, beq_iff_eq] at hr
      refine ⟨⟨⟨q.core, q.quad, ?_⟩, hw, hk, hl, hv, by simpa using hq⟩, p, ⟨hf, hc, ?_, hg, hp⟩⟩
      · rw [hq', hr.2]; cases q; simp_all
      · simpa using hs


theorem of {r : Run} {i : Instr} {x : X} {s : State} (h : ofB r i x s = true) : r.Of i x s := (meets (P := True) (by simpa using h)).1

/-- Fibre 0 of this work-group alone, under a launch, in a device otherwise as `e` says. -/
def stOf (f : Fib) (h : WG → WG) (c : Launch → Launch) (e : Dev → Dev) : State :=
  let s := tState (h (tWg [f])) (c tLaunch)
  { s with d := e s.d }
def rnOf (f : Fib) (h : WG → WG) (c : Launch → Launch) : Run := tRun (h (tWg [f])) (c tLaunch)

/-- `i` runs in that state, and `P` holds of it. -/
def Meets (i : Instr) (x : X) (f : Fib) (h : WG → WG) (c : Launch → Launch) (e : Dev → Dev) (P : State → Run → Prop) : Prop :=
  (rnOf f h c).Of i x (stOf f h c e) ∧ P (stOf f h c e) (rnOf f h c)

/-- What an address gives, as equations that `decide` can settle. -/
def gives {α β : Type} [DecidableEq β] (r : Except α β) (v : β) : Bool :=
  match r with
  | .ok w => decide (w = v)
  | _ => false
def fails {α β : Type} [DecidableEq α] (r : Except α β) (v : α) : Bool :=
  match r with
  | .error w => decide (w = v)
  | _ => false
theorem gives_eq {α β : Type} [DecidableEq β] {r : Except α β} {v : β} (h : gives r v = true) : r = .ok v := by
  cases r with
  | ok w => simpa [gives] using h
  | error e => cases h
theorem fails_eq {α β : Type} [DecidableEq α] {r : Except α β} {v : α} (h : fails r v = true) : r = .error v := by
  cases r with
  | error w => simpa [fails] using h
  | ok e => cases h

/-- A read that gives these bytes, none of them poison. -/
def gets (r : Rd × Dev) (bs : List Byte) : Bool :=
  match r.1 with
  | .ok b false => decide (b = bs)
  | _ => false

/-- The usual case: a fibre with these words. -/
def Runs (i : Instr) (x : X) (ws : List Word) : Prop := (rn ws).Of i x (st ws)
def RunsWith (i : Instr) (x : X) (ws : List Word) (P : State → Run → Prop) : Prop := (rn ws).Of i x (st ws) ∧ P (st ws) (rn ws)

-- integers and logic: 64-bit types, a count of the whole width, predicates
theorem witness_integer_operations : (∃ fn, intRule (.iaddExtended { x0 with d := 4, b := 2, m := 0x0B }) = some ({ x0 with d := 4, b := 2, m := 0x0B }, fn)) ∧
    Runs (.iaddExtended { x0 with d := 4, b := 2, m := 0x0B }) { x0 with d := 4, b := 2, m := 0x0B } [0xFFFFFFFF, 0xFFFFFFFF, 1, 0] := ⟨⟨_, rfl⟩, of (by decide)⟩
theorem witness_carry_and_wide : (∃ q, wideRule (.iaddc { x0 with d := 4, dx := 31, m := 0x0B }) = some q ∧ q.x = { x0 with d := 4, dx := 31, m := 0x0B }) ∧
    Runs (.iaddc { x0 with d := 4, dx := 31, m := 0x0B }) { x0 with d := 4, dx := 31, m := 0x0B } [0xFFFFFFFF, 0xFFFFFFFF] := ⟨⟨_, rfl, rfl⟩, of (by decide)⟩
theorem witness_bitwise_logic : (∃ q, logicRule (.lop3 { x0 with d := 3, b := 1, c := 2, m := 0x7F800000 }) = some q ∧ q.x = { x0 with d := 3, b := 1, c := 2, m := 0x7F800000 }) ∧
    Runs (.lop3 { x0 with d := 3, b := 1, c := 2, m := 0x7F800000 }) { x0 with d := 3, b := 1, c := 2, m := 0x7F800000 } [1, 2, 3] := ⟨⟨_, rfl, rfl⟩, of (by decide)⟩
theorem witness_shifts : (∃ q, shiftRule (.shl 0 false 1 0 32) = some q ∧ q.x = twinDAI 0 false 1 0 32) ∧ Runs (.shl 0 false 1 0 32) (twinDAI 0 false 1 0 32) [1] := ⟨⟨_, rfl, rfl⟩, of (by decide)⟩
theorem witness_fields : (∃ q, bitFieldRule (.bfxExtended { x0 with d := 2, b := 1 }) = some q ∧ q.x = { x0 with d := 2, b := 1 }) ∧
    Runs (.bfxExtended { x0 with d := 2, b := 1 }) { x0 with d := 2, b := 1 } [0xFF, 0x0120] := ⟨⟨_, rfl, rfl⟩, of (by decide)⟩
theorem witness_compares : (∃ q, selectRule (.icmp { x0 with dx := 1, b := 1, c := 2, m := 0x0C000000 }) = some q ∧ q.x = { x0 with dx := 1, b := 1, c := 2, m := 0x0C000000 }) ∧
    Runs (.icmp { x0 with dx := 1, b := 1, c := 2, m := 0x0C000000 }) { x0 with dx := 1, b := 1, c := 2, m := 0x0C000000 } [1, 2] := ⟨⟨_, rfl, rfl⟩, of (by decide)⟩
theorem witness_moves : (∃ q, moveRule (.movk 0 false 1 63) = some q ∧ q.x = { twinDA 0 false 1 0 with b := 63, bk := true }) ∧
    Runs (.movk 0 false 1 63) { twinDA 0 false 1 0 with b := 63, bk := true } [] := ⟨⟨_, rfl, rfl⟩, of (by decide)⟩
-- floating point
theorem witness_floating_point : (∃ q, fpRule (.ffmaExtended { x0 with d := 3, b := 1, c := 2, m := 0x80 }) = some q ∧ q.x = { x0 with d := 3, b := 1, c := 2, m := 0x80 }) ∧
    Runs (.ffmaExtended { x0 with d := 3, b := 1, c := 2, m := 0x80 }) { x0 with d := 3, b := 1, c := 2, m := 0x80 } [1, 2, 3] := ⟨⟨_, rfl, rfl⟩, of (by decide)⟩
theorem witness_classes : (∃ q, classRule (.fclass { x0 with dx := 1, b := 1, m := 0x00800000 }) = some q ∧ q.x = { x0 with dx := 1, b := 1, m := 0x00800000 }) ∧
    Runs (.fclass { x0 with dx := 1, b := 1, m := 0x00800000 }) { x0 with dx := 1, b := 1, m := 0x00800000 } [0x7F800001, 0x3FF] := ⟨⟨_, rfl, rfl⟩, of (by decide)⟩
theorem witness_packed : (∃ q, packedRule (.hfma2 0 false 2 0 1) = some q ∧ q.x = twinDABC 0 false 2 0 1) ∧ Runs (.hfma2 0 false 2 0 1) (twinDABC 0 false 2 0 1) [1, 2, 3] :=
  ⟨⟨_, rfl, rfl⟩, of (by decide)⟩
theorem witness_conversions : (∃ q, convertRule (.fcvti 0 false 2 0) = some q ∧ q.x = twinDA 0 false 2 0) ∧ Runs (.fcvti 0 false 2 0) (twinDA 0 false 2 0) [0x7F800000] :=
  ⟨⟨_, rfl, rfl⟩, of (by decide)⟩
theorem witness_pack : Runs (.pack { x0 with d := 9, a := 28, m := 0x02800000 }) { x0 with d := 9, a := 28, m := 0x02800000 } [] := of (by decide)
theorem witness_unpk : RunsWith (.unpk { x0 with d := 6, a := 1, m := 0x03800000 }) { x0 with d := 6, a := 1, m := 0x03800000 } [0, 0xF2]
    (fun _ _ => EFmt.fp (fmtF 7) = .fp fE2M1) := meets (by decide)
-- an enabled flag: 1 + 2^-24 is inexact
theorem witness_arith_trap : Meets (.fadd 0 false 2 0 1) (twinDAB 0 false 2 0 1) (tFib [0x3F800000, 0x33800000]) id (fun l => { l with r := { tRec with fpen := 0x10 } }) id
    (fun s _ => trapOf (exec (.fadd 0 false 2 0 1) s) = some (0x0E, 0x10)) := meets (by decide)
-- idle forms
theorem witness_nop : Runs (.nop 0 false) (twin 0 false) [] ∧ Runs (.yieldExtended x0) x0 [] := ⟨of (by decide), of (by decide)⟩
theorem witness_sleep : RunsWith (.sleep x0) x0 [0] (fun s r => srcB s.clock r.g r.f x0 1 = 0) ∧ RunsWith (.sleep x0) x0 [1] (fun s r => srcB s.clock r.g r.f x0 1 ≠ 0) :=
  ⟨meets (by decide), meets (by decide)⟩
theorem witness_brk_trap : Runs (.brk { x0 with m := 0xFFFF }) { x0 with m := 0xFFFF } [] ∧ Runs (.trap x0) x0 [] := ⟨of (by decide), of (by decide)⟩
-- branches: the last word of the text, its end, a target between words
theorem witness_branches : (∃ j, branchRule (.retExtended x0) = some j ∧ j.x = x0 ∧ j.checked = true) ∧
    Runs (.retExtended x0) x0 [4092] ∧ Runs (.retExtended x0) x0 [4096] ∧ Runs (.retExtended x0) x0 [2] :=
  ⟨⟨_, rfl, rfl, rfl⟩, of (by decide), of (by decide), of (by decide)⟩
theorem witness_bra : (∃ j, branchRule (.bra 0 false (-3)) = some j ∧ j.checked = false) ∧ Runs (.bra 0 false (-3)) (twin 0 false) [] := ⟨⟨_, rfl, rfl⟩, of (by decide)⟩
-- callx: no collection; one in its last cc
def callxX : X := { x0 with d := 9, bi := true, b := 7, m := 0x04000000 }
def openColl : Coll := { id := 7, quad := 0, ctx := 0, text := 0, w := 32, opened := 84, members := [] }
theorem witness_callx : RunsWith (.callx callxX) callxX [4096] (fun _ _ => True) ∧
    RunsWith (.callx callxX) callxX [16] (fun s _ => (s.d.core 0).colls = []) ∧
    Meets (.callx callxX) callxX (tFib [16]) id id (fun d => d.modCore 0 fun k => { k with colls := [openColl] }) (fun s _ => s.clock = openColl.opened + 16) :=
  ⟨meets (by decide), meets (by decide), meets (by decide)⟩
theorem witness_callx_cores : Table.okFrom {} 0 regroup.d.cores = true := by decide
theorem witness_callx_moves : regroup.d.wb = [] ∧ regroup.d.ops = [] ∧ (∃ c, (regroup.d.core 0).colls.find? (fun o => o.id = 7) = some c ∧ c.closed ≠ none ∧
    (c.members.map fun m => (m.wg, m.fib)).Nodup ∧ ∀ m ∈ c.members, ∃ f, regroup.d.fib? m.wg m.fib = some f ∧ f.hnd = false) := by
  refine ⟨rfl, rfl, _, rfl, by decide, by decide, ?_⟩
  have h : ∀ m ∈ [0, 1, 2, 3, 4, 5], (regroup.d.fib? 3 m).any (fun f => !f.hnd) = true := by decide
  intro m hm
  have : m.wg = 3 ∧ m.fib ∈ [0, 1, 2, 3, 4, 5] := by
    revert m; decide
  obtain ⟨hw, hf⟩ := this
  have := h _ hf
  rw [hw]
  cases e : regroup.d.fib? 3 m.fib with
  | none => rw [e] at this; cases this
  | some f => exact ⟨f, rfl, by rw [e] at this; simpa using this⟩
-- spawn: a free index, and none
def spawnX : X := { x0 with d := 4, dx := 1, b := 2, m := 0x01000000 }
theorem witness_spawn : RunsWith (.spawn spawnX) spawnX [4092, 0, 7, 8] (fun _ r => (r.g.fib? 1).any (fun f => !f.live) = true) ∧
    Meets (.spawn spawnX) spawnX (tFib [16]) (fun g => { g with fibs := g.fibs.map fun f => { f with live := true } }) id id
      (fun _ r => ∀ f ∈ r.g.fibs, f.live = true) := ⟨meets (by decide), meets (by decide)⟩
theorem witness_exit : RunsWith (.exit 0 false) (twin 0 false) [] (fun _ r => ∀ h ∈ r.g.fibs, h.wait = .none) := meets (by decide)
-- wait on a vault word: equal and not; a pointer that R199 refuses
def waitX : X := { x0 with a := 2 }
def waitV (g : WG) : WG := { g with vault := [(0x40, 5#8)] }
def waitRes (r : Run) : Except (Nat × Nat) Tgt := resolve r.g (issuedFib r.g r.f) r.l r.k (r.f.nat 2 2) 4 [0, 1, 3, 4] 4 true false
theorem witness_wait :
    Meets (.waitExtended waitX) waitX (tFib [5, 0, 0x40, 0x10000000]) waitV id id (fun _ r => gives (waitRes r) (.vault r.g.rank 0x40) ∧ leNat (r.g.vaultBytes 0x40 4) = 5) ∧
    Meets (.waitExtended waitX) waitX (tFib [6, 0, 0x40, 0x10000000]) waitV id id (fun _ r => gives (waitRes r) (.vault r.g.rank 0x40)) ∧
    RunsWith (.waitExtended waitX) waitX [0, 0, 0x41, 0x10000000] (fun _ r => fails (waitRes r) (cMisaligned, 0x1000000000000041)) :=
  ⟨meets (by decide), meets (by decide), meets (by decide)⟩
-- times: the first cc in which each acts, and the one before
def timed (f : Fib) (clock : Nat) : State := { tState (tWg [f]) tLaunch with clock := clock, d := { (tState (tWg [f]) tLaunch).d with arg := { a := 3, b := 0 } } }
theorem witness_times : ∀ n ∈ [(5000 : Nat), 4999],
    (timed { tFib [] with wait := .sleep 5000 } n).d.fib? 3 0 = some { tFib [] with wait := .sleep 5000 } ∧
    (timed { tFib [] with critn := 9, critAt := 904 } n).d.fib? 3 0 = some { tFib [] with critn := 9, critAt := 904 } ∧ (n = 904 + 4096 ∨ n < 904 + 4096) := by decide

-- a wait that is read again: equal and different, after 4,096 cc, after a write of the word, and one cc too early
def dueFib (v : Nat) (hit : Bool) : Fib := { tFib [5, 0, 0x40, 0x10000000] with wait := .memw (vaultRowKey (tWg []) 0x40) 904 v hit (.waitExtended waitX) }
def dueState (v : Nat) (hit : Bool) (clock : Nat) : State :=
  let s := tState (waitV (tWg [dueFib v hit])) tLaunch
  { s with clock := clock, d := { s.d with arg := { a := 3, b := 0 } } }
theorem witness_vault_wait : ∀ v ∈ [5, 6], ∀ p ∈ [(false, 904 + 4096), (true, 905)],
    (dueState v p.1 p.2).d.wg? 3 = some (waitV (tWg [dueFib v p.1])) ∧ VaultWaitDue (dueState v p.1 p.2) (waitV (tWg [dueFib v p.1])) 0 (dueFib v p.1) waitX v (.waitExtended waitX) 0x40 := by
  intro v hv p hp
  simp only [List.mem_cons, List.not_mem_nil, or_false] at hv hp
  rcases hv with rfl | rfl <;> rcases hp with rfl | rfl <;>
    exact ⟨rfl, ⟨_, _, _, rfl, by decide⟩, rfl, rfl, rfl, tLaunch, rfl, gives_eq (by decide)⟩
theorem test_vault_wait : [(5, false, 5000), (6, false, 5000), (6, false, 4999), (6, true, 905)].map (fun p =>
      let f := fibre (exec .waitRecheckTimeout (dueState p.1 p.2.1 p.2.2)); (decide (f.wait = .none), f.pc)) =
    [(false, 0), (true, 12), (false, 0), (true, 12)] := by decide

-- special functions: a result on its way, landing, cut off, and trapping
theorem witness_sfu_issue : (∃ n, sfuRule (.frcp 0 false 2 0) = some (twinDA 0 false 2 0, n)) ∧ Runs (.frcp 0 false 2 0) (twinDA 0 false 2 0) [0x40000000] :=
  ⟨⟨_, rfl⟩, of (by decide)⟩
def sfuOp (fl : Fl) (cut : Bool) : Op :=
  { id := 4, kind := .sfu, wg := 3, fib := 0, ord := 0, grp := 1, dst := 2, dn := 1, res := [7], fl := fl, ready := true, due := 101, discard := cut }
def sfuState (o : Op) (pen : Fl) : State :=
  let s := tState (tWg [{ tFib [] with emp := [2] }]) { tLaunch with r := { tRec with fpen := pen } }
  { s with d := { s.d with ops := [o], arg := { a := 4 } } }
theorem witness_sfu_lands : ∀ cut ∈ [true, false], (sfuState (sfuOp 0x10 cut) 0).d.op? 4 = some (sfuOp 0x10 cut) ∧
    (sfuState (sfuOp 0x10 cut) 0).d.fib? 3 0 = some { tFib [] with emp := [2] } ∧ arithTraps 0 (0x10 : Fl) = false ∧ arithTraps 0x10 (0x10 : Fl) = true := by decide
theorem test_sfu_lands : let f := fibre (exec .specialFunctionResultLands (sfuState (sfuOp 0x10 false) 0)); f.word 2 = 7 ∧ f.emp = [] ∧ f.fpflags = 0x10 := by decide
theorem test_sfu_traps : let g := group (exec .specialFunctionResultLands (sfuState (sfuOp 0x10 false) 0x10))
    g.asyncs.map (fun c => (c.cause, c.tval, c.fib)) = [(0x0E, 0x10, 0)] ∧ (g.fib? 0).map (fun f => (f.word 2, f.emp)) = some (0, []) := by decide
-- movs, wk, psetb
def fpf : X := { twinDA 0 false 1 0 with m := 0x18000000 }
theorem witness_movs_pending : Meets (.movs 0 false 1 0x30) fpf (tFib []) id id (fun d => { d with ops := [sfuOp 0 false] })
    (fun s r => (s.d.ops.any fun o => o.wg = r.w && o.fib = r.k && o.kind = .sfu && !o.discard) = true) := meets (by decide)
theorem witness_movs : Runs (.movs 0 false 1 0x30) fpf [] ∧ Runs (.movsExtended { x0 with m := 0x98000000, a := 1 }) { x0 with m := 0x98000000, a := 1 } [] ∧
    RunsWith (.movs 0 false 2 0x10) { twinDA 0 false 2 0 with m := 0x08000000 } [] (fun s r => selector s r 0x10 = some (2, 100)) :=
  ⟨of (by decide), of (by decide), meets (by decide)⟩
theorem witness_wk : Runs (.wk 0 false 63 31) { twin 0 false with d := 63, a := 31 } [] := of (by decide)
theorem witness_psetb : Runs (.psetb { x0 with b := 1 }) { x0 with b := 1 } [0xFFFFFFFF, 0xFFFFFFFF] ∧
    Meets (.psetb { x0 with b := 1 }) { x0 with b := 1 } { tFib [1, 0x80000000] with pend := [31] } id id id (fun _ r => r.f.hnd = false ∧ r.f.pend = [31]) :=
  ⟨of (by decide), meets (by decide)⟩

-- squad instructions: own bit clear, another still to come, complete; each guard
theorem arrives {r : Run} {i : Instr} {x : X} {s : State} (h : r.Of i x s) (hp : r.f.pend = []) (hh : r.f.hnd = false) : Arrives r i x s true := by
  obtain ⟨h1, p, h2⟩ := h
  exact ⟨h1, ⟨p, h2.form, h2.checks, h2.full⟩, by rw [hp]; rfl, h2.guard, hh⟩
theorem witness_squad_not_named : Arrives (rn []) (.sqred { squadX 0 with lit := 2 }) { squadX 0 with lit := 2 } (st []) true ∧
    (members (rn []) { squadX 0 with lit := 2 }).testBit 0 = false := ⟨arrives (of (by decide)) rfl rfl, by decide⟩
def squadRun (i : Instr) : Run := tRun (((squad i).d.wg? 3).getD (tWg [])) tLaunch
def waitsFor (r : Run) (j : Nat) : Option Bool := (r.g.fib? j).bind (waitsWith r j)
theorem witness_squad_complete : Arrives (squadRun (.sqred (squadX 0))) (.sqred (squadX 0)) (squadX 0) (squad (.sqred (squadX 0))) true ∧
    (List.range 64).map (waitsFor (squadRun (.sqred (squadX 0)))) = [none, some true, some true, some false, some true, some true] ++ List.replicate 58 none ∧
    members (squadRun (.sqred (squadX 0))) (squadX 0) = 0x3F := ⟨arrives (of (by decide)) rfl rfl, by decide, by decide⟩
theorem witness_squad_waits : Arrives (rn []) (.vote (squadX 0)) (squadX 0) (st []) true ∧ (members (rn []) (squadX 0)).testBit 0 = true ∧
    Meets (.vote (squadX 0)) (squadX 0) (tFib []) (fun g => { g with fibs := g.fibs.set 1 (tFib []) }) id id (fun _ r => waitsFor r 1 = none ∧ (r.g.fib? 1).map (·.live) = some true) :=
  ⟨arrives (of (by decide)) rfl rfl, by decide, meets (by decide)⟩

-- memory operations: a good address at the end of a range, one beyond it, the spaces, a full tag window
def memRes (m : MemOp) (s : State) (r : Run) : Except (Nat × Nat) Tgt :=
  resolve r.g (issuedFib r.g r.f) r.l r.k (addressOf s r m.x m.offset) m.size m.spaces m.align m.rd m.wr
def memGives (i : Instr) (t : Tgt) (s : State) (r : Run) : Bool := (memRule i).any fun m => gives (memRes m s r) t
def memFails (i : Instr) (c : Nat × Nat) (s : State) (r : Run) : Bool := (memRule i).any fun m => fails (memRes m s r) c
theorem witness_ld : RunsWith (.ld 0 false 4 0 0) (twinDAI 0 false 4 0 0) [4092, 0x10000000] (fun s r => memGives (.ld 0 false 4 0 0) (.vault 0 4092) s r = true) ∧
    RunsWith (.ld 0 false 4 0 0) (twinDAI 0 false 4 0 0) [4093, 0x10000000] (fun s r => memFails (.ld 0 false 4 0 0) (cVaultRange, 0x1000000000000FFD) s r = true) ∧
    RunsWith (.ldc 0 false 4 0 0) (twinDAI 0 false 4 0 0) [1020, 0x40000000] (fun s r => memGives (.ldc 0 false 4 0 0) (.glob 0x203FC) s r = true) :=
  ⟨meets (by decide), meets (by decide), meets (by decide)⟩
def stHeld (s : State) (r : Run) : Option (Option Nat) :=
  (r.dev s).tagHeld (cxOf (.st 0 false 4 0 0) (twinDAIC 0 false 4 0 0) s r.w r.k r.f) r.g (issuedFib r.g r.f) (.glob 0x1000)
theorem witness_st : RunsWith (.st 0 false 4 0 0) (twinDAIC 0 false 4 0 0) [0x1000, 0] (fun s r => memGives (.st 0 false 4 0 0) (.glob 0x1000) s r = true ∧
      (rangeLookup r.g.rng 0x1000).isSome = true ∧ stHeld s r = none) ∧
    Meets (.st 0 false 4 0 0) (twinDAIC 0 false 4 0 0) (tFib [0x1000, 0]) id id (fun d => d.modCore 0 fun k => { k with stops := [(0, 9)] })
      (fun s r => memGives (.st 0 false 4 0 0) (.glob 0x1000) s r = true ∧ stHeld s r = some (some (0xFF * 2 ^ 44 + 0x1000))) := ⟨meets (by decide), meets (by decide)⟩
theorem witness_atomics : RunsWith (.atom { x0 with d := 4, b := 6, c := 8, m := 0x0380000C }) { x0 with d := 4, b := 6, c := 8, m := 0x0380000C } [0x108, 0]
      (fun s r => memGives (.atom { x0 with d := 4, b := 6, c := 8, m := 0x0380000C }) (.glob 0x108) s r = true) ∧
    RunsWith (.red { x0 with b := 6 }) { x0 with b := 6 } [0x102, 0] (fun s r => memFails (.red { x0 with b := 6 }) (cMisaligned, 0x102) s r = true) ∧
    RunsWith (.atomf { x0 with d := 8, b := 6 }) { x0 with d := 8, b := 6 } [0x10, 0x30000000] (fun s r => memGives (.atomf { x0 with d := 8, b := 6 }) (.glob 0x30010) s r = true) ∧
    RunsWith (.atomfx { x0 with d := 8, b := 6, m := 0x30000000 }) { x0 with d := 8, b := 6, m := 0x30000000 } [0xFE0, 0x10000000]
      (fun s r => memGives (.atomfx { x0 with d := 8, b := 6, m := 0x30000000 }) (.vault 0 0xFE0) s r = true) :=
  ⟨meets (by decide), meets (by decide), meets (by decide), meets (by decide)⟩
-- HOME_REQUEST of a word at the end of a line
def homeOp : Op :=
  { id := 4, kind := .red, wg := 3, fib := 0, ord := 0, grp := 1, addr := 0x107C, size := 4, due := 50
    parts := [{ va := 0x107C, off := 0, len := 4, st := .sent }], act := .int 0 9 5 0, bytes := [0, 0, 0, 0] }
def homeState : State :=
  let s := tState (tWg [tFib []]) tLaunch
  { s with d := { s.d with ops := [homeOp], arg := { a := 4 }, choices := [2] } }
def homeIa : Nat := 0xFF * 2 ^ 44 + 0x107C
theorem witness_home : homeState.Ok ∧ homeState.d.op? 4 = some homeOp ∧ (homeState.d.ops.filter fun q => q.id = 4) = [homeOp] ∧
    (homeState.d.dirEnt (homeIa % 2 ^ 42 / 128)).recalls true = false ∧ homeState.d.mayArrive homeOp { va := 0x107C, off := 0, len := 4, st := .sent } = true ∧
    homeState.d.partIa homeOp { va := 0x107C, off := 0, len := 4, st := .sent } = some homeIa ∧ homeIa / 2 ^ 42 = 0x3FC ∧ homeIa % 128 + 4 = 128 ∧
    homeState.d.l1? homeState.env 0 (homeIa / 128) = none ∧ homeState.d.cc? 0 (homeIa / 128) = none ∧ homeState.d.tagEnt? 0 (homeIa / 128) = none ∧
    (homeState.d.choose 2).1 = 0 := ⟨⟨by decide, rfl⟩, by decide, by decide, by decide, by decide, by decide, by decide, by decide, by decide, by decide, by decide, by decide⟩
-- results: for an exited fibre, poisoned, plain, an acquire
def landState (o : Op) (f : Fib) : State :=
  let s := tState (tWg [f]) tLaunch
  { s with d := { s.d with ops := [o], arg := { a := 4 } } }
def landOp : Op := { id := 4, kind := .ld, wg := 3, fib := 0, ord := 0, grp := 1, dst := 2, dn := 1, res := [7], ready := true, due := 50 }
theorem witness_result : ∀ o ∈ [landOp, { landOp with discard := true }, { landOp with poisoned := true }],
    ∀ f ∈ [tFib [], { tFib [] with live := false }], (landState o f).d.op? 4 = some o ∧ (landState o f).d.fib? 3 0 = some f ∧ f.wait ≠ .op 4 := by decide
theorem witness_result_acquire : let o := { landOp with acq := true, scope := 1 }
    (landState o { tFib [] with wait := .op 4 }).d.op? 4 = some o ∧ (landState o { tFib [] with wait := .op 4 }).d.fib? 3 0 = some { tFib [] with wait := .op 4 } := by decide
theorem test_result_poison : (group (exec .loadResultLands (landState { landOp with poisoned := true } (tFib [])))).asyncs.map (·.cause) = [0x20] := by decide
-- prefetch: the largest count and one beyond it, none, a vault
def pfxX (lit : Nat) : X := { x0 with form := .extLit, bi := true, lit := BitVec.ofNat 64 lit }
def pfxRes (n : Nat) (s : State) (r : Run) : Except (Nat × Nat) Tgt :=
  resolve r.g { issuedFib r.g r.f with hnd := true } r.l r.k (addressOf s r (pfxX n) false) n [0, 3, 4] 1 true false
theorem witness_pfx : RunsWith (.pfx (pfxX 65536)) (pfxX 65536) [0x1000, 0] (fun s r => srcB s.clock r.g r.f (pfxX 65536) 1 = 65536 ∧ gives (pfxRes 65536 s r) (.glob 0x1000)) ∧
    RunsWith (.pfx (pfxX 65537)) (pfxX 65537) [0x1000, 0] (fun s r => srcB s.clock r.g r.f (pfxX 65537) 1 = 65537) ∧
    RunsWith (.pfx (pfxX 0)) (pfxX 0) [0x1000, 0] (fun s r => gives (pfxRes 0 s r) (.glob 0x1000)) ∧
    RunsWith (.pfx (pfxX 1)) (pfxX 1) [0x1000, 0x10000000] (fun s r => fails (pfxRes 1 s r) (cSpaceInvalid, 0x1000000000001000)) :=
  ⟨meets (by decide), meets (by decide), meets (by decide), meets (by decide)⟩
-- barriers: each bound of R251 and R252
def barX (j n : Nat) : X := { x0 with form := .extLit, bi := true, lit := BitVec.ofNat 64 n, m := BitVec.ofNat 32 (j * 2 ^ 23) }
def barWg (b : Bar) (g : WG) : WG := { g with bars := putAt b g.bars 15 }
def live15 : Bar := { expect := 2, pend := 2, bytes := 0, init := true }
theorem witness_bar_init : Runs (.barInit (barX 15 4095)) (barX 15 4095) [] ∧ Runs (.barInit (barX 15 4096)) (barX 15 4096) [] ∧ Runs (.barInit (barX 15 0)) (barX 15 0) [] ∧
    Meets (.barInit (barX 15 1)) (barX 15 1) (tFib []) (barWg { live15 with pend := 1 }) id id (fun _ r => (r.g.bars.getD 15 {}).pend ≠ (r.g.bars.getD 15 {}).expect) :=
  ⟨of (by decide), of (by decide), of (by decide), meets (by decide)⟩
def older : Op := { id := 4, kind := .st, wg := 3, fib := 0, ord := 0, grp := 1 }
theorem witness_bar_arv : Meets (.barArv (barX 15 2)) (barX 15 2) (tFib []) (barWg live15) id id (fun s r => s.d.olderOpen r.w r.k 11 = false) ∧
    Meets (.barArv (barX 15 3)) (barX 15 3) (tFib []) (barWg live15) id id (fun s r => s.d.olderOpen r.w r.k 11 = false) ∧
    Meets (.barArv (barX 15 2)) (barX 15 2) (tFib []) (barWg live15) id (fun d => { d with ops := [older] }) (fun s r => s.d.olderOpen r.w r.k 11 = true) :=
  ⟨meets (by decide), meets (by decide), meets (by decide)⟩
theorem witness_bar_exp : Meets (.barExp (barX 15 0x7FFFFFFF)) (barX 15 0x7FFFFFFF) (tFib []) (barWg live15) id id (fun _ _ => True) ∧
    Meets (.barExp (barX 15 0x80000000)) (barX 15 0x80000000) (tFib []) (barWg live15) id id (fun _ _ => True) := ⟨meets (by decide), meets (by decide)⟩
theorem witness_bar_wait : Meets (.barWait (barX 15 0)) (barX 15 0) (tFib []) (barWg live15) id id (fun _ r => (r.g.bars.getD 15 {}).phase = false) ∧
    Meets (.barWait (barX 15 1)) (barX 15 1) (tFib []) (barWg live15) id id (fun _ r => (r.g.bars.getD 15 {}).phase ≠ true) ∧
    Runs (.barTest (barX 15 1)) (barX 15 1) [] := ⟨meets (by decide), meets (by decide), of (by decide)⟩
-- granules: full, empty, refused
def feX : X := { x0 with d := 4, bi := true, m := 0x80000000 }
def feRes (i : Instr) (s : State) (r : Run) (wr : Bool) : Except (Nat × Nat) Tgt :=
  match i with
  | .fezap x => resolve r.g { issuedFib r.g r.f with hnd := true } r.l r.k (addressOf s r x false) (srcB s.clock r.g r.f x 1) [1] 1 false true
  | .feprb x => resolve r.g { issuedFib r.g r.f with hnd := true } r.l r.k (addressOf s r x false) 1 [1] 1 true false
  | _ => resolve r.g (issuedFib r.g r.f) r.l r.k (addressOf s r feX true) 4 [1] 4 (!wr) wr
theorem witness_ldfe : Meets (.ldfe feX) feX (tFib [4092, 0x10000000]) id id id (fun s r => s.d.vaultOpen r.w r.k = false ∧ gives (feRes (.ldfe feX) s r false) (.vault 0 4092) ∧
      r.g.empt.contains 255 = false) ∧
    Meets (.ldfe feX) feX (tFib [4092, 0x10000000]) (fun g => { g with empt := [255] }) id id (fun s r => gives (feRes (.ldfe feX) s r false) (.vault 0 4092) ∧ r.g.empt.contains 255 = true) ∧
    RunsWith (.ldfe feX) feX [4094, 0x10000000] (fun s r => fails (feRes (.ldfe feX) s r false) (cVaultRange, 0x1000000000000FFE)) :=
  ⟨meets (by decide), meets (by decide), meets (by decide)⟩
def stfeX : X := { x0 with c := 4, d := 4, bi := true }
theorem witness_stfe : RunsWith (.stfe stfeX) stfeX [8, 0x10000000] (fun s r => gives (resolve r.g (issuedFib r.g r.f) r.l r.k (addressOf s r stfeX true) 4 [1] 4 false true) (.vault 0 8)) :=
  meets (by decide)
def zapX : X := { x0 with bi := true, b := 2 }
theorem witness_fezap : RunsWith (.fezap zapX) zapX [15, 0x10000000] (fun s r => gives (feRes (.fezap zapX) s r true) (.vault 0 15)) ∧
    RunsWith (.feprb { x0 with d := 4, dx := 1 }) { x0 with d := 4, dx := 1 } [4095, 0x10000000] (fun s r => gives (feRes (.feprb { x0 with d := 4, dx := 1 }) s r false) (.vault 0 4095)) :=
  ⟨meets (by decide), meets (by decide)⟩
theorem test_fezap_two_granules : (group (exec (.fezap zapX) (st [15, 0x10000000]))).empt = [0, 1] := by decide
-- fences: an older store open, none, both kinds of scope; fencep with cores 511 and 512
theorem witness_fence : Meets (.fence { x0 with m := 0x3600 }) { x0 with m := 0x3600 } (tFib []) id id (fun d => { d with ops := [older] }) (fun s r => s.d.olderOpen r.w r.k 11 = true) ∧
    RunsWith (.fence { x0 with m := 0x3600 }) { x0 with m := 0x3600 } [] (fun s r => s.d.scopeWide s.env r.g 3 0 = true) ∧
    RunsWith (.fence { x0 with m := 0x0600 }) { x0 with m := 0x0600 } [] (fun s r => s.d.scopeWide s.env r.g 0 0 = false) :=
  ⟨meets (by decide), meets (by decide), meets (by decide)⟩
theorem witness_fencep : Runs (.fencep { x0 with m := 0x3200 }) { x0 with m := 0x3200 } [511] ∧ Runs (.fencep { x0 with m := 0x3200 }) { x0 with m := 0x3200 } [512] ∧
    Runs (.fencep { x0 with m := 0x1200 }) { x0 with m := 0x1200 } [1] := ⟨of (by decide), of (by decide), of (by decide)⟩
-- cont: no pool, a full pool, room
def contX : X := { x0 with bi := true, b := 8 }
def poolOf (n : Nat) (l : Launch) : Launch := { l with kind := .pool, r := { tRec with pool := 0x5000 }, poolBase := 0x6000, poolLog := 10, poolPut := n, poolGet := 0 }
theorem witness_cont : Runs (.cont contX) contX [] ∧
    Meets (.cont contX) contX (tFib []) id (poolOf 1024) id (fun s r => s.d.poolCount r.l = 2 ^ r.l.poolLog) ∧
    Meets (.cont contX) contX (tFib []) id (poolOf 1023) id (fun s r => s.d.poolCount r.l < 2 ^ r.l.poolLog) := ⟨of (by decide), meets (by decide), meets (by decide)⟩

-- the pool front end: a bin that has the record's PCOFF, an empty bin, an age limit on its cc
def poolL (bins : List Bin) : Launch := { poolOf 2 tLaunch with bins := bins ++ List.replicate (64 - bins.length) { recs := [] } }
def poolState (l : Launch) (gs : List WG) (b : Nat) : State :=
  { clock := 1000
    mem := [(0x3008, 0), (0x300D, 1), (0x6000, 0x40), (0x6004, 9)].filter fun c => c.2 ≠ 0
    d := { nextId := 10, wgs := gs, launches := [{ l with ctx := { ranges := 0xFF * 2 ^ 44 + 0x3000 } }], arg := { a := 5, b := b } } }
def poolBin : Bin := { pcoff := 0x40, recs := [[0x40, 1, 2, 3, 4, 5, 6, 7]], since := 1000 }
theorem witness_pool_record : ∀ l ∈ [poolL [poolBin], poolL [{ poolBin with pcoff := 0x80 }], poolL []],
    (poolState l [] 0).d.wb = [] ∧ (poolState l [] 0).d.ops = [] ∧ l.held = false ∧ l.poolGet < l.poolPut ∧ l.bins.length = 64 ∧ l.initGet = l.initN := by decide
theorem witness_bin_age : let s := poolState { poolL [poolBin] with r := { tRec with pool := 1, binage := 0 } } [] 0
    (s.d.launch? 5).any (fun l => (l.bins[0]?).any fun b => b.recs ≠ [] && b.since + l.r.binage = s.clock) = true ∧ s.d.wgs = [] := by decide
theorem witness_pool_form : let s := poolState { poolL [{ poolBin with recs := List.replicate 64 [0x40, 1, 2, 3, 4, 5, 6, 7] }] with r := { tRec with pool := 1 } } [] 0
    (s.d.launch? 5).any (fun l => (l.bins[0]?).any fun b => b.recs.length = l.r.fcap && 7 ≤ l.r.w) = true ∧ s.d.wgs = [] ∧
    (s.d.launches.filter fun l => l.id = 5).length = 1 := by decide +kernel
theorem test_pool_fibre : ((after (exec .poolWorkgroupForm (poolState { poolL [poolBin] with r := { tRec with pool := 1, fcap := 1 } } [] 0))).d.wgs.map fun g =>
    (g.fib? 0).map fun f => (f.pc, f.win.take 9, f.preds)) = [some (0x40, [1, 2, 3, 4, 5, 6, 7, 0, 0], 1)] := by decide +kernel
-- R31: PCOFF at the end of the text, and between words
def startState (pc : DWord) : State := tState { tWg [{ tFib [] with started := false, pc := pc }] with kind := .pool } { tLaunch with kind := .pool }
theorem witness_bad_start : ∀ pc ∈ [(4096 : DWord), 6], (startState pc).d.fib? 3 0 = some { tFib [] with started := false, pc := pc } ∧
    ((startState pc).d.wg? 3).map (·.kind) = some .pool ∧ (pc.toNat % 4 ≠ 0 ∨ 4096 ≤ pc.toNat) := by
  intro pc h
  simp only [List.mem_cons, List.not_mem_nil, or_false] at h
  rcases h with rfl | rfl
  · exact ⟨rfl, rfl, .inr (by decide)⟩
  · exact ⟨rfl, rfl, .inl (by decide)⟩
theorem test_bad_start : (trapOf (step (startState 4096))).map (·.1) = some 0x02 := by decide

-- copies: 32 and 33 bytes, a destination between granules, a counter that is full
def cpyX (n : Nat) : X := { x0 with d := 2, bi := true, b := BitVec.ofNat 8 n }
theorem witness_cpy : RunsWith (.cpy (cpyX 32)) (cpyX 32) [0x1000, 0, 4064, 0x10000000] (fun s r =>
      gives (spanOk r.g (issuedFib r.g r.f) r.l r.k (0x10000000 * 2 ^ 32 + 4064) 0 32 [1] true) (.vault 0 4064) ∧ srcB s.clock r.g r.f (cpyX 32) 1 = 32 ∧
      gives (spanOk r.g (issuedFib r.g r.f) r.l r.k 0x1000 0 32 [0, 3, 4] false) (.glob 0x1000)) ∧
    Runs (.cpy (cpyX 33)) (cpyX 33) [0x1000, 0, 4064, 0x10000000] ∧ Runs (.cpy (cpyX 8)) (cpyX 8) [0x1000, 0, 4072, 0x10000000] ∧
    Runs (.cpy (cpyX 8)) (cpyX 8) [0x1000, 0, 4064, 0] ∧ Runs (.cpy (cpyX 8)) (cpyX 8) [0x1000, 0x20000000, 0, 0x10000000] ∧
    Meets (.cpy (cpyX 8)) (cpyX 8) { tFib [0x1000, 0, 0, 0x10000000] with cnt := [255] } id id id (fun _ r => r.f.cnt.getD 0 0 = 255) :=
  ⟨meets (by decide), of (by decide), of (by decide), of (by decide), of (by decide), meets (by decide)⟩
theorem witness_cpywait : Runs (.cpywait x0) x0 [] ∧ Meets (.cpywait x0) x0 { tFib [] with cnt := [1] } id id id (fun _ r => r.f.cnt.getD 0 0 = 1) ∧ Runs (.cpytest { x0 with d := 4, dx := 1 }) { x0 with d := 4, dx := 1 } [] :=
  ⟨of (by decide), meets (by decide), of (by decide)⟩
-- tcpy: one row of 16 bytes to the vault; a row too long for it; an uninitialised barrier register
def rowWords (n : Word) : List Word := [0x1000, 0, 0, 0x10000000, n, 0, 0, 0]
theorem witness_tcpy : RunsWith (.tcpy x0) x0 (rowWords 16) (fun _ r => (tcdOf 0 0 (r.f.words 0 8)).check r.g (issuedFib r.g r.f) r.l r.k 0 = none ∧
      tgtOf r.g r.l r.k (tcdOf 0 0 (r.f.words 0 8)).dst = .vault 0 0) ∧
    RunsWith (.tcpy x0) x0 (rowWords 4112) (fun _ r => (tcdOf 0 0 (r.f.words 0 8)).check r.g (issuedFib r.g r.f) r.l r.k 0 ≠ none) ∧
    RunsWith (.tcpy { x0 with m := 0x10000000 }) { x0 with m := 0x10000000 } (rowWords 16) (fun _ r => (r.g.bars.getD 0 {}).init = false) ∧
    Meets (.tcpy x0) x0 { tFib (rowWords 16) with cnt := [255] } id id id (fun _ r => r.f.cnt.getD 0 0 = 255) :=
  ⟨meets (by decide), meets (by decide), meets (by decide), meets (by decide)⟩
def commitX : X := { x0 with dx := 1, b := 10 }
def commitWords (n dst : Word) : List Word := [0x1000, 0, dst, 0, n, 0, 0, 0, 0, 0, 5, 0]
theorem witness_tcpyc : RunsWith (.tcpyc commitX) commitX (commitWords 4096 0x2008) (fun _ r => (tcdOf 0 0 (r.f.words 0 8)).check r.g (issuedFib r.g r.f) r.l r.k 0 = none ∧
      (tcdOf 0 0 (r.f.words 0 8)).bytes = 4096) ∧
    RunsWith (.tcpyc commitX) commitX (commitWords 4112 0x2008) (fun _ r => (tcdOf 0 0 (r.f.words 0 8)).bytes = 4112) ∧
    RunsWith (.tcpyc commitX) commitX (commitWords 64 0x2004) (fun _ r => ptrAddr (tcdOf 0 0 (r.f.words 0 8)).dst % 8 = 4) :=
  ⟨meets (by decide), meets (by decide), meets (by decide)⟩
-- a copy of 32 bytes that lands
def cpyOp : Op := { id := 4, kind := .cpy, wg := 3, fib := 0, ord := 0, grp := 1, addr := 0x1060, size := 32, st := natWords 2 (2 ^ 60 + 4064), act := .write [] }
def cpyState : State :=
  let s := tState (tWg [{ tFib [] with cnt := [1] }]) tLaunch
  { s with mem := [(0x1060, 9)], d := { s.d with ops := [cpyOp], arg := { a := 4 } } }
theorem witness_copy_lands : cpyState.d.op? 4 = some cpyOp ∧ (cpyState.d.ops.filter fun q => q.id = 4) = [cpyOp] ∧ cpyState.d.writesBefore cpyOp = false ∧ cpyState.d.copyBefore cpyOp = false ∧
    (∀ j < 32, rangeLookup (tWg []).rng (0x1060 + j) = some (0xFF * 2 ^ 44 + 0x1060 + j)) ∧ 0x1060 % 128 + 32 = 128 ∧ wordsNat cpyOp.st = 2 ^ 60 + 4064 := by decide
theorem test_copy_lands : let g := group (exec .cpyLanding cpyState); g.vaultBytes 4064 2 = [9, 0] ∧ (g.fib? 0).map (·.cnt) = some [0] := by decide
-- a unit of a tile copy in global memory: the first, the last of the window, one beyond it
def tcpyOp : Op := { id := 4, kind := .tcpy, wg := 3, fib := 0, ord := 0, grp := 1, size := 2048, st := [0x1000, 0, 0x8000, 0, 2048, 0, 0, 0, 0], act := .write [], due := 50 }
def tcpyState (u : Nat) : State :=
  let s := tState (tWg [{ tFib [] with cnt := [1] }]) tLaunch
  { s with d := { s.d with ops := [tcpyOp], arg := { a := 4, b := u } } }
theorem witness_copy_unit : ∀ u ∈ [0, 63], (tcpyState u).d.op? 4 = some tcpyOp ∧ tcpyOp.unitDone u = false ∧ u < tcpyOp.mark + 64 ∧ (tcpyState u).d.writesBefore tcpyOp = false ∧
    tcpyOp.tcd.behind tcpyOp u = false ∧ tcpyOp.tcd.mode = 0 ∧ tcpyOp.tcd.unitAt tcpyOp.tcd.dstRows 0 u = some (0, 16 * u, 16) := by decide
theorem test_copy_unit : ((after (exec .copyUnitComplete (tcpyState 0))).d.ops.map fun o => (o.mark, o.win)) = [(1, 0)] ∧
    (after (exec .copyUnitComplete (tcpyState 64))) = tcpyState 64 := by decide +kernel
def commitOp : Op := { id := 4, kind := .tcpyc, wg := 3, fib := 0, ord := 0, grp := 1, size := 16, st := [0x1000, 0, 0x2008, 0, 16, 0, 0, 0, 5, 0], dxp := some 1, due := 50 }
def commitState (v : Byte) : State :=
  let s := tState (tWg [{ tFib [] with pend := [1], wait := .op 4 }]) tLaunch
  { s with mem := [(0x1000, 7), (0x2000, v)], d := { s.d with ops := [commitOp], arg := { a := 4 } } }
theorem witness_commit : ∀ v ∈ [(5 : Byte), 6], (commitState v).d.op? 4 = some commitOp ∧ (commitState v).d.olderOpen 3 0 4 = false ∧ (commitState v).d.parksOpen 3 0 = false ∧
    (tgtOf (tWg []) tLaunch 0 commitOp.tcd.dst).plus (-8) = .glob 0x2000 := by decide
theorem test_commit : (fibre (exec .tcpycCommit (commitState 5))).pred 1 = true ∧ (after (exec .tcpycCommit (commitState 5))).mem = [(0x1000, 7), (0x2000, 6), (0x2008, 7)] := by decide
theorem test_commit_other_version : (fibre (exec .tcpycCommit (commitState 6))).pred 1 = false ∧ (after (exec .tcpycCommit (commitState 6))).mem = [(0x1000, 7), (0x2000, 6)] := by decide

-- matrix: room, none, a misaligned stride, a vector, a plan of another member's vault
def matX (m : Nat) : X := { x0 with b := 2, m := BitVec.ofNat 32 m }
def mops16 (g : WG) : WG := { g with mops := (List.range 16).map fun n => { id := n, kind := .aclr, fib := 0, arrivals := [0], ord := n, relAt := 1, m := 0 } }
theorem witness_matrix : Runs (.gang { x0 with d := 3, bi := true, b := 3 }) { x0 with d := 3, bi := true, b := 3 } [] ∧ Runs (.aclr (matX 0x00801000)) (matX 0x00801000) [] ∧
    Meets (.acvt { x0 with m := 0x00800000 + 0x12 }) { x0 with m := 0x00800000 + 0x12 } (tFib []) mops16 id id (fun _ r => r.g.mops.length = 16) :=
  ⟨of (by decide), of (by decide), meets (by decide)⟩
theorem witness_gang_held : Meets (.gang { x0 with d := 3, bi := true, b := 3 }) { x0 with d := 3, bi := true, b := 3 } (tFib [])
    (fun g => { g with fibs := g.fibs.set 1 { tFib [] with wait := .latch 3 true (.mma x0) } }) id id
    (fun _ r => ((r.g.fib? 1).map fun h => (h.live, h.wait)) = some (true, .latch 3 true (.mma x0))) := meets (by decide)
theorem witness_ald : RunsWith (.ast (matX 0)) (matX 0) [0, 0x10000000, 128] (fun s r => gives (spanOk r.g (issuedFib r.g r.f) r.l r.k (0x10000000 * 2 ^ 32)
      (rowSpan 32 (asInt 32 true (srcB s.clock r.g r.f (matX 0) 1)) 128).1 (rowSpan 32 (asInt 32 true (srcB s.clock r.g r.f (matX 0) 1)) 128).2 [0, 1, 3] true) (.vault 0 0)) ∧
    Runs (.ald (matX 0)) (matX 0) [0x1002, 0, 128] ∧ Runs (.ald (matX 0)) (matX 0) [0, 0x20000000, 128] := ⟨meets (by decide), of (by decide), of (by decide)⟩
theorem witness_ascl : Runs (.ascl { x0 with m := 0x400 }) { x0 with m := 0x400 } [0x80, 0x10000000] ∧ Runs (.ascl { x0 with m := 0x400 }) { x0 with m := 0x400 } [0x40, 0x10000000] ∧
    Runs (.ascl { x0 with b := 2, m := 0x200 }) { x0 with b := 2, m := 0x200 } [0, 0, 0, 0x10000000] := ⟨of (by decide), of (by decide), of (by decide)⟩
def intSlot (l : Launch) : Launch := { l with r := { tRec with fmt := [0x10] } }
theorem witness_plan : Meets (.plan x0) x0 (tFib [0, 0x10000000]) id intSlot id (fun _ _ => True) ∧ Meets (.plan x0) x0 (tFib [0, 0x10100000]) id intSlot id (fun _ _ => True) ∧
    Meets (.plan x0) x0 (tFib [0, 0]) id intSlot id (fun _ _ => True) := ⟨meets (by decide), meets (by decide), meets (by decide)⟩
theorem witness_await : Runs (.await { x0 with m := 0x400 }) { x0 with m := 0x400 } [] ∧ Meets (.await { x0 with m := 0x400 }) { x0 with m := 0x400 } (tFib []) mops16 id id (fun _ r => r.g.mops ≠ []) ∧
    Meets (.awaitTest { x0 with dx := 1, m := 0xC00 }) { x0 with dx := 1, m := 0xC00 } (tFib []) mops16 id id (fun _ _ => True) := ⟨of (by decide), meets (by decide), meets (by decide)⟩
-- the Belay latch: too few squads; the last arrival with every guard true, every guard false, and both
def mmaX : X := { x0 with a := 0, b := 2, m := 0x00801008 }
def slots2 (l : Launch) : Launch := { l with r := { tRec with fmt := [0x10, 0x10, 0, 0, 0, 0, 0, 0] } }
def twoSquads (i : Instr) (b : Bool) (g : WG) : WG :=
  { g with gangs := [0, 3, 0, 0], fibs := g.fibs.set 32 { tFib [] with wait := .latch 1 b i } }
def mmaF : Fib := tFib [0x80, 0x10000000, 0x800, 0x10000000]
theorem witness_latch : Meets (.mma mmaX) mmaX mmaF id slots2 id (fun _ r => r.g.gangs.getD 1 0 = 0) ∧
    Meets (.mma mmaX) mmaX mmaF (twoSquads (.mma mmaX) true) slots2 id (fun _ r => r.g.gangs.getD 1 0 = 3 ∧ ((r.g.fib? 32).bind (latched 1)) = some true ∧ r.g.halt = .none) ∧
    Meets (.mma mmaX) mmaX mmaF (twoSquads (.mma mmaX) false) slots2 id (fun _ r => ((r.g.fib? 32).bind (latched 1)) = some false) ∧
    Meets (.mma mmaX) mmaX mmaF (fun g => { g with gangs := [0, 3, 0, 0], fibs := g.fibs.set 32 (tFib []) }) slots2 id (fun _ r => ((r.g.fib? 32).bind (latched 1)) = none) :=
  ⟨meets (by decide), meets (by decide), meets (by decide), meets (by decide)⟩
theorem witness_latch_false : let x : X := { mmaX with pg := 1 }
    let g := twoSquads (.mma x) false (tWg [mmaF])
    Arrives (tRun g (slots2 tLaunch)) (.mma x) x (tState g (slots2 tLaunch)) false := by
  refine ⟨⟨⟨0, 0, rfl⟩, by decide, by decide, by decide, by decide, rfl⟩, ⟨_, rfl, by decide, by decide⟩, by decide, by decide, by decide⟩
-- a step of an `aclr` of two tiles, and its last
def aclrOp (mark : Nat) : MOp := { id := 8, kind := .aclr, fib := 0, arrivals := [0], ord := 0, relAt := 1, m := 0x00000800, b := 7, started := true, startAt := 5, mark := mark }
def matState (o : MOp) : State :=
  let s := tState { tWg [tFib []] with mops := [o] } tLaunch
  { s with d := { s.d with arg := { a := 3, b := 8 } } }
theorem witness_matrix_step : ∀ k ∈ [0, 1], ((matState (aclrOp k)).d.wg? 3).bind (fun g => g.mops.find? fun p => p.id = 8) = some (aclrOp k) ∧ (aclrOp k).steps = 2 := by decide
theorem witness_matrix_start : (matState { aclrOp 0 with started := false }).d.mopNext 0 false = some (3, 8) := by decide
def aclrDone : WG := group (exec .matrixStepComplete
  (let s := tState { tWg [tFib []] with mops := [{ aclrOp 1 with b := 0 }], tiles := [(1029, 9)] } tLaunch
   { s with d := { s.d with arg := { a := 3, b := 8 } } }))
theorem test_aclr_last : (aclrDone.mops.length, aclrDone.tileWord 1 5) = (0, 0) := by decide +kernel
-- a fragment transfer of columns 30 and 31, and one column beyond
def fragX : X := { x0 with form := .extLit, d := 8, bi := true, m := 0x00040400 }
def fragWg (i : Instr) : WG :=
  let f : Fib := { tFib [] with wait := .latch 1 true i }
  { tWg [f] with gangs := [0, 3, 0, 0], fibs := ((tWg [f]).fibs.set 32 f) }
def fragState (x : X) : State :=
  let s := tState (fragWg (.astFrag x)) tLaunch
  { s with d := { s.d with ropes := [], arg := { a := 3, b := 1 } } }
theorem witness_fragment : ∀ x ∈ [{ fragX with lit := 30 }, { fragX with lit := 31 }], gangRule (.astFrag x) = some (x, 1) ∧
    ((fragState x).d.wg? 3).any (fun g => decide (latchState g 1 = .arrived (.astFrag x)) && (fragState x).d.fragReady g 1 && decide (latchParty g 1 = [0, 32])) = true := by decide

-- mesh output: the last vertex and the word quad at its limit, the last primitive, the counts
def meshWg (g : WG) : WG := { g with kind := .mesh }
def meshL (l : Launch) : Launch := { l with kind := .mesh, meshV := 4, meshP := 2, meshA := 32 }
theorem witness_mesh_output : Meets (.mvtx { x0 with b := 4, m := 0x04000000 }) { x0 with b := 4, m := 0x04000000 } (tFib [3, 0, 0, 0, 7, 8, 9, 10]) meshWg meshL id
      (fun s r => srcA s.clock r.g r.f { x0 with b := 4, m := 0x04000000 } 1 < r.l.meshV) ∧
    Meets (.mvtx { x0 with b := 4 }) { x0 with b := 4 } (tFib [4]) meshWg meshL id (fun s r => srcA s.clock r.g r.f { x0 with b := 4 } 1 ≥ r.l.meshV) ∧
    Meets (.mprim { x0 with b := 1 }) { x0 with b := 1 } (tFib [1, 0xFFFFFF]) meshWg meshL id (fun s r => ((s.d.pass? r.l.pass).map Pass.topo).getD 2 + 1 = 3) ∧
    Meets (.mprim { x0 with b := 1 }) { x0 with b := 1 } (tFib [1, 0x1000000]) meshWg meshL id (fun s r => srcB s.clock r.g r.f { x0 with b := 1 } 1 ≥ 256 ^ 3) ∧
    Meets (.mprim { x0 with m := 0x00800000 }) { x0 with m := 0x00800000 } (tFib [1]) meshWg meshL id (fun _ _ => True) ∧
    Meets (.mend { x0 with b := 1 }) { x0 with b := 1 } (tFib [4, 2]) meshWg meshL id (fun _ r => ∀ h ∈ r.g.fibs, h.wait = .none) ∧
    Meets (.mend { x0 with b := 1 }) { x0 with b := 1 } (tFib [4, 3]) meshWg meshL id (fun _ _ => True) :=
  ⟨meets (by decide), meets (by decide), meets (by decide), meets (by decide), meets (by decide), meets (by decide), meets (by decide)⟩

-- a pass of four samples with a target of four bytes and one of eight, and a k-buffer
def passBytes (fs : List (Nat × Byte)) : List Byte := (List.range 384).map fun i => ((fs.find? fun p => p.1 = i).map (·.2)).getD 0#8
def tPrim : Prim :=
  { draw := 1, g := 0, p := 0, part := 0, front := true, topo := 2, xs := [0, 2560, 0], ys := [0, 0, 2560], zs := [0, 0, 0]
    ws := [0x3F800000, 0x3F800000, 0x3F800000], attrs := [[1], [2], [3]], flat := [0x40400000] }
def tPass : Pass :=
  { id := 9, launch := 5, pkt := 1, prims := [tPrim], initAt := 1000
    blk := passBytes [(2, 4), (3, 2), (12, 16), (14, 16), (24, 32), (26, 1), (33, 0x60), (97, 0x40), (104, 64), (109, 1), (112, 4), (129, 0x50), (136, 128), (144, 2)] }
def tPixel : Pixel := { x := 2, y := 3, s := 4, cov := 6, draw := 1, g := 0, p := 0, part := 0, cov0 := 6 }
def pixFib (ws : List Word) : Fib := { tFib ws with pixel := some tPixel }
def pixWg (g : WG) : WG := { g with kind := .pixel }
def pixL (l : Launch) : Launch := { l with kind := .pixel, pass := 9 }
def inPass (p : Pass) (d : Dev) : Dev := { d with passes := [p] }
def attrX (m : Nat) : X := { x0 with d := 4, m := BitVec.ofNat 32 m }
def atPixel (i : Instr) (x : X) (f : Fib) (P : State → Run → Prop) : Prop := Meets i x f pixWg pixL (inPass tPass) P
theorem witness_attr : atPixel (.attr (attrX 0)) (attrX 0) (pixFib []) (fun s r => r.f.pixel = some tPixel ∧ (s.d.pass? r.l.pass).bind (·.prim? tPixel) = some tPrim) ∧
    atPixel (.attr (attrX 0x02000000)) (attrX 0x02000000) (pixFib []) (fun _ _ => tPixel.cov0 ≠ 2 ^ tPixel.s - 1) ∧
    atPixel (.attr (attrX 0x04800000)) (attrX 0x04800000) (pixFib [3]) (fun s r => srcB s.clock r.g r.f (attrX 0x04800000) 1 = 3) ∧
    atPixel (.attr (attrX 0x04800000)) (attrX 0x04800000) (pixFib [4]) (fun s r => srcB s.clock r.g r.f (attrX 0x04800000) 1 = 4) ∧
    atPixel (.attr (attrX 0x01000000)) (attrX 0x01000000) (pixFib []) (fun _ _ => True) ∧
    atPixel (.attr (attrX 0x08000000)) (attrX 0x08000000) (pixFib []) (fun _ _ => tPrim.flat.length = 1) ∧
    atPixel (.attr (attrX 0)) (attrX 0) (tFib []) (fun _ r => r.f.pixel = none) ∧ atPixel (.pxdisc x0) x0 (pixFib [2]) (fun _ _ => True) :=
  ⟨meets (by decide), meets (by decide), meets (by decide), meets (by decide), meets (by decide), meets (by decide), meets (by decide), meets (by decide)⟩
-- by hand: a pixel of a plane 0 → 2 → 0 across x; its flat word
theorem test_attr_flat : words (exec (.attr (attrX 0x01000000)) (stOf (pixFib []) pixWg pixL (inPass tPass))) 4 1 = [0x40400000] := by decide +kernel
theorem test_attr_linear : let p : Pass := { tPass with prims := [{ tPrim with attrs := [[0], [0x41200000], [0]] }] }
    words (exec (.attr (attrX 0x00800000)) (stOf (pixFib []) pixWg pixL (inPass p))) 4 1 = [0x40200000] := by decide +kernel
theorem test_pxdisc : (fibre (exec (.pxdisc x0) (stOf (pixFib [2]) pixWg pixL (inPass tPass)))).pixel.map (·.cov) = some 4 := by decide +kernel
-- the output merger: bound and unbound targets, a pair at the end of the window, nothing covered, a full queue
def busy (n : Nat) (d : Dev) : Dev :=
  { d with ops := (List.range n).map fun k => { id := k, kind := .omst, wg := 4, fib := 0, addr := 9, st := [2, 3, 1, 1, 0, 0] } }
def omX (t b : Nat) : X := { x0 with d := 4, a := 2, b := BitVec.ofNat 8 b, m := BitVec.ofNat 32 (t * 2 ^ 23) }
theorem witness_omst : atPixel (.omst (omX 0 0)) (omX 0 0) (pixFib []) (fun s r => r.f.emp = [] ∧ s.d.mergerLoad 0 = 0 ∧ ((inPass tPass s.d).passes.map fun p => (p.target 0).bound) = [true]) ∧
    atPixel (.omst (omX 2 0)) (omX 2 0) (pixFib []) (fun _ _ => (tPass.target 2).bound = false) ∧
    atPixel (.omst { omX 1 0 with a := 30 }) { omX 1 0 with a := 30 } (pixFib []) (fun _ _ => (tPass.target 1).b = 8) ∧
    atPixel (.omst { omX 1 0 with a := 31 }) { omX 1 0 with a := 31 } (pixFib []) (fun _ _ => (tPass.target 1).b = 8) ∧
    atPixel (.omst (omX 0 0)) (omX 0 0) { pixFib [] with pixel := some { tPixel with cov := 0 } } (fun _ _ => True) :=
  ⟨meets (by decide), meets (by decide), meets (by decide), meets (by decide), meets (by decide)⟩
theorem witness_omst_full : Meets (.omst (omX 0 0)) (omX 0 0) (pixFib []) pixWg pixL (fun d => inPass tPass (busy 1024 d)) (fun s _ => s.d.mergerLoad 0 ≥ 1024) := meets (by decide +kernel)
theorem witness_omld : atPixel (.omld (omX 0 0)) (omX 0 0) (pixFib [3]) (fun s r => srcB s.clock r.g r.f (omX 0 0) 1 = 3) ∧ atPixel (.omld (omX 0 0)) (omX 0 0) (pixFib [4]) (fun _ _ => True) ∧
    atPixel (.kbins (omX 0 4)) (omX 0 4) (pixFib [0, 0, 0x3F000000]) (fun _ _ => tPass.kb = true ∧ (fF32.val 0x3F000000).isNaN = false) ∧
    atPixel (.kbins (omX 0 4)) (omX 0 4) (pixFib [0, 0, 0x7FC00000]) (fun _ _ => (fF32.val 0x7FC00000).isNaN = true) :=
  ⟨meets (by decide), meets (by decide), meets (by decide), meets (by decide)⟩
-- and what it performs
def mergeOp (k : OpKind) (m : Nat) (data : List Word) : Op :=
  { id := 4, kind := k, wg := 3, fib := 0, addr := 9, m := BitVec.ofNat 32 m, st := [2, 3, 6, 1, 0, 0] ++ data, dst := 4, dn := 1, mark := 3, due := 50 }
def mergeState (o : Op) (q : List Quad) : State :=
  let s := tState { tWg [tFib []] with kind := .pixel } (pixL tLaunch)
  { s with d := { s.d with ops := [o], passes := [{ tPass with quads := q, rng := (tWg []).rng }], arg := { a := 4 } } }
def laterQuad : Quad := { rx := 0, ry := 0, draw := 1, g := 0, p := 1, x := 2, y := 2, cov := [1, 1, 1, 1], parts := [0, 0, 0, 0], since := 0 }
def merged (o : Op) (q : List Quad) : State := after (exec .mergerAccessPerformed (mergeState o q))
theorem witness_merger : (mergeState (mergeOp .omst 0 [7]) []).d.op? 4 = some (mergeOp .omst 0 [7]) ∧ (mergeState (mergeOp .omst 0 [7]) []).d.wb = [] ∧
    ((mergeState (mergeOp .omst 0 [7]) []).d.pass? 9).map (·.id) = some 9 := by decide +kernel
theorem test_omst_samples : (merged (mergeOp .omst 0 [7]) [laterQuad]).mem = [(0x41C8, 7), (0x42C8, 7)] ∧ (merged (mergeOp .omst 0 [7]) [laterQuad]).d.ops = [] := by decide +kernel
theorem test_merger_waits : merged (mergeOp .omst 0 [7]) [{ laterQuad with p := 0, g := 0, draw := 0 }] = mergeState (mergeOp .omst 0 [7]) [{ laterQuad with p := 0, g := 0, draw := 0 }] := by decide +kernel

-- samplers and traversal: a sampled texture, a texel, a ray, a candidate; a pointer to the vault
def texX (m : Nat) : X := { x0 with d := 12, dx := 1, b := 4, c := 8, m := BitVec.ofNat 32 m }
def unitRes (q : Nat) (r : Run) : Except (Nat × Nat) Tgt := resolve r.g { issuedFib r.g r.f with hnd := true } r.l r.k q 64 [0, 3, 4] 1 true false
theorem witness_smp : RunsWith (.smp (texX 0x0B000000)) (texX 0x0B000000) [0x1000, 0] (fun _ r => gives (unitRes (r.f.nat 0 2) r) (.glob 0x1000) = true) ∧
    RunsWith (.smp (texX 0)) (texX 0) [0x1000, 0x10000000] (fun _ r => fails (unitRes (r.f.nat 0 2) r) (cSpaceInvalid, 0x1000000000001000) = true) ∧
    RunsWith (.tld (texX 0x03000000)) (texX 0x03000000) [0x1000, 0] (fun _ r => gives (unitRes (r.f.nat 0 2) r) (.glob 0x1000) = true) :=
  ⟨meets (by decide), meets (by decide), meets (by decide)⟩
def rayWords : List Word := [0, 0, 0, 0x3F800000, 0, 0, 0, 0x7F800000]
def traceX : X := { x0 with b := 8, c := 10, d := 16 }
def tTrav : Trav := { ray := rayWords, flags := 0, root := 0x1000, inst := 0, refs := [], commit := [], commitKey := [], cand := [0, 1, 2, 3, 4, 5, 6, 7], candKey := [1], tcur := 0, stage := 1 }
def travOp : Op := { id := 4, kind := .trav, wg := 3, fib := 0, dst := 16, dn := 8, addr := 0x1000, due := 50 }
theorem witness_trace : RunsWith (.trace traceX) traceX (rayWords ++ [0x1000, 0, 0xFFF]) (fun s r => s.d.ops = [] ∧ gives (unitRes (r.f.nat 8 2) r) (.glob 0x1000) = true) ∧
    Runs (.trace traceX) traceX (rayWords ++ [0x1000, 0, 0x1000]) ∧
    RunsWith (.trace traceX) traceX (rayWords ++ [0x1000, 0x50000000, 0]) (fun _ r => fails (unitRes (r.f.nat 8 2) r) (cSpaceInvalid, 0x5000000000001000) = true) ∧
    Meets (.trace traceX) traceX (tFib (rayWords ++ [0x1000, 0, 0])) id id (fun d => { d with ops := [travOp] }) (fun _ _ => True) :=
  ⟨meets (by decide), of (by decide), meets (by decide), meets (by decide)⟩
def contTX (b : Nat) : X := { x0 with d := 16, bi := true, b := BitVec.ofNat 8 b }
theorem witness_trcont : (∀ b ∈ [0, 1, 2, 3], (rnOf { tFib [] with trav := some tTrav } id id).Of (.trcont (contTX b)) (contTX b) (stOf { tFib [] with trav := some tTrav } id id id)) ∧
    Runs (.trcont (contTX 0)) (contTX 0) [] := by
  refine ⟨fun b h => ?_, of (by decide)⟩
  simp only [List.mem_cons, List.not_mem_nil, or_false] at h
  rcases h with rfl | rfl | rfl | rfl <;> exact of (by decide)
-- what lands
def texOp (k : OpKind) (st : List Word) : Op :=
  { id := 4, kind := k, wg := 3, fib := 0, dst := 12, dn := 1, dxp := some 1, addr := 0x1000, size := 0x1000, st := st, due := 50 }
def texState (o : Op) (f : Fib) (m : List Host.Cell) : State :=
  let s := tState (tWg [f]) tLaunch
  { s with mem := m, d := { s.d with ops := [o], arg := { a := 4 } } }
def sampler3 : Asker := { wg := 3, core := 0, unit := 2 }
-- the example after R312
def cells (a : Nat) (bs : List Byte) : List Host.Cell := (bs.zipIdx.map fun p => (a + p.2, p.1)).filter fun c => c.2 ≠ 0
def texMem : List Host.Cell :=
  cells 0x1000 [0, 0x20, 0, 0, 0, 0, 0, 0, 0, 0, 0, 0, 0, 0, 0, 0, 3, 0, 3, 0, 1, 0, 5, 1] ++ [(0x2011, 255), (0x2020, 51), (0x2021, 102)]
def smpOp : Op := { texOp .smp [0x3E99999A, 0x3F000000, 0] with m := 0x33000000, dst := 20, dn := 4, dxp := some 3 }
theorem test_smp : let f := fibre (exec .sampleLands (texState smpOp { tFib [] with pend := [3] } texMem))
    (f.words 20 4, f.pred 3, f.pend) = ([0x3F050000, 0, 0, 0x3F800000], true, []) := by decide +kernel
theorem witness_sample_lands : (match sampleRun (texState smpOp (tFib []) texMem).env (tWg [tFib []]) sampler3 0x1000 { twin 0#2 false with m := 0x33000000 } [0x3E99999A, 0x3F000000, 0] []
      (texState smpOp (tFib []) texMem).d with
     | (.ok _ false, d) => decide (d.wgs = (texState smpOp (tFib []) texMem).d.wgs)
     | _ => false) = true ∧ (texState smpOp (tFib []) texMem).d.op? 4 = some smpOp ∧ (texState smpOp (tFib []) texMem).d.unitWaits smpOp = false ∧ smpOp.m.toNat / 2 ^ 29 < 3 := by decide +kernel
theorem test_tld : (fibre (exec .texelLands (texState (texOp .tld [1, 1, 0, 0]) (tFib []) texMem))).word 12 = 0x3F800000 := by decide +kernel
theorem test_tld_outside : let f := fibre (exec .texelLands (texState (texOp .tld [4, 1, 0, 0]) { tFib [] with preds := 3 } texMem)); (f.word 12, f.pred 1) = (0, false) := by decide +kernel
-- the example after R343, below a box node
def triMem : List Host.Cell :=
  cells 0x1000 ([1, 1] ++ List.replicate 30 0 ++ [0, 0, 3, 1, 1, 3]) ++ [(0x1050, 2)] ++
  cells 0x1080 ([2, 1, 1, 0, 40] ++ List.replicate 11 0 ++ [0, 0, 0, 0, 0, 0, 0, 0, 0, 0, 0x40, 0x40] ++ [0, 0, 0x80, 0x3F, 0, 0, 0, 0, 0, 0, 0x40, 0x40] ++ [0, 0, 0, 0, 0, 0, 0x80, 0x3F, 0, 0, 0x40, 0x40])
def tRay : Trav := { tTrav with ray := [0x3E800000, 0x3E800000, 0xBF800000, 0, 0, 0, 0x3F800000, 0x7F800000], flags := 0xFF, stage := 0, cand := [], candKey := [], tcur := 0x7F800000
                                refs := [mkRef 0x1000 255 false] }
theorem test_trace : (fibre (exec .traversalRecordLands (texState travOp { tFib [] with trav := some tRay } triMem))).words 16 8 =
    [1, 0x40800000, 0x3E800000, 0x3E800000, 40, 0, 0, 0x42] := by decide +kernel
-- a candidate is found, and lands at most 16 cc later
theorem test_trace_candidate : let t := after (exec .traversalRecordLands (texState travOp { tFib [] with trav := some tRay } (triMem.filter fun c => c.1 ≠ 0x1082)))
    let f := fibre (exec .traversalRecordLands { t with clock := 108 })
    ((t.d.fib? 3 0).map (fun f => f.trav.map (·.stage)), t.d.ops.map (·.due), f.words 16 2, f.trav.map (·.stage)) = (some (some 2), [108], [2, 0x40800000], some 1) := by decide +kernel
def rayState (m : List Host.Cell) : State := texState travOp { tFib [] with trav := some tRay } m
def rayVisits (m : List Host.Cell) : Visit × Dev :=
  visits (rayState m).env (tWg [{ tFib [] with trav := some tRay }]) { sampler3 with unit := 3 } 256 tRay (rayState m).d
theorem witness_record_lands : (rayState triMem).d.op? 4 = some travOp ∧ (rayState triMem).d.unitWaits travOp = false ∧
    (match rayVisits triMem with
     | (.done _, d) => decide (d.wgs = (rayState triMem).d.wgs)
     | _ => false) = true ∧
    (match rayVisits (triMem.filter fun c => c.1 ≠ 0x1082) with
     | (.found _, _) => true
     | _ => false) = true := by decide +kernel

-- the raster engine: a mesh work-group that has ended, one that has not, and none
def rState (p : Pass) (gs : List WG) (b clock : Nat) : State :=
  { clock := clock, mem := []
    d := { nextId := 10, wgs := gs, passes := [p], arg := { a := 9, b := b }
           launches := [{ pixL tLaunch with r := { tRec with fcap := 32, fstart := 32 } }, { meshL tLaunch with id := 6, r := { tRec with em1 := [63, 1, 0, 0, 0, 0] } }] } }
def meshGroup (live : Bool) : WG := { tWg [{ tFib [] with live := live }] with mends := [(0, 3, 1)], kind := .mesh, launch := 6, gidx := 1, place := if live then .resident else .retired }
def drawPass : Pass := { tPass with prims := [], draws := [6], nextMesh := 1 }
theorem witness_primitive_setup : ∀ b ∈ [true, false], let s := rState drawPass [meshGroup b] 0 1000
    s.d.pass? 9 = some drawPass ∧ drawPass.begun = true ∧ drawPass.binned = false ∧ s.d.wgs.find? (fun g => g.launch = 6 && g.gidx = 1) = some (meshGroup b) ∧
    (s.d.launch? 6).any (fun l => drawPass.nextMesh < l.r.groups) = true ∧ ((meshGroup b).place = .retired ↔ b = false) := by
  intro b _
  cases b <;> decide +kernel
def lateQuad (since : Nat) : Quad := { laterQuad with since := since }
theorem witness_pixel_launch : ∀ q ∈ [744, 745], let p := { tPass with quads := [lateQuad q] }
    (rState p [] 0 1000).d.pass? 9 = some p ∧ p.begun = true ∧ (p.quads.filter fun q => q.rx + 512 * q.ry = 0 && q.open_) = [lateQuad q] ∧ p.numbers = [] ∧
    ¬ 4 * 1 ≥ p.fpix ∧ ((lateQuad q).since + 256 ≤ 1000 ↔ q = 744) := by
  intro q h
  simp only [List.mem_cons, List.not_mem_nil, or_false] at h
  rcases h with rfl | rfl <;> decide +kernel
theorem test_pixel_fibres : ((after (exec .pixelLaunchTimeout (rState { tPass with quads := [lateQuad 744] } [] 0 1000))).d.wgs.map fun g => (g.fibs.length, (g.fib? 3).map fun f => f.win.take 7)) =
    [(32, some [3, 3, 1, 1, 0, 0, 0])] := by decide +kernel
def endPass : Pass := { tPass with blk := passBytes [(2, 1), (12, 16), (14, 16), (24, 32)], closePkt := some 3 }
theorem witness_pass_end : (rState endPass [] 0 1000).d.pass? 9 = some endPass ∧ endPass.begun = true ∧ endPass.kb = false ∧ endPass.draws = [] ∧ endPass.quads = [] := by decide +kernel
theorem test_pass_end : (after (exec .passEnd (rState endPass [] 0 1000))).d.passes.map (·.ended) = [true] := by decide +kernel

-- supervisor mode: a record with PRIV, a context with FSVC, three fibres; the same in the handler
def svL (l : Launch) : Launch := { l with r := { tRec with priv := true } }
def svFib (ws : List Word) : Fib := { tFib ws with priv := true }
def svCtx (g : WG) : WG :=
  { g with fibs := (g.fibs.set 1 (tFib [])).set 2 { tFib [] with live := false }, ctx := { ctxd := 0x12345678AB, ctxid := 7, fsvc := true, tbase := 0x1000, tsize := 4096 }
           tscr := [1, 2, 3, 4], waddr := [5, 6], wctl := 0x1234, tval := 0x1122334455, tpc := 0x80, tcause := 0x80000011 }
def inHandler (g : WG) : WG :=
  let g := svCtx g
  { g with handling := true, halt := .trap, stopped := true, frozen := true, asyncsLater := [{ cause := 1, async := true, tval := 0, fib := 0 }]
           fibs := (g.fibs.map fun f => { f with skid := 1, pcause := 4 }).modify 0 fun f => { f with hnd := true, privBefore := true } }
def Sv (i : Instr) (x : X) (ws : List Word) (P : State → Run → Prop) : Prop := Meets i x (svFib ws) svCtx svL id P
def Hn (i : Instr) (x : X) (ws : List Word) (P : State → Run → Prop) : Prop := Meets i x (svFib ws) inHandler svL id P
def mX (m : Nat) : X := { x0 with m := BitVec.ofNat 32 m }
def idxX (m b : Nat) : X := { mX m with d := 6, bi := true, b := BitVec.ofNat 8 b }
theorem witness_sysrd : Sv (.sysrd (idxX 0x05000000 63)) (idxX 0x05000000 63) [] (fun s r => (systemRegister s r 0x050 63).isSome = true) ∧
    Sv (.sysrd (idxX 0x05000000 64)) (idxX 0x05000000 64) [] (fun _ r => r.l.r.fcap = 64) ∧
    Hn (.sysrd (idxX 0x05000000 0)) (idxX 0x05000000 0) [] (fun s r => systemRegister s r 0x050 0 = some (2, 0x80 + 2 ^ 32 * 4 + 2 ^ 41)) ∧
    Sv (.sysrd { mX 0 with d := 6 }) { mX 0 with d := 6 } [] (fun s r => systemRegister s r 0 0 = some (1, 1)) ∧
    Sv (.sysrd { mX 0x02000000 with d := 6 }) { mX 0x02000000 with d := 6 } [] (fun s r => systemRegister s r 0x20 0 = some (2, 0x12345678AB)) :=
  ⟨meets (by decide), meets (by decide), meets (by decide), meets (by decide), meets (by decide)⟩
theorem witness_syswr : Sv (.syswr (mX 0x01B00000)) (mX 0x01B00000) [7, 8] (fun _ _ => True) ∧ Sv (.syswr (mX 0x04100000)) (mX 0x04100000) [7, 8] (fun _ _ => True) ∧
    Sv (.syswr (mX 0x04400000)) (mX 0x04400000) [0x1010] (fun s r => srcA s.clock r.g r.f (mX 0x04400000) 1 = 0x1010) ∧
    Sv (.syswr (mX 0x04400000)) (mX 0x04400000) [0x1110] (fun s r => srcA s.clock r.g r.f (mX 0x04400000) 1 / 2 ^ 8 % 2 ^ 6 = 17) ∧
    Sv (.syswr (mX 0x03000000)) (mX 0x03000000) [0x1FFFFFF] (fun _ r => r.g.ctx.fsvc = true) ∧
    Meets (.syswr (mX 0x03000000)) (mX 0x03000000) (svFib []) id svL id (fun _ r => r.g.ctx.fsvc = false) :=
  ⟨meets (by decide), meets (by decide), meets (by decide), meets (by decide), meets (by decide), meets (by decide)⟩
theorem test_sysrd_tval : words (exec (.sysrd { mX 0x01200000 with d := 6 }) (stOf (svFib []) svCtx svL id)) 6 2 = [0x22334455, 0x11] := by decide +kernel
theorem witness_tret : Hn (.tretRetry (mX 0)) (mX 0) [] (fun s r => r.g.halt ≠ .preempt ∧ s.d.ops = []) ∧ Hn (.tretSkip (mX 0x00800000)) (mX 0x00800000) [] (fun _ _ => True) ∧
    Hn (.tretAt (mX 0x01000000)) (mX 0x01000000) [4092] (fun s r => srcA s.clock r.g r.f (mX 0x01000000) 1 = 4092) ∧
    Hn (.tretAt (mX 0x01000000)) (mX 0x01000000) [4096] (fun s r => srcA s.clock r.g r.f (mX 0x01000000) 1 = 4096) ∧
    Hn (.tretKill (mX 0x01800000)) (mX 0x01800000) [] (fun s r => (s.d.core r.g.core).laneH < 64) :=
  ⟨meets (by decide), meets (by decide), meets (by decide), meets (by decide), meets (by decide)⟩
theorem test_tret_retry : let g := group (exec (.tretRetry (mX 0)) (stOf (svFib []) inHandler svL id))
    (g.fibs.take 2).map (fun f => (f.pc, f.priv, f.hnd, f.skid, f.pcause)) = [(0x80, true, false, 0, 0), (0, false, false, 0, 0)] ∧ g.handling = false ∧ g.asyncs.length = 1 := by decide +kernel
-- what the word at `%tpc` says of its length
theorem witness_tret_skip : (match ((stOf (svFib []) inHandler svL id).d.popped []).fetchWord (stOf (svFib []) inHandler svL id).env (rnOf (svFib []) inHandler svL).g
      { svFib [] with hnd := false } (svL tLaunch) 0x80 with
    | (.ok v, _) => v.toNat
    | _ => 99) = 0 := by decide +kernel
theorem test_tret_skip : (fibre (exec (.tretSkip (mX 0x00800000)) (stOf (svFib []) inHandler svL id))).pc = 0x84 := by decide +kernel
def pageX (m n : Nat) : X := { mX m with bi := true, b := BitVec.ofNat 8 n }
theorem witness_privileged_control : Sv (.tmaskCrit (mX 0)) (mX 0) [] (fun _ r => r.f.critn = 0) ∧ Sv (.tmaskEnd (mX 0x00800000)) (mX 0x00800000) [] (fun _ _ => True) ∧
    Sv (.cachex (mX 0x01800000)) (mX 0x01800000) [] (fun _ _ => True) ∧
    Sv (.mtuinvInv (pageX 0 1)) (pageX 0 1) [0x30000, 0] (fun s _ => s.d.ops = [] ∧ s.d.l2 = []) ∧ Sv (.mtuinvInv (pageX 0 0)) (pageX 0 0) [0x30000, 0] (fun _ _ => True) ∧
    Sv (.mtuinvRel (pageX 0x00800000 1)) (pageX 0x00800000 1) [0x30001, 0] (fun _ _ => True) ∧
    Sv (.frmput { mX 0 with dx := 2 }) { mX 0 with dx := 2 } [0x30000, 0] (fun s _ => s.d.ops = [] ∧ s.d.fifoS.length < 8192) ∧
    Sv (.frmput { mX 0x00800000 with dx := 2 }) { mX 0x00800000 with dx := 2 } [0x30000, 0] (fun _ _ => 0x30000 % 2 ^ 25 ≠ 0) ∧
    Sv (.wgctlYield (mX 0)) (mX 0) [] (fun _ _ => True) :=
  ⟨meets (by decide), meets (by decide), meets (by decide), meets (by decide), meets (by decide), meets (by decide), meets (by decide), meets (by decide), meets (by decide)⟩
theorem witness_wgctl : Hn (.wgctlSetpc { mX 0x00800000 with b := 1 }) { mX 0x00800000 with b := 1 } [63, 4092] (fun _ _ => True) ∧
    Hn (.wgctlSetpc { mX 0x00800000 with b := 1 }) { mX 0x00800000 with b := 1 } [0, 4092] (fun s r => srcA s.clock r.g r.f (mX 0x00800000) 1 = r.k) ∧
    Hn (.wgctlKill (mX 0x01000000)) (mX 0x01000000) [1] (fun _ r => ∃ h, r.g.fib? 1 = some h ∧ h.live = true) ∧
    Hn (.wgctlKill (mX 0x01000000)) (mX 0x01000000) [2] (fun _ r => (r.g.fib? 2).map (·.live) = some false) ∧
    Hn (.wgctlKill (mX 0x01000000)) (mX 0x01000000) [64] (fun _ _ => True) := by
  refine ⟨meets (by decide), meets (by decide), ⟨of (by decide), _, rfl, rfl⟩, meets (by decide), meets (by decide)⟩
theorem test_frmput : let s := after (exec (.frmput { mX 0 with dx := 2 }) (stOf (svFib [0x30000, 0]) svCtx svL id))
    s.d.fifoS = [0x30000] ∧ ((s.d.fib? 3 0).map fun f => f.pred 2) = some true := by decide +kernel
theorem test_user_tret : trapOf (exec (.tretRetry (mX 0)) (st [])) = some (0x0B, 0) := by decide

-- tags: a retirement at its own core and at another's, a pin, a stop and its go, an uncached access past its bound
def tagState (e : Dev → Dev) (a b c : Nat) : State :=
  let s := tState (tWg [tFib []]) tLaunch
  { s with d := e { s.d with arg := { a := a, b := b, c := c } } }
theorem witness_tags : ∀ c ∈ [0, 1], let s := tagState (fun d => { d with retq := [(5, c)] }) 0 0 0
    s.d.wb = [] ∧ s.d.retq[0]? = some (5, c) ∧ s.d.retq[1]? = none ∧ (∀ q ∈ s.d.cores, q.2.stops = []) ∧ (tagCore 5 = c ↔ c = 0) := by decide
theorem test_tag_own_core : let d := (after (exec .tagRetirementReceive (tagState (fun d => ({ d with retq := [(5, 0)] } : Dev).modCore 0 fun k => { k with outst := [5, 6] }) 0 0 0))).d
    (d.retq, (d.core 0).outst, d.fwd) = ([], [6], []) := by decide +kernel
theorem test_tag_forwarded : let d := (after (exec .tagRetirementReceive (tagState (fun d => { d with retq := [(5, 1)] }) 0 0 0))).d
    (d.retq, d.fwd) = ([], [(0, 5)]) := by decide +kernel
theorem test_tag_stop : let s := tagState id 0 0 9
    tagCore 5 = 0 ∧ ((after (exec .tagQuotaStop s)).d.core 0).stops = [(0, 9)] := by decide +kernel
def hubOp : Op := { id := 4, kind := .ld, wg := 3, fib := 0, dst := 2, dn := 1, addr := 0x1000, size := 4, parts := [{ va := 0x1000, off := 0, len := 4, st := .sent }], act := .read }

-- traps: a halt of each kind, in a handler, and behind another trap of the same cc
def trapWg (h : Halt) (hnd : Bool) (t : Option Cause) (at_ : Nat) : WG :=
  { tWg [{ tFib [] with hnd := hnd }, tFib [], tFib []] with halt := h, trap := t, haltAt := at_ }
def trapDev (g : WG) : State := tState g tLaunch
def raised (g : WG) (k : Nat) : WG := (((trapDev g).d.raise (trapDev g).env 3 k 2 0x10).wgs.headD (tWg []))
def tCause (k : Nat) : Cause := { cause := 8, async := false, tval := 1, fib := k }
theorem witness_traps : ∀ g ∈ [trapWg .none false none 0, trapWg .debug false none 0, trapWg .none true none 0, trapWg .trap false (some (tCause 2)) 100, trapWg .trap false (some (tCause 0)) 100],
    (trapDev g).d.wg? 3 = some g ∧ (g.fib? 1).isSome = true := by decide +kernel
theorem test_trap_begins : let g := raised (trapWg .none false none 0) 1; (g.halt, g.trap.map (·.fib), g.haltAt, decide (g.skidMax < 5)) = (Halt.trap, some 1, 100, true) := by decide +kernel
theorem test_trap_same_cc : let g := raised (trapWg .trap false (some (tCause 2)) 100) 1; (g.trap.map (·.cause), (g.fib? 2).map (·.pcause), g.trapPend) = (some 2, some 8, true) := by decide +kernel
theorem test_trap_pends : let g := raised (trapWg .trap false (some (tCause 0)) 100) 1; (g.trap.map (·.cause), (g.fib? 1).map (·.pcause)) = (some 8, some 2) := by decide +kernel
-- a halt in its last cc before it completes and in that one; the entry, with a handler and without; a pre-emption's freeze
def haltWg (h : Halt) (st : Bool) (tb : Nat) : WG :=
  { trapWg h false (some (tCause 1)) 100 with stopped := st, ctx := { tbase := tb, tsize := 64 }, image := if h = .preempt then some (0x9000, 0) else none }
def haltState (g : WG) (clock : Nat) : State := { (trapDev g) with clock := clock, d := { (trapDev g).d with ropes := [], arg := { a := 3 } } }
theorem witness_halts : ∀ g ∈ [haltWg .trap false 0x1000, haltWg .trap true 0x1000, haltWg .trap true 0, haltWg .preempt true 0x1000, haltWg .none false 0],
    (haltState g 115).d.wg? 3 = some g ∧ (haltState g 115).d.ops = [] ∧ (haltState g 115).d.eps = [] ∧ g.frozenAt + 20 ≤ 130 ∧ g.mops = [] ∧ g.markers = [] ∧ g.ending = none ∧
    ((haltState g 115).d.core 0).colls = [] := by decide +kernel
theorem test_freeze_waits : (group (exec .freezeComplete (haltState { haltWg .trap true 0x1000 with frozenAt := 111 } 130))).frozen = false := by decide +kernel
theorem test_halt_time : (group (exec .haltComplete (haltState (haltWg .trap false 0x1000) 115))).stopped = true := by decide +kernel
def entered : WG := group (exec .freezeComplete (haltState (haltWg .trap true 0x1000) 130))
theorem test_handler_entry : entered.tcause = 0x108 ∧ entered.tval = 1 ∧ entered.handling = true ∧ (entered.fib? 1).map (fun f => (f.hnd, f.priv)) = some (true, true) := by decide +kernel
theorem test_no_handler : let t := after (exec .freezeComplete (haltState (haltWg .trap true 0) 130)); (t.d.laneH.length, (t.d.fib? 3 0).map (·.live)) = (1, some false) := by decide +kernel
theorem test_freeze_saves : (after (exec .freezeComplete (haltState (haltWg .preempt true 0x1000) 130))).d.agenda = [.ev .saveComplete 3 0 0 []] := by decide +kernel
-- causes that are not precise: taken, held in the handler's time, a double trap
def asyncWg (hnd handling : Bool) : WG :=
  { tWg [{ tFib [] with hnd := hnd }] with handling := handling, asyncs := [{ cause := 0x20, async := true, tval := 5, fib := 0 }] }
theorem witness_async : ∀ g ∈ [asyncWg false false, asyncWg false true, asyncWg true true, { asyncWg false false with stopped := true }, { asyncWg false false with asyncs := [] }],
    (haltState g 100).d.wg? 3 = some g ∧ g.id = 3 ∧ (g.fib? 0).map (·.live) = some true ∧ (g.halt = .none ∨ g.halt = .preempt) := by decide +kernel
theorem test_async_taken : let g := group (exec .asyncTrapTaken (haltState (asyncWg false false) 100)); (g.halt, g.trap.map (·.cause), g.asyncs.length) = (Halt.trap, some 0x20, 0) := by decide +kernel
theorem test_async_in_handler : let t := after (exec .asyncTrapTaken (haltState (asyncWg true true) 100)); (t.d.laneH.length, (t.d.fib? 3 0).map (·.live)) = (1, some false) := by decide +kernel
-- a pre-emption without a save pool; its save
theorem test_preempt_without_room : let t := after (exec .preemptRequest (haltState (tWg [tFib []]) 100))
    ((group (exec .preemptRequest (haltState (tWg [tFib []]) 100))).halt, t.d.evSeq) = (Halt.none, 1) := by decide +kernel
theorem witness_preempt : let s := haltState (tWg [tFib []]) 100
    (s.d.takeRun s.env 0 (imageLen tLaunch (s.d.entryCount (tWg [tFib []]) + 8 * 64))).1 = none ∧ (∀ h ∈ s.d.wgs, h = tWg [tFib []]) ∧ (tWg []).place = .resident ∧ (tWg []).image = none := by decide +kernel

-- placement on core 0, at its last slot but with every budget one below its bound
def plPart : Partition := { Partition.all with cmask := [true], bw := 1023, bwq := 1024, est := 1599, pwr := 1600 }
def plDev (p : Partition) : Dev :=
  { nextId := 10, wgs := [{ tWg [tFib []] with place := .waiting }], parts := [p], choices := [5], launches := [tLaunch], hub := { tagq := [(7, 1)], pest := 1599 } }
def plLaunch : Launch := { tLaunch with ctx := { ctxid := 7, ctxd := 0xFF * 2 ^ 44 + 0x2000 } }
def plMem : Memory := cells 0x2000 [0, 0, 0, 0, 0, 0, 0, 0, 0, 0, 0, 0, 7] ++ cells 0x2018 (leBytes 8 (0xFF * 2 ^ 44 + 0x3000)) 
theorem witness_placement : ((plDev plPart).wg? 3).any (fun g => g.place = .waiting) = true ∧ plLaunch.r.argn = 0 ∧ Table.okFrom {} 0 (plDev plPart).cores = true ∧
    ((plDev plPart).tryPlace ⟨100, plMem⟩ plLaunch [3] none false).1 = true := by decide +kernel
theorem test_no_bandwidth : ((plDev { plPart with bw := 1024 }).tryPlace ⟨100, plMem⟩ plLaunch [3] none false).1 = false := by decide +kernel
theorem test_no_quota : ((({ plDev plPart with hub := { pest := 1599 } } : Dev)).tryPlace ⟨100, plMem⟩ plLaunch [3] none false).1 = false := by decide +kernel
-- the scheduler: nothing to do; the spin window at its end; the fault swap just past its threshold; a work-group that is over
def schedState (gs : List WG) (clock : Nat) : State := { clock := clock, mem := [], d := { Dev.afterReset 0 with wgs := gs, launches := if gs = [] then [] else [tLaunch], arg := { a := 3 }, choices := [0] } }
def spinWg : WG := { tWg [tFib []] with blockedAt := some 1000 }
def peerWg : WG := { tWg [tFib []] with id := 4, place := .suspended }
theorem witness_spin : let s := schedState [spinWg, peerWg] 66536
    s.d.wg? 3 = some spinWg ∧ 1000 + s.d.hub.spinw = s.clock ∧ s.d.hub.spinw ≠ 0 ∧ s.d.wgs.filter (fun g => g.place = .suspended) = [peerWg] ∧ peerWg.ctx.ctxid = spinWg.ctx.ctxid ∧ peerWg.eng = none ∧ s.d.allBack peerWg = true := by decide +kernel
theorem test_spin_before : after (exec .spinWindowExpiry (schedState [spinWg, peerWg] 66535)) = schedState [spinWg, peerWg] 66535 := by decide +kernel
-- blocked on a word of a load that waits for a page, while a work-group waits that could take its place
def swapFib : Fib := { tFib [] with wait := .words [2] [] }
def swapWg : WG := { tWg [swapFib] with faultAt := some 1000 }
def swapState (clock : Nat) : State :=
  let s := schedState [swapWg, { tWg [] with id := 4, place := .waiting }] clock
  { s with d := { s.d with ops := [{ id := 4, kind := .ld, wg := 3, fib := 0, dst := 2, dn := 1, heldOn := some 7 }] } }
theorem witness_swap : let s := swapState 17385
    s.d.wg? 3 = some swapWg ∧ 1000 + s.d.hub.fswap + 1 = s.clock ∧ s.d.faultBlocked 3 0 swapFib = true ∧ s.d.someoneWaits swapWg tLaunch = true ∧
    (swapWg.fibs.filter (·.live)).length = 1 := by decide +kernel
theorem test_swap_before : after (exec .faultSwapThreshold (swapState 17384)) = swapState 17384 := by decide +kernel
theorem witness_retire : let s := schedState [{ tWg [] with id := 3 }] 100
    s.d.wg? 3 = some (tWg []) ∧ (∀ f ∈ (tWg []).fibs, f.live = false) ∧ (tWg []).mops = [] ∧ (tWg []).asyncs = [] ∧ s.d.ops = [] := by decide +kernel
theorem test_retire : ((after (exec .workgroupRetire (schedState [tWg []] 100))).d.wgs.length, (after (exec .workgroupRetire (schedState [tWg []] 100))).d.launches.map (·.retired)) = (0, [1]) := by decide +kernel
theorem test_scheduling_idle : (after (exec .schedulingStep (schedState [] 128))).d.launches = [] ∧ (schedState [] 128).d.wb = [] := by decide +kernel

-- a walk of page 0x12 through all three levels; each kind of entry at each of them
def walkMem (w2 w1 w v : Nat) : Memory := cells 0x40000 (leBytes 8 w2) ++ cells 0x60000 (leBytes 8 w1) ++ cells 0x80120 (leBytes 8 w) ++ cells 0x80128 (leBytes 8 v)
def walkState (w2 w1 w v : Nat) (g : WG) (o : List Op) : State :=
  { clock := 100, mem := walkMem w2 w1 w v
    d := { wgs := [g], launches := [tLaunch], ops := o, arg := { a := 4 }, nextId := 10, hub := { ptroot := 0x40001, cxlcap := [2 ^ 30, 0, 0, 0], cxlup := [true, false, false, false] }, fifoS := [0xA0000] } }
def walkOf (w2 w1 w v : Nat) (a : Acc) : Walk := let s := walkState w2 w1 w v (tWg []) []; s.d.walk s.env 0x123456 a
def ptr2 : Nat := 0x60001
def ptr1 : Nat := 0x80001
theorem witness_walk : (walkState ptr2 ptr1 0x90022 0 (tWg []) []).d.wb = [] ∧ (walkState ptr2 ptr1 0x90022 0 (tWg []) []).d.poison = [] ∧
    (∀ line, ((walkState ptr2 ptr1 0x90022 0 (tWg []) []).d.dirEnt line).recalls false = false) ∧
    (walkState ptr2 ptr1 0x90022 0 (tWg []) []).d.hub.ptroot.getLsbD 0 = true ∧ gddr8 (walkState ptr2 ptr1 0x90022 0 (tWg []) []) 0x80120 = 0x90022 :=
  ⟨rfl, rfl, fun _ => rfl, by decide +kernel, by decide +kernel⟩
theorem test_walk_level2 : walkOf 0 0 0 0 .rd = .fault 1 false ∧ walkOf 2 0 0 0 .rd = .fatal false ∧ walkOf 0x103 0 0 0 .rd = .fatal true ∧ walkOf 0x70001 0 0 0 .rd = .fatal false := by decide +kernel
theorem test_walk_level1 : walkOf ptr2 0 0 0 .rd = .fault 1 true ∧ walkOf ptr2 3 0 0 .rd = .fatal false ∧ walkOf ptr2 0x80801 0 0 .rd = .fatal false := by decide +kernel
theorem test_walk_level0 : walkOf ptr2 ptr1 0 0 .rd = .fault 1 false ∧ walkOf ptr2 ptr1 1 0 .rd = .fatal false ∧ walkOf ptr2 ptr1 0x90022 0 .wr = .ok (some 0x93456) true 0 false ∧
    walkOf ptr2 ptr1 0x90002 0 .wr = .fault 3 false ∧ walkOf ptr2 ptr1 0x90042 0 .fetch = .fatal false ∧ walkOf ptr2 ptr1 0x9010E 0 .rd = .fault 2 false ∧ walkOf ptr2 ptr1 0x90012 0 .rd = .fatal false := by decide +kernel
theorem test_walk_tier2 : walkOf ptr2 ptr1 0x10026 0xB0001 .rd = .ok (some 0xB3456) true 0x80120 false ∧
    walkOf ptr2 ptr1 0x10026 0 .rd = .fill { page := 0x12, n := 1, pte := 0x80120, frame := 0, home := 2 ^ 60 + 0x10000 } := by decide +kernel
-- the request that walks: a true fault, one of a service context, a fill
def pageWg (sv : Bool) : WG := { tWg [tFib []] with rng := [{ vbase := 0, vsize := 2 ^ 40, iabase := 0, on := true }], ctx := { fsvc := sv } }
def pageOp : Op := { hubOp with addr := 0x123456, parts := [{ va := 0x123456, off := 0, len := 4, st := .walk }] }
def pageState (w : Nat) (sv : Bool) : State := walkState ptr2 ptr1 w 0 (pageWg sv) [pageOp]
theorem witness_page : ∀ sv ∈ [true, false], (pageState 0 sv).d.op? 4 = some pageOp ∧ (pageState 0 sv).d.partIa pageOp { va := 0x123456, off := 0, len := 4, st := .walk } = some 0x123456 ∧
    isDirect 0x123456 = false ∧ (pageState 0 sv).d.l2? (0x123456 / 128) = none ∧ (pageState 0 sv).d.uncachedAt (pageState 0 sv).env 0x123456 = false := by decide +kernel
def hubPart : Part := { va := 0x123456, off := 0, len := 4, st := .sent }
def hubTime : State := walkState ptr2 ptr1 0x100AA 0 (pageWg false) [{ pageOp with parts := [hubPart] }]
theorem witness_uncached : hubTime.d.op? 4 = some { pageOp with parts := [hubPart] } ∧ pageOp.tag = 0 ∧ hubTime.d.partIa { pageOp with parts := [hubPart] } hubPart = some 0x123456 ∧
    hubTime.d.uncachedAt hubTime.env 0x123456 = true := by decide +kernel
theorem test_uncached_timeout : let d := (after (exec .hwTimeout hubTime)).d
    (d.ops, (d.wg? 3).map fun g => g.asyncs.map fun c => (c.cause, c.fib)) = ([], some [(cTimeout, 0)]) := by decide +kernel
theorem test_page_fault : let d := (after (exec .mtuWalk (pageState 0 false))).d
    d.eps.map (·.page) = [0x12] ∧ d.laneR.map (fun r => fieldN r.data 24 8) = [0x123456] ∧ d.ops.map (fun o => o.parts.map (·.st)) = [[.held]] := by decide +kernel
theorem test_page_fault_service : (((after (exec .mtuWalk (pageState 0 true))).d.wg? 3).map fun g => g.asyncs.map (·.cause)) = some [cPageFatal] := by decide +kernel
theorem test_page_fill : let d := (after (exec .mtuWalk (pageState 0x10006 false))).d; d.fills.map (·.frame) = [0xA0000] ∧ d.fifoS = [] := by decide +kernel
-- the release of an episode: nothing parked; one parked store
def epState (log : List Parked) : State :=
  let s := walkState ptr2 ptr1 0x90022 0 (pageWg false) []
  { s with d := { s.d with eps := [{ page := 0x12, n := 1, log := log }], arg := { a := 0x12 }, l2 := [{ line := 0x123480 / 128, phys := 0x93480, grant := true, dirty := true }] } }
theorem witness_release : (epState []).Ok ∧ ((epState []).d.eps.filter fun q => q.page = 0x12).length = 1 ∧ (epState []).d.l2? (0x123480 / 128) ≠ none ∧ ((epState []).d.dirEnt (0x93480 / 128)).recalls true = false := ⟨⟨by decide +kernel, rfl⟩, by decide +kernel, by decide +kernel, by decide +kernel⟩
theorem test_release : (after (exec .episodeRelease (epState []))).d.eps = [] := by decide +kernel
-- the lanes and Cairn: both lanes, a batch at the end of its window, a ring with room and a full one
def laneR0 : LaneRec := { seq := 9, core := 1, part := 2, ctx := 7, data := faultBytes 9 7 1 0 1 false 0x123456 0x123456 }
def laneState (h r : List LaneRec) (ctl : DWord) : State := { clock := 164, mem := [], d := { Dev.afterReset 0 with laneH := h, laneR := r, hub := { cairnctl := ctl } } }
theorem witness_lane_record : ∀ line, ((laneState [{ laneR0 with seq := 1 }] [laneR0] 0).d.dirEnt line).st ≠ 3 := fun _ => (by decide : (0 : Nat) ≠ 3)
theorem test_lane_order : let d := (after (exec .laneRecordHandover (laneState [{ laneR0 with seq := 1 }] [laneR0] 0))).d; (d.handed.map (·.seq), d.laneR.length, d.msix) = ([1], 1, [2]) := by decide +kernel
theorem test_lane_cairn : let d := (after (exec .laneRecordHandover (laneState [] [laneR0] 0))).d; (d.cairnOpen ++ d.cairnClosed.flatten).map (fun p => (p.seq, p.page)) = [(9, 0x12)] := by decide +kernel
def tBatch : BPage := { seq := 9, page := 0x12, ctx := 7, reason := 1, pred := false, large := false }
def ringState (head : Nat) (open_ : List BPage) (closed : List (List BPage)) : State :=
  { clock := 164, mem := cells 0x70000 (leBytes 8 head), d := { Dev.afterReset 0 with cairnOpen := open_, cairnSince := 100, cairnClosed := closed, hub := { fqbase := 0x70004, cairnctl := 64 } } }
theorem witness_batch_window : (ringState 0 [tBatch] []).d.cairnSince + 64 = (ringState 0 [tBatch] []).clock := by decide +kernel
theorem test_batch_window : (after (exec .cairnBatchWindow (ringState 0 [tBatch] []))).d.cairnClosed = [[tBatch]] := by decide +kernel
theorem witness_ring : ∀ h ∈ [15, 16], (ringState h [] [[tBatch]]).Ok ∧ ((ringState h [] [[tBatch]]).d.dirEnt (0x70000 / 128)).recalls false = false ∧ gddr8 (ringState h [] [[tBatch]]) 0x70000 = h ∧ gddr8 (ringState h [] [[tBatch]]) 0x70008 = 0 ∧ (h < 16 ↔ h = 15) := by
  intro h hh
  simp only [List.mem_cons, List.not_mem_nil, or_false] at hh
  rcases hh with rfl | rfl <;> exact ⟨⟨by decide +kernel, rfl⟩, rfl, by decide +kernel, by decide +kernel, by decide⟩
theorem test_ring_write : let t := after (exec .cairnRingWrite (ringState 15 [] [[tBatch]]))
    (gddr8 t 0x70000, gddr8 t (0x70040 + 64 * 15), gddr8 t (0x70048 + 64 * 15)) = (16, 9, 1) := by decide +kernel
theorem test_ring_full : after (exec .cairnRingWrite (ringState 16 [] [[tBatch]])) = ringState 16 [] [[tBatch]] := by decide +kernel

-- a queue: its descriptor, the context it names, that context's ranges, a slot at its read index
def winA : Nat := 0xFF * 2 ^ 44
def memQ : Memory :=
  cells 0x2000 (leBytes 8 0x1000 ++ leBytes 4 64 ++ leBytes 2 7 ++ [2, 0] ++ leBytes 8 0 ++ leBytes 8 (winA + 0x3000)) ++
  cells 0x3000 (leBytes 8 0 ++ leBytes 8 (2 ^ 40) ++ leBytes 8 winA)
def qdCells (segs : List Byte) (b32 : Byte) : Memory := cells (2 ^ 24 + 320) (segs ++ leBytes 8 0x50000 ++ leBytes 8 (winA + 0x2000) ++ [b32, 1, 2, 4])
def stQ (slot : List Byte) (more : Memory) (b32 : Byte := 0x83) : State :=
  { clock := 100, mem := memQ ++ cells (0x10000 + 64 * 6) slot ++ more ++ qdCells (leBytes 8 0x10000 ++ leBytes 4 70 ++ leBytes 4 170) b32
    d := { Dev.afterReset 0 with arg := { a := 5 }, nextId := 10, queues := [{ q := 5, slot := some 0 }], hub := { qdbase := BitVec.ofNat 64 (winA + 2 ^ 24 + 1), bootState := 3 } } }
def slotOf (ty slots : Byte) (cs cg : Nat) (body : List Byte) : List Byte := [ty, 0, slots, 0, 0, 0, 0, 0] ++ leBytes 8 cs ++ leBytes 8 cg ++ leBytes 8 0 ++ body
def fenceSlot (slots : Byte) (cs cg : Nat) : List Byte := slotOf 9 slots cs cg (List.replicate 16 0 ++ [3])
def nx (s : State) : Next := ((s.d.peek s.env s.d.arg.a).1).getD { q := 0, qd := parseQd [], ctx := {}, rs := [], bs := [] }
/-- The state once the slot was read. -/
def rd (s : State) : State := { s with d := (s.d.peek s.env s.d.arg.a).2 }
def readyB (s : State) : Bool :=
  (s.d.peek s.env s.d.arg.a).1.isSome && decide ((rd s).d.arg.a = s.d.arg.a) && decide ((nx s).span false ≤ (nx s).qd.unread) && (rd s).d.canStart (nx s) && (rd s).d.wb.isEmpty
theorem ready (s : State) (h : readyB s = true) : Ready s (rd s) (nx s) := by
  simp only [readyB, Bool.and_eq_true, decide_eq_true_eq, List.isEmpty_iff] at h
  obtain ⟨⟨⟨⟨hp, hq⟩, hs⟩, hc⟩, hw⟩ := h
  obtain ⟨n, hn⟩ := Option.isSome_iff_exists.1 hp
  have : nx s = n := by unfold nx; rw [hn]; rfl
  exact ⟨Prod.ext (by rw [this]; exact hn) rfl, rfl, hq, hs, hc, hw⟩
/-- The packet of that slot is ready, and `P` holds of it. -/
def Packet (slot : List Byte) (more : Memory) (P : State → Next → Prop) : Prop := Ready (stQ slot more) (rd (stQ slot more)) (nx (stQ slot more)) ∧ P (rd (stQ slot more)) (nx (stQ slot more))
theorem packet {slot : List Byte} {more : Memory} {P : State → Next → Prop} [Decidable (P (rd (stQ slot more)) (nx (stQ slot more)))]
    (h : (readyB (stQ slot more) && decide (P (rd (stQ slot more)) (nx (stQ slot more)))) = true) : Packet slot more P := by
  rw [Bool.and_eq_true, decide_eq_true_eq] at h
  exact ⟨ready _ h.1, h.2⟩
def pktCode (s : State) (i : Instr) : List (Nat × Nat × Bool) := (after (exec i s)).d.pkts.map fun p => (p.code, p.detail, p.finished)
-- each doorbell bound
def bell (n : Nat) (st : Byte) : State :=
  let s := stQ [] []
  { s with mem := memQ ++ cells (2 ^ 24 + 448) (List.replicate 8 0 ++ leBytes 4 3 ++ leBytes 4 4 ++ List.replicate 18 0 ++ [st]), d := { s.d with arg := { a := 7 + n * 2 ^ 32 } } }
theorem witness_doorbell : ∀ n ∈ [4, 5, 4 + 2 ^ 31, 5 + 2 ^ 31], (bell n 0).d.wb = [] ∧ (bell n 0).d.hub.qdbase.getLsbD 0 = true ∧ ((bell n 0).d.qd? (bell n 0).env 7).map (fun q => (q.state, q.widx)) = some (0, 4) ∧
    (bell n 0).d.queue? 7 = none := by decide +kernel
theorem test_doorbell : [4, 5, 4 + 2 ^ 31, 5 + 2 ^ 31].map (fun n => (after (exec .doorbell (bell n 0))).d.queues.length) = [1, 2, 2, 1] := by decide +kernel
theorem test_doorbell_stopped : ((after (exec .doorbell (bell 5 4))).d.qd? (after (exec .doorbell (bell 5 4))).env 7).map (fun q => (q.state, q.widx)) = some (4, 5) := by decide +kernel
-- refusals in their order
theorem witness_refusals : Packet (slotOf 11 1 0 0 []) [] (fun _ n => n.refusal false = some 0x01) ∧ Packet (fenceSlot 2 0 0) [] (fun _ n => n.refusal false = some 0x01) ∧
    Packet (fenceSlot 1 4 0) [] (fun _ n => n.refusal false = some 0x04) ∧ Packet (slotOf 4 1 0 0 []) [] (fun _ n => n.refusal false = some 0x05) ∧
    Packet (fenceSlot 1 8 16) [] (fun s n => n.refusal (s.d.openPass 5).isSome = none) :=
  ⟨packet (by decide +kernel), packet (by decide +kernel), packet (by decide +kernel), packet (by decide +kernel), packet (by decide +kernel)⟩
theorem test_refusal_type : pktCode (stQ (slotOf 11 1 0 0 []) []) .launch = [(1, 1, true)] := by decide +kernel
theorem test_refusal_draw : pktCode (stQ (slotOf 4 1 0 0 []) []) .drawMesh = [(1, 5, true)] := by decide +kernel
-- launch records of a grid, a pool, and of several modules
def recX (nmod pool : Nat) (isPool : Bool) : List Byte :=
  leBytes 8 0x100000 ++ leBytes 4 4096 ++ leBytes 2 32 ++ leBytes 2 32 ++ leBytes 2 (if isPool then 0 else 32) ++ leBytes 2 (if isPool then 5 else 0) ++ leBytes 8 0 ++
  [5, 2, 0, 0, 0, (if nmod > 1 then 2 else 0), 0, 0] ++ leBytes 4 31 ++ leBytes 4 3 ++ leBytes 8 0 ++ leBytes 4 0 ++ leBytes 4 (nmod - 1) ++ List.replicate 52 0 ++
  leBytes 8 0x30000 ++ leBytes 8 0 ++ leBytes 8 0 ++ leBytes 8 pool ++ leBytes 8 0 ++ leBytes 4 0 ++ leBytes 4 nmod ++ List.replicate 96 0
def recAt (r : List Byte) : Memory := cells (0x10000 + 64 * 7) r
theorem witness_launch : (recX 1 0 false).length = 256 ∧ Packet (slotOf 1 5 0 0 []) (recAt (recX 1 0 false)) (fun s n => n.refusal (s.d.openPass 5).isSome = none ∧
      gets (n.read s.env (numbered s 1) (n.qd.seg + 64 * (n.pos + 1)) 256) (recX 1 0 false) = true ∧ (parseRecord (recX 1 0 false)).refused .grid 0 n.ctx.sup s.d.hub = none) :=
  ⟨by decide +kernel, packet (by decide +kernel)⟩
theorem test_launch : (after (exec .launch (stQ (slotOf 1 5 0 0 []) (recAt (recX 1 0 false))))).d.launches.map (fun l => (l.kind, l.total, l.r.w)) = [(.grid, 4, 32)] := by decide +kernel
def poolMem (log : Byte) : Memory := cells 0x5000 (leBytes 8 0x6000 ++ [log, 0, 0, 0, 0, 0, 0, 0] ++ leBytes 8 0x7000 ++ leBytes 8 3)
def poolQ (log : Byte) : State := { stQ (slotOf 2 5 0 0 []) [] with mem := memQ ++ poolMem log ++ cells (0x10000 + 64 * 6) (slotOf 2 5 0 0 []) ++ recAt (recX 1 0x5000 true) ++ qdCells (leBytes 8 0x10000 ++ leBytes 4 70 ++ leBytes 4 170) 0x83 }
theorem witness_pool_launch : ∀ log ∈ [9, 10], readyB (poolQ log) = true ∧ (parseRecord (recX 1 0x5000 true)).pool = 0x5000 := by decide +kernel
theorem test_pool_launch : (after (exec .poolLaunch (poolQ 10))).d.launches.map (fun l => (l.poolBase, l.poolLog, l.initBase, l.initN)) = [(0x6000, 10, 0x7000, 3)] := by decide +kernel
theorem test_pool_too_small : pktCode (poolQ 9) .poolLaunch = [(1, 2, true)] := by decide +kernel
def domQ : State := let s := stQ (slotOf 1 5 0 0 []) (recAt (recX 3 0 false)); { s with d := s.d.modHub fun h => { h with domcfg := 0x700 } }
theorem witness_modules : readyB domQ = true ∧ (parseRecord (recX 3 0 false)).refused .grid (fieldN (recX 3 0 false) 20 1) (nx domQ).ctx.sup domQ.d.hub = none := by decide +kernel
theorem test_modules : ((after (exec .launch domQ)).d.launches.map (·.held), (after (exec .launch domQ)).d.msgs.map (·.dst)) = ([true], [1, 2]) := by decide +kernel
-- a render pass and its draw
def passQ (opn : Bool) (slot : List Byte) : State :=
  let s := stQ slot []
  { s with mem := memQ ++ cells (0x10000 + 64 * 6) slot ++ cells 0x40000 (passBytes [(2, 4), (3, 2), (12, 16), (14, 16), (18, 0x5), (24, 32)] ++ List.replicate 128 0) ++ cells 0x50000 (recX 1 0 false) ++
                  qdCells (leBytes 8 0x10000 ++ leBytes 4 70 ++ leBytes 4 170) 0x83
           d := { s.d with queues := [{ q := 5, slot := some 0, openPass := if opn then some 9 else none }], passes := if opn then [tPass] else [] } }
def openSlot : List Byte := slotOf 3 1 0 0 (leBytes 8 0 ++ leBytes 8 0x40000)
def drawSlot : List Byte := slotOf 4 1 0 0 (leBytes 8 0x50000 ++ [64, 0, 32, 0, 4])
theorem witness_pass : readyB (passQ false openSlot) = true ∧ (nx (passQ false openSlot)).refusal false = none ∧ readyB (passQ true drawSlot) = true ∧ (nx (passQ true drawSlot)).refusal true = none ∧
    readyB (passQ true (slotOf 3 1 0 0 [1])) = true ∧ (passQ true drawSlot).d.openPass 5 = some 9 := by decide +kernel
theorem test_close_pass : (after (exec .renderPassClose (passQ true (slotOf 3 1 0 0 [1])))).d.passes.map (·.closePkt) = [some 10] := by decide +kernel
theorem test_draw : (after (exec .drawMesh (passQ true drawSlot))).d.launches.map (fun l => (l.kind, l.meshV, l.meshP, l.meshA)) = [(.mesh, 64, 32, 4)] := by decide +kernel
-- the other packets
def word8 (a v : Nat) : List Byte := leBytes 8 a ++ leBytes 8 v
theorem witness_packets : Packet (slotOf 6 1 0 0 (word8 0x20000 1)) [] (fun _ n => n.refusal false = none) ∧ Packet (slotOf 7 1 0 0 (word8 0x20000 77)) [] (fun _ n => n.refusal false = none) ∧
    Packet (slotOf 8 1 0 0 (leBytes 8 0x80000)) [] (fun _ n => n.refusal false = none) ∧ Packet (slotOf 5 1 0 0 (word8 0x20000 0x30000 ++ leBytes 8 (2 ^ 40))) [] (fun _ n => n.refusal false = none) ∧
    Packet (slotOf 5 1 0 0 (word8 0x20000 0x30000 ++ leBytes 8 (2 ^ 40 + 1))) [] (fun _ n => n.refusal false = some 0x01) :=
  ⟨packet (by decide +kernel), packet (by decide +kernel), packet (by decide +kernel), packet (by decide +kernel), packet (by decide +kernel)⟩
theorem test_wait_parks : ((after (exec .waitPacket (stQ (slotOf 6 1 0 0 (word8 0x20000 1)) []))).d.queues.map (·.parked), pktCode (stQ (slotOf 6 1 0 0 (word8 0x20000 0)) []) .waitPacket) =
    ([some (0x20000, 1, 0, 10)], [(0, 0, true)]) := by decide +kernel
theorem test_signal : ((after (exec .signal (stQ (slotOf 7 1 0 0 (word8 0x20000 77)) []))).mem.find? fun c => c.1 = 0x20000) = some (0x20000, 77) := by decide +kernel
theorem test_link : ((after (exec .link (stQ (slotOf 8 1 0 0 (leBytes 8 0x80000)) []))).mem.find? fun c => c.1 = 0x50042) = some (0x50042, 1) := by decide +kernel
theorem test_partition_user : pktCode (stQ (slotOf 10 1 0 0 (word8 1 0x40000)) [] 3) .partitionSet = [(1, 6, true)] := by decide +kernel
def privQ (bw : Nat) : State :=
  let s := stQ (slotOf 10 1 0 0 (word8 1 0x40000)) []
  { s with mem := memQ ++ cells (0x10000 + 64 * 6) (slotOf 10 1 0 0 (word8 1 0x40000)) ++ cells 0x40040 (leBytes 2 512 ++ leBytes 2 bw ++ leBytes 2 1600 ++ [1]) ++ qdCells (leBytes 8 0x10000 ++ leBytes 4 70 ++ leBytes 4 170) 0x83 }
theorem witness_partition : ∀ b ∈ [1024, 1025], readyB (privQ b) = true ∧ (nx (privQ b)).refusal false = none ∧ (privQ b).d.parts.length = 16 := by decide +kernel
theorem test_partition : ((after (exec .partitionSet (privQ 1024))).d.parts.getD 1 {}).cores = 512 ∧ pktCode (privQ 1025) .partitionSet = [(1, 2, true)] := by decide +kernel

-- a COPY that goes on, a parked queue, a segment for the free list, a packet that completes
def pkt0 : Pkt := { id := 4, q := 5, ridx := 3, ty := 1, flg := 2, cstat := 0x40000, csig := 0x40008, cval := 7, body := [], ctx := ((stQ [] []).d.readCtx (stQ [] []).env (winA + 0x2000)).getD {}, launch := some 8 }
def stP (p : Pkt) (l : List Launch) (q : Queue) (a : Nat) (m : Memory) : State :=
  let s := stQ [] m
  { s with d := { s.d with arg := { a := a }, pkts := [p], launches := l, queues := [q] } }
def copyP : Pkt := { pkt0 with ty := 5, body := leBytes 8 0x20010 ++ leBytes 8 0x30020 ++ leBytes 8 200, left := [(0, 5), (10, 200)], launch := none }
def copyS : State := let s := stP copyP [] { q := 5 } 5 [(0x2001A, 9)]; { s with d := { s.d with choices := [5], arg := { a := 5, b := 4 } } }
theorem witness_copy_goes_on : copyS.d.wb = [] ∧ copyS.d.pkts = [copyP] ∧ copyS.d.arg.b = copyP.id ∧ (∃ r ∈ copyP.left, r.1 < r.2) ∧
    (match Dev.readG copyS.env (copyS.d.ctxRanges copyS.env copyP.ctx) { askerOf copyP.ctx copyP.part with unit := 1 } 2 copyS.d.afterChoice 0x2001A 86 with
     | (.ok bs false, d) => decide (bs.length = 86) && decide (d.pkts = copyS.d.pkts)
     | _ => false) = true := by decide +kernel
theorem test_copy_piece : let t := after (exec .copy copyS); ((t.d.pkts.map (·.left)), t.mem.find? fun c => c.1 = 0x3002A) = ([[(0, 5), (96, 200)]], some (0x3002A, 9)) := by decide +kernel
def parkedQ (v : Nat) : State := stP { copyP with ty := 6 } [] { q := 5, parked := some (0x20000, v, 0, 4), watched := some 3 } 5 [(0x20000, 3)]
theorem witness_watch : ∀ v ∈ [3, 4], (parkedQ v).d.queue? 5 = some { q := 5, parked := some (0x20000, v, 0, 4), watched := some 3 } ∧ ((parkedQ v).d.qd? (parkedQ v).env 5).isSome = true ∧
    (parkedQ v).d.wb = [] := by decide +kernel
theorem test_watch : (after (exec .waitWatchRecheck (parkedQ 3))).d.queues.map (·.parked.isSome) = [false] ∧
    (after (exec .waitWatchRecheck (parkedQ 4))).d.queues.map (·.parked.isSome) = [true] := by decide +kernel
theorem witness_watch_time : ∀ c ∈ [65536, 65535], let s : State := { parkedQ 4 with clock := c }
    (s.d.queue? 5).any (fun u => u.parked.isSome) = true ∧ ((s.d.queue? 5).any fun u => decide (u.parkedAt + 65536 ≤ s.clock)) = decide (c = 65536) := by decide +kernel
def heldS (put : Nat) : State := { stP pkt0 [] { q := 5, heldSeg := some 0x12000 } 5 [] with mem := memQ ++ cells 0x50000 (leBytes 8 put) ++ qdCells (leBytes 8 0x10000 ++ leBytes 4 70 ++ leBytes 4 170) 0x83 }
theorem witness_free_list : ∀ n ∈ [15, 16], (heldS n).d.queue? 5 = some { q := 5, heldSeg := some 0x12000 } ∧ ((heldS n).d.qd? (heldS n).env 5).map (·.fln) = some 4 ∧
    ((heldS n).d.readCtx (heldS n).env (winA + 0x2000)).isSome = true := by decide +kernel
theorem test_free_list : ((after (exec .freeListGetAdvance (heldS 15))).d.queues.map (·.heldSeg), (after (exec .freeListGetAdvance (heldS 16))).d.queues.map (·.heldSeg)) = ([none], [some 0x12000]) := by decide +kernel
def doneL (f : Launch → Launch) : Launch := f { tLaunch with id := 8 }
theorem witness_packet_result : ∀ l ∈ [doneL fun l => { l with aborted := true, detail := 3 }, doneL fun l => { l with fatal := 0xD }, doneL fun l => { l with ntrap := 2, detail := 9 }, doneL id],
    pkt0.launch = some l.id ∧ (stP pkt0 [l] { q := 5 } 4 []).d.launch? 8 = some l ∧ l.next = l.total ∧ l.held = false := by decide +kernel
theorem test_packet_result : [doneL fun l => { l with aborted := true, detail := 3 }, doneL fun l => { l with fatal := 0xD }, doneL fun l => { l with ntrap := 2, detail := 9 }, doneL id].map
    (fun l => (stP pkt0 [l] { q := 5 } 4 []).d.pktResult (stP pkt0 [l] { q := 5 } 4 []).env pkt0) = [some (3, 3, 0), some (4, 13, 0), some (2, 9, 2), some (0, 0, 0)] := by decide +kernel
def doneS : State := stP pkt0 [doneL fun l => { l with ntrap := 2, detail := 9 }] { q := 5 } 4 [(0x40008, 1)]
theorem test_packet_complete : let t := after (exec .packetComplete doneS)
    (t.mem.filter fun c => decide (0x40000 ≤ c.1) && decide (c.1 < 0x40010)) = [(0x40000, 2), (0x40001, 9), (0x40004, 2), (0x40008, 8)] ∧ t.d.pkts.length = 0 := by decide +kernel

-- the Equinox barrier: the second of two reports, a refusal, the last cc, a generation out of turn, a packet that arrives
def tDom : Domain := { gen := 7, launch := 5, pkt := 4, nmod := 2, sentAt := 1000, reports := [(0, 0)], origin := true }
def domState (gencnt a b c clock : Nat) (bs : List Byte) : State :=
  { clock := clock, mem := memQ
    d := { Dev.afterReset 0 with arg := { a := a, b := b, c := c, bytes := bs }, domains := [tDom], launches := [{ tLaunch with held := true }], hub := { gencnt := gencnt, domcfg := 0x103 } } }
theorem witness_barrier : (domState 6 1 7 0 1000 []).d.domain? 7 = some tDom ∧ tDom.nmod ≤ (tDom.reports ++ [(1, 0)]).length ∧ (domState 6 1 7 0 1000 []).d.domains = [tDom] ∧
    (domState 6 1 7 0 1000 []).d.domain? 8 = none ∧ 7 = (6 + 1) % 2 ^ 32 ∧ (domState 6 1 7 0 1000 []).d.domain? 9 = none := by decide +kernel
theorem test_barrier_starts : let d := (after (exec .equinoxReport (domState 6 1 7 0 1000 []))).d; (d.launches.map (·.held), d.launches.map (·.gen), d.hub.gencnt) = ([false], [7], 7) := by decide +kernel
theorem test_barrier_refused : (after (exec .equinoxReport (domState 6 1 7 3 1000 []))).d.launches.map (fun l => (l.aborted, l.detail)) = [(true, 3)] := by decide +kernel
theorem test_barrier_time : [601000, 600999].map (fun c => (after (exec .equinoxTimeout (domState 6 7 0 0 c []))).d.launches.map fun l => (l.aborted, l.detail)) = [[(true, 0xFF)], [(false, 0)]] := by decide +kernel
theorem witness_generation_out_of_turn : (7 : Nat) ≠ (5 + 1) % 2 ^ 32 ∧ ((domState 5 7 0 0 1000 []).d.domains.filter fun k => k.gen = 7) = [tDom] := by decide +kernel
-- two generations: the later one has its go, and the go of the earlier one starts both
def twoState (later : List (Nat × Nat)) : State :=
  let s := domState 5 6 0 0 1000 []
  { s with d := { s.d with domains := [{ tDom with gen := 6, origin := false, reports := [] }, { tDom with origin := false, reports := later }] } }
theorem test_two_generations : [[], [(0, 0)]].map (fun r => (after (exec .equinoxGo (twoState r))).d.hub.gencnt) = [6, 7] := by decide +kernel
def farPacket (r : List Byte) : List Byte := leBytes 8 9 ++ leBytes 8 (winA + 0x2000) ++ [1, 4] ++ slotOf 1 5 0 0 [] ++ List.replicate 32 0 ++ r
def farState (r : List Byte) : State := let s := domState 6 0 0 0 1000 (farPacket r); { s with d := { s.d with domains := [], launches := [], hub := { domcfg := 0x101 } } }
theorem witness_far_packet : (farState (recX 2 0 false)).d.hub.rank ≠ 0 ∧ ((farState (recX 2 0 false)).d.readCtx (farState (recX 2 0 false)).env (fieldN (farPacket (recX 2 0 false)) 8 8)).isSome = true ∧
    fieldN ((farPacket (recX 2 0 false)).drop 18) 0 1 = 1 := by decide +kernel
theorem test_far_packet : ((after (exec .equinoxPacketReceive (farState (recX 2 0 false)))).d.launches.map fun l => (l.held, l.gen, l.dev)) = [(true, 9, 1)] := by decide +kernel

-- the hub: a register with masked bits, a bound, the two that a host write reaches; an extension
def hubState (a b c : Nat) (bs : List Byte) : State := { clock := 100, mem := [(1000, 3)], d := { Dev.afterReset 0 with arg := { a := a, b := b, c := c, bytes := bs }, nextId := 10, harts := [] } }
def hubAfter (off v : Nat) : Hub := (after (exec .registerWrite (hubState 0 off v []))).d.hub
theorem witness_hub : (hubState 0 0x50000 0 []).d.wb = [] ∧ (hubState 3 0 0 []).d.hub.mrctlBusy = false ∧ (hubState 3 0 0 []).d.hub.mr[3]? = some 0 := by decide +kernel
theorem test_hub_masks : (hubAfter 0x50000 (2 ^ 64 - 1)).ptroot = 0x3FFFFC0001 ∧ (hubAfter 0x60008 (2 ^ 64 - 1)).evbase = 0xFFFFFFFFFF00F ∧ (hubAfter 0x60028 (2 ^ 64 - 1)).domcfg = 0x7F7F := by decide +kernel
theorem test_hub_bounds : (hubAfter 0x408 99).pwrlim = 100 ∧ (hubAfter 0x408 1601).pwrlim = 1600 ∧ (hubAfter 0x4001C 12289).tagq = [(7, 12288)] ∧ (hubAfter 0x400 5) = {} := by decide +kernel
theorem test_hub_host : (after (exec .registerWrite (hubState 1 0x408 200 []))).d.hub.pwrlim = 1600 ∧ (after (exec .registerWrite (hubState 1 0x61000 5 []))).d.agenda = [.ev .doorbell 5 0 0 []] := by decide +kernel
-- the debugger: nothing named, running, halted
def dbgWg : WG := { tWg [tFib []] with core := 4, slot := 2, ctx := { ctxid := 9 } }
def dbgState (gs : List WG) : State := let s := hubState (9 * 2 ^ 32 + 4 * 2 ^ 16 + 2) 0 0 []; { s with d := { s.d with wgs := gs, launches := [tLaunch], choices := [3] } }
def haltedWg : WG := { dbgWg with halt := .debug, frozen := true, image := some (0, 0) }
theorem witness_debugger : ∀ gs ∈ [[dbgWg], [haltedWg], []], (dbgState gs).d.dbgStat ≠ 1 ∧ (dbgState gs).d.wgs.Nodup ∧
    (∀ h ∈ (dbgState gs).d.wgs, h.place = .resident ∧ h.ctx.ctxid = (9 * 2 ^ 32 + 4 * 2 ^ 16 + 2) / 2 ^ 32 % 2 ^ 12 ∧ h.core = 4 ∧ h.slot = 2 ∧ h.wantPreempt = false ∧ ∀ f ∈ h.fibs, f.wait = .none) := by decide +kernel
theorem test_debug_halt : let t := after (exec .dbgreqHalt (dbgState [dbgWg])); (t.d.wgs.map (·.halt), t.d.dbgStat) = ([Halt.debug], 1) := by decide +kernel
theorem test_debug_none : (after (exec .dbgreqKill (dbgState []))).d.dbgStat = 3 := by decide +kernel
theorem test_debug_continue : let t := after (exec .dbgreqContinue (dbgState [haltedWg])); (t.d.wgs.map (·.halt), t.d.dbgStat) = ([Halt.none], 2) := by decide +kernel
theorem witness_debug_kill : ∀ line, ((dbgState [haltedWg]).d.dirEnt line).st ≠ 3 := fun _ => (by decide : (0 : Nat) ≠ 3)
theorem test_debug_kill : let t := after (exec .dbgreqKill (dbgState [haltedWg])); (t.d.laneH.length, t.d.dbgStat) = (1, 2) := by decide +kernel

-- one line at its home: no holder, sharers, an owner, an unreadable entry
def lineState (a : Nat) (en : DirEnt) (f : Dev → Dev) (bs : List Byte) : State :=
  let s := hubState a 7 0 bs
  { s with d := f { s.d with dir := Table.set {} [] 7 en } }
theorem witness_requests : ∀ en ∈ [({} : DirEnt), { st := 1, hs := 3 }, { st := 2, own := 1 }, { st := 3 }], (lineState 1 en id []).d.dirEnt 7 = en ∧ (lineState 1 en id []).d.txn? 7 = none ∧
    (lineState 1 en id []).d.reqs = [] ∧ (lineState 1 en id []).d.wb = [] := by decide +kernel
theorem test_rds_alone : (after (exec .rds (lineState 1 {} id []))).d.msgs.map (fun m => (m.dst, m.kind == mGrant, m.arg)) = [(1, true, 6)] := by decide +kernel
theorem test_rdx_snoops : (after (exec .rdx (lineState 0 { st := 2, own := 1 } id []))).d.msgs.map (fun m => (m.dst, m.kind == mSnpI)) = [(1, true), (2, true)] := by decide +kernel
theorem test_wb : let t := after (exec .wb (lineState 0 { st := 2, own := 0 } (fun d => { d with copies := [{ agent := 0, line := 7, mesi := 3 }] }) (List.replicate 128 5)))
    (t.mem.length, t.mem.byte 896, t.d.copies.length, t.d.dir.length) = (128, 5, 0, 0) := by decide +kernel
theorem witness_wb : (lineState 0 { st := 2, own := 0 } id (List.replicate 128 5)).Ok ∧ ((lineState 0 { st := 2, own := 0 } id []).d.dirEnt 7).own = ownCode 0 := ⟨⟨by decide +kernel, rfl⟩, by decide +kernel⟩
def snooped (m : Nat) : State := lineState 0 {} (fun d => { d with copies := [{ agent := 0, line := 7, mesi := m }], msgs := [{ dst := 0, kind := mSnpS, line := 7, arg := 0 }] }) []
theorem test_snps_modified : let d := (after (exec .snps (snooped 3))).d; (d.copies.map (·.mesi), d.msgs.map fun m => (m.kind == mRsp, m.arg, m.bytes.length)) = ([1], [(true, 5, 128)]) := by decide +kernel
def tTxn (sent : Bool) : Txn := { req := { agent := 0, line := 7, kind := 1 }, snoops := if sent then [] else [(1, true)], withData := true, sent := sent }
def answered1 : State := lineState 1 { st := 2, own := 1 } (fun d => { d with txns := [tTxn false], msgs := [{ dst := agentHome, kind := mRsp, line := 7, arg := 16 }] }) []
theorem witness_answer : (answered1.d.txns.filter fun u => u.req.line = 7) = [tTxn false] ∧ (tTxn false).recovery = false ∧ (tTxn false).req.agent ≠ agentOwn := by decide +kernel
theorem test_answer_grants : (after (exec .rsp answered1)).d.msgs.map (fun m => (m.dst, m.kind == mGrant, m.arg)) = [(0, true, 6)] := by decide +kernel
theorem test_grant_and_ack : let s := lineState 0 {} (fun d => { d with txns := [tTxn true], msgs := [{ dst := 0, kind := mGrant, line := 7, arg := 6 }] }) []
    ((after (exec .go s)).d.copies.map (·.mesi), (after (exec .goack s)).d.txns.length) = ([2], 0) := by decide +kernel
-- links and ports: a flit that fails its checks, a trained link, the last port
def linkState (a : Nat) (bs : List Byte) : State :=
  let s := hubState a 5 0 bs
  { s with d := { s.d with links := List.replicate 8 { up := true }, hub := { peercfg := 0x80 } } }
theorem witness_links : (linkState 7 []).d.links[7]? = some { up := true } ∧ (linkState 3 []).d.hub.cxlup.length = 4 ∧ (linkState 3 []).d.hub.cxlcap.length = 4 := by decide +kernel
theorem test_bad_flit : (after (exec .peerFlitReceive (linkState 7 [1]))).d.hub.linkst = 0x100 := by decide +kernel
theorem test_port_up : let h := (after (exec .downstreamPortLinkUp (linkState 3 []))).d.hub; (h.cxlup.getD 3 false, h.cxlcap.getD 3 0) = (true, 0x50000) := by decide +kernel
-- the mailbox: an image at its bound and one beyond it, its states, a verification that fails
def boxState (st a b : Nat) (bs : List Byte) : State := let s := hubState a b 0 bs; { s with d := { s.d with hub := { bootState := st } } }
theorem witness_mailbox : ∀ st ∈ [0, 1, 2, 3, 4], (boxState st 64 0 [1, 2]).d.wb = [] ∧ (boxState st 64 0 [1, 2]).d.hub.mr.length = 8 ∧ Table.okFrom 0#8 0 (boxState st 64 0 [1, 2]).d.imageBytes = true := by decide +kernel
theorem test_image : (after (exec .image (boxState 1 64 0 [1, 2]))).d.imageBytes = [(64, 1), (65, 2)] ∧ (after (exec .image (boxState 3 64 0 [1, 2]))).d.imageBytes = [] ∧
    (after (exec .image (boxState 1 (32 * 2 ^ 20 - 1) 0 [1, 2]))).d.imageBytes = [] := by decide +kernel
theorem test_boot_takes : (after (exec .boot (boxState 1 10 0 []))).d.hub.bootState = 2 := by decide +kernel
theorem test_boot_shape : (boxState 2 10 1 []).d.bootReason 10 = 1 := by decide +kernel
-- resets, power, the gates
def powState (p : Power) (f : Dev → Dev) (a clock : Nat) : State := let s := hubState a 0 0 []; { s with clock := clock, d := f { s.d with power := p } }
theorem witness_power : ∀ p ∈ [Power.on, .d3hot, .d3cold], (powState p id 0 100).d.power = p ∧ (powState p id 0 100).d.wb = [] ∧ (powState p id 0 100).d.queues = [] ∧ (powState p id 0 100).d.wgs = [] := by decide +kernel
theorem test_reset_keeps : let s := powState .d3cold (fun d => { d with auxKept := true, harts := List.replicate 8 { running := true } }) 0 100
    (after (exec .moduleReset s)).mem = [(1000, 3)] ∧ (after (exec .moduleReset s)).clock = 0 := by decide +kernel
theorem test_power_limit : ((after (exec .powerSample (powState .on (fun d => { d with pinHigh := 2 }) 14401 100))).d.pinHigh, (after (exec .powerSample (powState .on (fun d => { d with pinHigh := 3 }) 14401 100))).clock) =
    (3, 0) := by decide +kernel
theorem test_power_states : (after (exec .d3hotEntry (powState .on id 0 100))).d.power = .d3hot ∧ (after (exec .d3coldEntry (powState .d3hot id 0 100))).d.power = .d3cold ∧
    (after (exec .d3hotExit (powState .d3cold id 0 100))).d.power = .d3cold := by decide +kernel
theorem test_gate_time : [65536, 65535].map (fun c => ((after (exec .coreIdleGate (powState .on id 0 c))).d.core 0).gated) = [true, false] := by decide +kernel
-- a head: its block, a frame that is complete, one that is late
def headState (on : Bool) (want have_ : Nat) : State :=
  { clock := 100
    mem := cells 0x10000 (leBytes 8 (winA + 0x20000) ++ leBytes 8 (winA + 0x30000) ++ leBytes 8 want ++ leBytes 8 (winA + 0x40000) ++ List.replicate 16 0 ++ [1]) ++ cells 0x30000 (leBytes 8 have_)
    d := { Dev.afterReset 0 with heads := { on := on } :: List.replicate 3 {}, hub := { dspbase := BitVec.ofNat 64 (winA + 0x10000) } } }
theorem witness_head : ((headState true 5 5).d.headBlock (headState true 5 5).env 0).any (fun b => (fieldN b 48 1).testBit 0 && decide (fieldN b 16 8 = 5)) = true ∧ (headState true 5 5).d.heads.length = 4 ∧
    ((List.range 4).all fun h => ((headState true 5 5).d.headBlock (headState true 5 5).env h).isSome) = true ∧ ((headState true 5 5).d.iaBytes (headState true 5 5).env (winA + 0x30000) 8).map leNat = some 5 := by decide +kernel
theorem test_frame : [5, 4].map (fun n => ((after (exec .displayGuardTime (headState true 5 n))).d.heads.getD 0 {}).out) = [1, 0] := by decide +kernel
-- the Rinsar instructions: each mode, an odd offset, an empty queue
def hartState (h : Hart) : State := let s := stQ (fenceSlot 1 0 0) []; { s with d := { s.d with harts := [h] } }
def xRegs (l : List Nat) : List DWord := ((0 :: l).map (BitVec.ofNat 64)) ++ List.replicate (31 - l.length) 0
def hartAfter (i : Instr) (h : Hart) : Hart := (after (exec i (hartState h))).d.harts.headD {}
theorem witness_hart : ∀ m ∈ [0, 1, 3], (hartState { x := xRegs [0, 64, 7], mode := m }).d.harts[0]? = some { x := xRegs [0, 64, 7], mode := m } ∧ (xRegs [0, 64, 7]).length = 32 ∧ (xRegs [0, 64, 7]).headD 1 = 0 ∧
    (hartState {}).d.curHart = 0 ∧ (hartState {}).d.wb = [] := by decide +kernel
theorem test_bfxt : let h := hartAfter (.bfxt 5 1 2) { x := xRegs [0x1234567, 0x14C], pc := 0x100 }; (h.x.getD 5 0, h.pc) = (0x34, 0x104) := by decide +kernel
theorem test_user_hart : (hartAfter (.bfxt 5 1 2) { x := xRegs [], mode := 0 }).mcause = 28 := by decide +kernel
theorem test_rfetch : let h := hartAfter (.rfetch 5 1 2) { x := xRegs [0, 64], pc := 0x100 }; (h.x.getD 5 0, Table.get 0 h.buf 64) = (0x8000000000000046, 9) := by decide +kernel
theorem test_rfetch_offset : let h := hartAfter (.rfetch 5 1 2) { x := xRegs [0, 65] }; (h.mcause, h.mtval) = (25, 65) := by decide +kernel
theorem test_swait : (hartAfter (.swait 5 1) { x := xRegs [5], evEn := true }).waiting = some (102, 5) ∧ (hartAfter (.swait 5 1) { x := xRegs [5] }).mcause = 30 := by decide +kernel
def recBuf : Table Byte := ((List.range 256).zip (recX 1 0 false)).filter fun p => p.2 ≠ 0
theorem test_dspch : ((after (exec (.dspch 6 1 2) (hartState { x := xRegs [0, 5], buf := recBuf }))).d.launches.map (·.total), (hartAfter (.dspch 6 1 2) { x := xRegs [0, 2 ^ 18], buf := recBuf }).mcause) = ([4], 27) := by decide +kernel
theorem witness_hart_waits : ∀ c ∈ [102, 101], let s : State := { hartState { x := xRegs [], waiting := some (102, 5), asking := some (102, 6) } with clock := c }
    (s.d.harts[s.d.arg.a - 5]?).map (·.waiting) = some (some (102, 5)) := by decide +kernel

-- base instructions of a hart, words as the RISC-V manual assembles them: `addi x5, x0, -3`; `c.li x10, -1`; `mulh x5, x1, x2`; `sd x1, 8(x2)` to EVBASE; `lw x5, 0(x2)`; `ecall`;
-- `csrrw x0, mtvec, x1`; `beq x0, x0, -4`; a word of zeros; `lr.w`/`sc.w`
def baseState (w : Nat) (n : Nat) (h : Hart) : State :=
  let s := hartState { h with running := true, pc := 0x80000000#64 }
  { s with mem := cells (hartKey 0x1000) (leBytes 8 0x80000001FFFFFFFE) ++ cells (hartKey 0x80000000) (leBytes n w), d := { s.d with agenda := [.hart 0], ropes := [] } }
def baseAfter (w : Nat) (n : Nat) (h : Hart) : Hart := (after (step (baseState w n h))).d.harts.headD {}
theorem test_base_addi : let h := baseAfter 0xFFD00293 4 { x := xRegs [] }; (h.x.getD 5 0, h.pc) = (-3, 0x80000004) := by decide +kernel
theorem test_base_cli : let h := baseAfter 0x557D 2 { x := xRegs [] }; (h.x.getD 10 0, h.pc) = (-1, 0x80000002) := by decide +kernel
theorem test_base_mulh : let h := baseAfter 0x022092B3 4 { x := xRegs [2 ^ 64 - 2, 2 ^ 62] }; h.x.getD 5 0 = -1 := by decide +kernel
theorem test_base_hub_store : (after (step (baseState 0x00113423 4 { x := xRegs [2 ^ 60 + 0x123456789ABC, 0x40060000] }))).d.hub.evbase = 0x12345678900C := by decide +kernel
theorem test_base_load : (baseAfter 0x00012283 4 { x := xRegs [0, 0x1000] }).x.getD 5 0 = -2 ∧ (baseAfter 0x00012283 4 { x := xRegs [0, 0x1001] }).mcause = 4 := by decide +kernel
theorem test_base_trap : let h := baseAfter 0x00000073 4 { x := xRegs [], mode := 1, mtvec := 0x200 }; (h.mcause, h.mepc, h.pc, h.mode, h.mstatus) = (9, 0x80000000, 0x200, 3, 0x800) ∧
    (baseAfter 0 4 { x := xRegs [] }).mcause = 2 := by decide +kernel
theorem test_base_csr : (baseAfter 0x30509073 4 { x := xRegs [0x80000103] }).mtvec = 0x80000100 ∧ (baseAfter 0xFE000EE3 4 { x := xRegs [] }).pc = 0x7FFFFFFC := by decide +kernel
theorem test_base_lr_sc : (baseAfter 0x100122AF 4 { x := xRegs [0, 0x1000] }).resv = some 0x1000 ∧
    (let h := baseAfter 0x181122AF 4 { x := xRegs [7, 0x1000], resv := some 0x1000 }; (h.x.getD 5 9, h.resv)) = (0, none) ∧ (baseAfter 0x181122AF 4 { x := xRegs [7, 0x1000] }).x.getD 5 9 = 1 := by decide +kernel

-- a fibre that stands in text: `iadd w1, w2, w0` in local GDDR 7; at the end of the text; at a reserved and at a privileged opcode
def textState (ws : List Word) (pc : DWord) (user : Bool) : State :=
  let s := tState { tWg [{ tFib [1, 0, 6] with pc := pc, priv := !user }] with ctx := {} } { tLaunch with r := { tRec with text := 0x1000 } }
  { s with mem := cells 0x1000 (ws.flatMap fun w => leBytes 4 w.toNat) }
def textWg (pc : DWord) (user : Bool) : WG := { tWg [{ tFib [1, 0, 6] with pc := pc, priv := !user }] with ctx := {} }
def textL : Launch := { tLaunch with r := { tRec with text := 0x1000 } }
theorem stands (ws : List Word) (pc : DWord) (user : Bool) (h : (List.range 20).all (fun j =>
    rangeLookup (textWg pc user).rng ((textBase (textWg pc user) { tFib [1, 0, 6] with pc := pc, priv := !user } textL + pc.toNat + j) % 2 ^ 57) == some (0xFF * 2 ^ 44 + (0x1000 + pc.toNat) + j)) = true)
    (hp : pc.toNat < 4096) : Stands (textState ws pc user) { core := 0, quad := 0, fibs := [(3, 0)] } [] (textWg pc user) { tFib [1, 0, 6] with pc := pc, priv := !user } textL (0x1000 + pc.toNat) where
  ropes := rfl
  fibre := ⟨3, 0, [], rfl, rfl, rfl⟩
  launch := rfl
  placed := .inl rfl
  quiet := rfl
  clean := rfl
  mine := rfl
  one := rfl
  unchanged := fun _ _ => .inl rfl
  text := fun j hj => eq_of_beq (List.all_eq_true.1 h j (List.mem_range.2 hj))
  memory := by unfold gddrSize; omega
theorem witness_stands : Stands (textState [0x00101038] 0 true) { core := 0, quad := 0, fibs := [(3, 0)] } [] (textWg 0 true) { tFib [1, 0, 6] with pc := 0, priv := false } textL 0x1000 ∧
    (0 : Nat) + 4 ≤ textSize (textWg 0 true) { tFib [1, 0, 6] with pc := 0, priv := false } textL := ⟨stands _ 0 true (by decide +kernel) (by decide), by decide⟩
theorem witness_stands_end : Stands (textState [] 4093 true) { core := 0, quad := 0, fibs := [(3, 0)] } [] (textWg 4093 true) { tFib [1, 0, 6] with pc := 4093, priv := false } textL 0x1FFD ∧
    textSize (textWg 4093 true) { tFib [1, 0, 6] with pc := 4093, priv := false } textL < 4093 + 4 := ⟨stands _ 4093 true (by decide +kernel) (by decide), by decide⟩
theorem test_step : (fibre (step (textState [0x00101038] 0 true))).word 1 = 7 := by decide +kernel
theorem test_step_beyond : (trapOf (step (textState [] 4093 true))).map (·.1) = some cAccessDenied := by decide +kernel
theorem test_step_reserved : trapOf (step (textState [0] 0 true)) = some (cIllegalEncoding, 0) := by decide +kernel
-- XOPC 0x1E0, whatever its operands, and XOPC 0x1E8
theorem test_step_privileged : trapOf (step (textState [0xFFFFFF82, 0xFFFFFFFF, 0xFFFFFFFF] 0 true)) = some (cAccessDenied, 0) := by decide +kernel
theorem test_step_unassigned : trapOf (step (textState [0x7A2, 0, 0] 0 false)) = some (cIllegalEncoding, 0x7A2) := by decide +kernel
def agendaState (t : Todo) : State := { clock := 5, mem := [(2 ^ 62 + 0x80000000, 0x8B), (2 ^ 62 + 0x80000001, 0x12), (2 ^ 62 + 0x80000002, 0x73)], d := { Dev.afterReset 0 with agenda := [t], harts := List.replicate 8 { pc := 0x80000000, running := true } } }
theorem witness_agenda : (agendaState (.hart 2)).d.ropes = [] ∧ hartKey 0x80000000 = 2 ^ 62 + 0x80000000 := by decide +kernel
theorem test_hart_step : ((after (step (agendaState (.hart 2)))).d.harts.getD 2 {}).pc = 0x80000004 := by decide +kernel
theorem test_event_step : (after (step (agendaState (.ev .doorbell 0 0 0 [])))).d.agenda = [] := by decide +kernel
-- the invariant, the checks, a pointer of each space, a rope of two fibres, a core clock with and without power, critical regions
theorem witness_reset_ok : State.reset.Ok := ⟨by decide, rfl⟩
theorem witness_ok : (textState [0x00101038] 0 true).Ok := ⟨by decide +kernel, rfl⟩
theorem witness_memory : Memory.wf [(5, 1), (9, 2)] = true ∧ Memory.byte [(5, 1), (9, 2)] 9 = 2 := by decide
theorem test_write_unlisted : Memory.setByte [(5, 1), (9, 2)] 5 0 = [(9, 2)] := by decide
theorem sole {g : WG} {l : Launch} {f : Fib} (hg : (tState g l).d.wg? 3 = some g) (hf : g.fib? 0 = some f) (hl : (tState g l).d.launch? g.launch = some l) (hv : f.live = true) :
    Sole (tState g l) [] 3 0 g f l := ⟨⟨0, 0, rfl⟩, hg, hf, hl, hv, rfl⟩
def emptyFib : Fib := { tFib [1, 2] with emp := [0] }
theorem witness_checks : Sole (tState (tWg [emptyFib]) tLaunch) [] 3 0 (tWg [emptyFib]) emptyFib tLaunch ∧ form (.iadd 0 false 2 0 1) = some (aluIadd.toIns, twinDAB 0 false 2 0 1) ∧
    (∃ b, exec (.iadd 0 false 2 0 1) = issue aluIadd.toIns b (.iadd 0 false 2 0 1) (twinDAB 0 false 2 0 1)) := ⟨sole rfl rfl rfl rfl, rfl, _, rfl⟩
theorem witness_empty : aluIadd.gate (lvOf (tState (tWg [emptyFib]) tLaunch).d (tWg [emptyFib]) emptyFib tLaunch) true emptyFib (twinDAB 0 false 2 0 1) = .wait [0] [] := by decide
theorem test_empty_holds : (fibre (exec (.iadd 0 false 2 0 1) (tState (tWg [emptyFib]) tLaunch))).wait = .words [0] [] := by decide
theorem test_fe_empty : trapOf (exec (.iaddExtended { x0 with d := 2, b := 1, fa := true }) (tState (tWg [emptyFib]) tLaunch)) = some (cFeEmpty, 0) := by decide
theorem witness_feature : let d := (tState (tWg [tFib []]) tLaunch).d.modCore 0 fun k => { k with feature := 0 }
    insAclr.feat (lvOf d (tWg [tFib []]) (tFib []) tLaunch) (matX 0) &&& ~~~(d.core 0).feature = featMatrix ∧ featMatrix ≠ 0 := by decide
theorem test_pointers :
    let ask := fun (q n al : Nat) (sp : List Nat) (wr : Bool) => resolve (tWg [tFib []]) (tFib []) tLaunch 0 q n sp al true wr
    gives (ask 0x1000 4 4 [0] false) (.glob 0x1000) ∧ fails (ask 0x1000 4 4 [1] false) (cSpaceInvalid, 0x1000) ∧ gives (ask (2 ^ 60 + 4092) 4 4 [1] false) (.vault 0 4092) ∧
    fails (ask (2 ^ 60 + 4093) 4 4 [1] false) (cVaultRange, 2 ^ 60 + 4093) ∧ gives (ask (2 ^ 61 + 16380) 4 4 [2] false) (.acc 16380) ∧ fails (ask (2 ^ 61 + 16384) 4 4 [2] false) (cVaultRange, 2 ^ 61 + 16384) ∧
    gives (ask (3 * 2 ^ 60 + 252) 4 4 [3] false) (.glob 0x300FC) ∧ fails (ask (3 * 2 ^ 60 + 253) 4 4 [3] false) (cAccessDenied, 3 * 2 ^ 60 + 253) ∧ fails (ask (2 ^ 62) 4 4 [4] true) (cAccessDenied, 2 ^ 62) ∧
    fails (ask (5 * 2 ^ 60) 4 4 [5] false) (cSpaceInvalid, 5 * 2 ^ 60) ∧ fails (ask 0x1002 4 4 [0] false) (cMisaligned, 0x1002) := by decide
def pairWg : WG := tWg [tFib [1, 2], { tFib [5, 6] with lane := 1 }]
def pairState : State := let s := tState pairWg tLaunch; { s with d := { s.d with ropes := [{ core := 0, quad := 0, fibs := [(3, 0), (3, 1)] }] } }
theorem witness_rope : (∃ u, logicRule (.and 0 false 2 0 1) = some u ∧ u.x = twinDAB 0 false 2 0 1 ∧
      ∀ q ∈ [(3, 0), ((3, 1) : Nat × Nat)], ∃ f, pairState.d.wg? q.1 = some pairWg ∧ pairWg.fib? q.2 = some f ∧ pairState.d.launch? pairWg.launch = some tLaunch ∧ f.live = true ∧
        (form (.and 0 false 2 0 1)).all (fun p => decide (p.1.check (lvOf pairState.d pairWg f tLaunch) p.2 ((encode (.and 0 false 2 0 1)).headD 0#32) = none ∧ p.1.gate (lvOf pairState.d pairWg f tLaunch) true f p.2 = .pass)) = true ∧
        f.pend = [] ∧ f.pred 0 = true ∧ arithTraps 0 (u.out f (srcA 100 pairWg f u.x u.na) (srcB 100 pairWg f u.x u.nb) (srcC f u.x u.nc)).fl = false) ∧
    pairState.d.wb = [] ∧ [(3, 0), ((3, 1) : Nat × Nat)].Nodup := by
  refine ⟨⟨_, rfl, rfl, fun q hq => ?_⟩, rfl, by decide⟩
  simp only [List.mem_cons, List.not_mem_nil, or_false] at hq
  rcases hq with rfl | rfl
  · exact ⟨tFib [1, 2], rfl, rfl, rfl, rfl, by decide, rfl, rfl, by decide⟩
  · exact ⟨{ tFib [5, 6] with lane := 1 }, rfl, rfl, rfl, rfl, by decide, rfl, rfl, by decide⟩
theorem test_rope : let d := (after (exec (.iadd 0 false 2 0 1) pairState)).d; ((d.fib? 3 0).map (·.word 2), (d.fib? 3 1).map (·.word 2)) = (some 3, some 11) := by decide
def idle (p : Power) : State := { clock := 9, mem := [], d := { Dev.afterReset 0 with power := p, inputs := [(10, .ev .doorbell 1 0 0 []), (11, .ev .doorbell 2 0 0 [])], choices := List.replicate 40 0 } }
theorem witness_issue_cycle : ∀ p ∈ [Power.on, .d3hot], (idle p).d.wb = [] ∧ (idle p).d.ropes = [] ∧ ((idle p).d.wgs.map (·.id)).Nodup := by decide
theorem test_issue_cycle_without_power : let t := after (exec .issueCycle (idle .d3hot)); (t.clock, t.d.agenda, t.d.inputs.length) = (10, [.ev .doorbell 1 0 0 []], 1) := by decide +kernel
theorem test_rope_forms : let s : State := { pairState with d := { pairState.d with ropes := [], hub := { bootState := 3 }, parts := [Partition.all] } }
    ((after (exec .issueCycle s)).d.ropes.map (·.fibs)) = [[(3, 0), (3, 1)]] := by decide +kernel
theorem witness_critical_end : (rnOf (svFib []) svCtx svL).Of (.tmaskEnd (mX 0x00800000)) (mX 0x00800000) (stOf (svFib []) svCtx svL id) := of (by decide)
theorem test_reserved_mask_mode : trapOf (exec (.tmaskEnd (mX 0x01000000)) (stOf (svFib []) svCtx svL id)) = some (cIllegalOperand, (encode (.tmaskEnd (mX 0x01000000))).headD 0 |>.toNat) := by decide
def critWg (h : Halt) : WG := { tWg [{ tFib [] with critn := 5 }] with halt := h, haltAt := 100, trap := some (tCause 0) }
theorem witness_critical_halt : ∀ h ∈ [Halt.trap, .preempt], (haltState (critWg h) 115).d.wg? 3 = some (critWg h) ∧ (haltState (critWg h) 115).d.ops = [] ∧ (critWg h).stopped = false ∧
    ((haltState (critWg h) 115).d.core 0).colls = [] ∧ (critWg h).mops = [] := by decide
theorem test_critical_halt : [Halt.trap, .preempt].map (fun h => (group (exec .haltComplete (haltState (critWg h) 115))).stopped) = [true, false] := by decide +kernel
end Sys2Proof.Tests
end

/-! # Scope: memory, the answers of a step, the core clock (spec/00) -/

namespace Sys2Proof.Machine

open Sys2Proof

/-! ## Canonical tables are determined by what they read -/

theorem get_cons_self {α : Type} (z v : α) (r : Table α) (j : Nat) : Table.get z ((j, v) :: r) j = v := if_pos rfl

theorem get_cons_below {α : Type} (z v : α) (r : Table α) {j k : Nat} (h : k < j) : Table.get z ((j, v) :: r) k = z := by
  simp only [Table.get]
  rw [if_neg (by omega), if_pos h]

theorem get_cons_above {α : Type} (z v : α) (r : Table α) {j k : Nat} (h : j < k) :
    Table.get z ((j, v) :: r) k = Table.get z r k := by
  simp only [Table.get]
  rw [if_neg (by omega), if_neg (by omega)]

/-- A canonical table with an entry, taken apart. -/
theorem okFrom_cons {α : Type} [DecidableEq α] {z v : α} {r : Table α} {a j : Nat} :
    Table.okFrom z a ((j, v) :: r) = true ↔ a ≤ j ∧ v ≠ z ∧ Table.okFrom z (j + 1) r = true := by
  simp only [Table.okFrom, Bool.and_eq_true, decide_eq_true_eq, and_assoc]

/-- Of two canonical tables that read alike, neither lists a key below the first of the other. -/
theorem head_le_of_get_eq {α : Type} [DecidableEq α] {z v w : α} {r u : Table α} {j k : Nat} (hv : v ≠ z)
    (h : ∀ n, Table.get z ((j, v) :: r) n = Table.get z ((k, w) :: u) n) : k ≤ j := by
  refine Nat.le_of_not_lt fun hlt => hv ?_
  rw [← get_cons_self z v r j, h j, get_cons_below z w u (by omega)]

/-- Two canonical tables that read alike at every key are equal. -/
theorem okFrom_ext {α : Type} [DecidableEq α] {z : α} {t u : Table α} {a b : Nat} (ht : Table.okFrom z a t = true)
    (hu : Table.okFrom z b u = true) (h : ∀ n, Table.get z t n = Table.get z u n) : t = u := by
  induction t generalizing a b u with
  | nil =>
    match u with
    | [] => rfl
    | (k, w) :: u =>
      obtain ⟨_, hw, _⟩ := okFrom_cons.1 hu
      exact absurd ((h k).trans (get_cons_self z w u k)).symm hw
  | cons p r ih =>
    obtain ⟨j, v⟩ := p
    obtain ⟨_, hv, hr⟩ := okFrom_cons.1 ht
    match u with
    | [] => exact absurd ((get_cons_self z v r j).symm.trans (h j)) hv
    | (k, w) :: u =>
      obtain ⟨_, hw, hu⟩ := okFrom_cons.1 hu
      obtain rfl : j = k := Nat.le_antisymm (head_le_of_get_eq hw fun n => (h n).symm) (head_le_of_get_eq hv h)
      have hvw : v = w := by rw [← get_cons_self z v r j, h j, get_cons_self]
      have hru : r = u := by
        refine ih hr hu fun n => ?_
        by_cases hn : j < n
        · rw [← get_cons_above z v r hn, h n, get_cons_above z w u hn]
        · rw [get_low hr (by omega), get_low hu (by omega)]
      rw [hvw, hru]

/-- Memories in canonical form that read alike are one list. -/
theorem Memory.ext_byte {m n : Memory} (hm : m.wf = true) (hn : n.wf = true) (h : ∀ a, m.byte a = n.byte a) : m = n :=
  okFrom_ext hm hn h

/-- `n` bytes of a number hold its low `8 n` bits. -/
theorem leNat_leBytes (n v : Nat) : leNat (leBytes n v) = v % 256 ^ n := by
  induction n generalizing v with
  | zero => simp [leBytes, leNat, Nat.mod_one]
  | succ n ih =>
    rw [leBytes, leNat, ih, BitVec.toNat_ofNat, Nat.pow_succ' (m := 256) (n := n)]
    exact Nat.mod_mul.symm

/-- Settles O53, by the read-after-write law of canonical tables and their extensionality. -/
theorem memoryReadsWhatWasWritten : Obligations.MemoryReadsWhatWasWritten := by
  refine ⟨fun m a b h => ⟨setByte_wf a b h, ?_, fun c hc => ?_⟩, fun _ _ => Memory.ext_byte, leNat_leBytes⟩
  · rw [byte_setByte h, if_pos rfl]
  · rw [byte_setByte h, if_neg hc]

/-! ## Every meaning is a step of the device -/

/-- But for the three meanings that set the clock themselves, an instruction or unit step changes the device and the memory bytes that the
device writes. -/
theorem exec_eq_event (i : Instr) (h₁ : i ≠ .issueCycle) (h₂ : i ≠ .moduleReset) (h₃ : i ≠ .powerSample) :
    ∃ f, exec i = event f := by
  cases i with
  | issueCycle => exact absurd rfl h₁
  | moduleReset => exact absurd rfl h₂
  | powerSample => exact absurd rfl h₃
  | _ => exact ⟨_, rfl⟩

theorem exec_issueCycle (s : State) :
    exec .issueCycle s =
      .next (({ s with clock := s.clock + 1 } : State).put (s.d.cycle { now := s.clock + 1, mem := s.mem })) := rfl

theorem exec_moduleReset (s : State) : exec .moduleReset s = .next s.moduleReset := rfl

/-- POWER_SAMPLE resets the module, or is a step of the device as the others are. -/
theorem exec_powerSample (s : State) :
    exec .powerSample s = .next (s.put (s.d.sample s.d.arg.a)).moduleReset ∨
      exec .powerSample s = .next (s.put (s.d.sample s.d.arg.a)) := by
  simp only [exec, execPowerSample]
  split
  · exact .inl rfl
  · exact .inr rfl

/-- The clock after an instruction or a unit step, which always answers a next state. -/
theorem exec_next_clock (i : Instr) (s : State) :
    ∃ t, exec i s = .next t ∧
      (t.clock = s.clock + (if i = .issueCycle then 1 else 0) ∨ ((i = .moduleReset ∨ i = .powerSample) ∧ t.clock = 0)) := by
  by_cases h₁ : i = .issueCycle
  · subst h₁
    exact ⟨_, exec_issueCycle s, .inl rfl⟩
  by_cases h₂ : i = .moduleReset
  · subst h₂
    exact ⟨_, exec_moduleReset s, .inr ⟨.inl rfl, rfl⟩⟩
  by_cases h₃ : i = .powerSample
  · subst h₃
    rcases exec_powerSample s with h | h
    · exact ⟨_, h, .inr ⟨.inr rfl, rfl⟩⟩
    · exact ⟨_, h, .inl rfl⟩
  obtain ⟨f, hf⟩ := exec_eq_event i h₁ h₂ h₃
  exact ⟨_, by rw [hf, event_next], .inl (by rw [if_neg h₁]; rfl)⟩

theorem exec_next (i : Instr) (s : State) : ∃ t, exec i s = .next t :=
  (exec_next_clock i s).imp fun _ h => h.1

/-- Whatever stands first, a rope, an item of the agenda or the next cc, a step answers a next state. -/
theorem step_next (s : State) : ∃ t, step s = .next t := by
  unfold step
  split
  case h_1 => -- a rope
    split
    · exact exec_next _ _
    · exact ⟨_, rfl⟩
  case h_2 => -- the agenda
    split
    case h_1 => exact exec_next _ _
    case h_2 => exact exec_next _ _
    case h_3 => -- the turn of a hart
      dsimp only
      split
      · exact ⟨_, rfl⟩
      · split
        · exact exec_next _ _
        · exact ⟨_, rfl⟩
        · exact ⟨_, rfl⟩
    case h_4 => exact ⟨_, rfl⟩
    case h_5 => exact ⟨_, rfl⟩

/-- Settles O52: every arm of the dispatch is a step of the device, but for the three that set the clock. -/
theorem theMachineGoesOn : Obligations.TheMachineGoesOn := by
  refine ⟨exec_next, step_next, fun i s t h => ?_⟩
  obtain ⟨u, hu, hclock⟩ := exec_next_clock i s
  obtain rfl : u = t := by rw [hu] at h; exact Host.Outcome.next.inj h
  exact hclock

/-! # ISSUE_CYCLE (spec/01, R33 to R36) -/

/-! ## Devices that agree on their ropes, on the boot state and on a view of their work-groups -/

/-- Two devices have the same ropes and boot state, and their work-groups, in order, look the same through `v`. -/
structure Dev.Agrees {α : Type} (v : WG → α) (d d' : Dev) : Prop where
  ropes : d'.ropes = d.ropes
  boot : d'.hub.bootState = d.hub.bootState
  wgs : d'.wgs.map v = d.wgs.map v

namespace Dev.Agrees

variable {α β : Type} {v : WG → α} {d d' d'' : Dev}

theorem refl (d : Dev) : Dev.Agrees v d d := ⟨rfl, rfl, rfl⟩

theorem trans (h : Dev.Agrees v d d') (h' : Dev.Agrees v d' d'') : Dev.Agrees v d d'' :=
  ⟨h'.ropes.trans h.ropes, h'.boot.trans h.boot, h'.wgs.trans h.wgs⟩

/-- A change that touches neither ropes nor hub nor work-groups. -/
theorem of_eq (h : (d'.ropes, d'.hub, d'.wgs) = (d.ropes, d.hub, d.wgs)) : Dev.Agrees v d d' := by
  simp only [Prod.mk.injEq] at h
  obtain ⟨hr, hh, hw⟩ := h
  exact ⟨hr, by rw [hh], by rw [hw]⟩

/-- A change of each work-group that the view does not see. -/
theorem mapWgs {f : WG → WG} (d : Dev) (hf : ∀ g, v (f g) = v g) :
    Dev.Agrees v d { d with wgs := d.wgs.map f } :=
  ⟨rfl, rfl, by simp only [List.map_map]; exact List.map_congr_left fun g _ => hf g⟩

theorem modWg {f : WG → WG} (d : Dev) (w : Nat) (hf : ∀ g, v (f g) = v g) :
    Dev.Agrees v d (d.modWg w f) :=
  mapWgs d fun g => by
    split
    · exact hf g
    · rfl

theorem modHub {f : Hub → Hub} (d : Dev) (hf : ∀ h, (f h).bootState = h.bootState) :
    Dev.Agrees v d (d.modHub f) :=
  ⟨rfl, hf d.hub, rfl⟩

theorem ite {c : Prop} [Decidable c] {a b : Dev} (ha : Dev.Agrees v d a) (hb : Dev.Agrees v d b) :
    Dev.Agrees v d (if c then a else b) := by
  split
  · exact ha
  · exact hb

theorem foldl {f : Dev → β → Dev} (hf : ∀ d b, Dev.Agrees v d (f d b)) (l : List β) (d : Dev) :
    Dev.Agrees v d (l.foldl f d) := by
  induction l generalizing d with
  | nil => exact refl d
  | cons b l ih => exact (hf d b).trans (ih _)

/-- A coarser view agrees as well. -/
theorem coarser {u : WG → β} (h : Dev.Agrees v d d') (p : α → β) (hp : ∀ g, p (v g) = u g) :
    Dev.Agrees u d d' := by
  refine ⟨h.ropes, h.boot, ?_⟩
  have e : ∀ l : List WG, l.map u = (l.map v).map p := fun l => by
    rw [List.map_map]; exact List.map_congr_left fun g _ => (hp g).symm
  rw [e, e, h.wgs]

end Dev.Agrees

/-! ## Writes to memory: nothing but the marks of fibres in `wait` on a line changes in a work-group -/

/-- A fibre less the mark that its line was written. -/
def Fib.calm (f : Fib) : Fib :=
  match f.wait with
  | .memw k l v _ i => { f with wait := .memw k l v false i }
  | _ => f

/-- A work-group less those marks. -/
def WG.calm (g : WG) : WG := { g with fibs := g.fibs.map Fib.calm }

theorem Fib.calm_of_ready {f : Fib} (h : f.wait = .none) : f.calm = f := by simp only [Fib.calm, h]

theorem WG.calm_map {m : Fib → Fib} (hm : ∀ f, (m f).calm = f.calm) (g : WG) : WG.calm { g with fibs := g.fibs.map m } = g.calm := by
  simp only [WG.calm, List.map_map]
  congr 1
  exact List.map_congr_left fun f _ => hm f

theorem Dev.touch_agrees (d : Dev) (line : Nat) : Dev.Agrees WG.calm d (d.touch line) := by
  refine .trans (.ite (.mapWgs d (WG.calm_map fun f => ?_)) (.refl d)) (.ite (.refl _) (.of_eq (by rfl)))
  cases h : f.wait with
  | memw k l v b i =>
    by_cases e : k = line
    · simp only [Fib.calm, h, e, if_true]
    · simp only [e, if_false]
  | _ => rfl

/-- Bytes written wake waiters and change no work-group otherwise. -/
theorem Dev.write_agrees (d : Dev) (k : Nat) (bs : List Byte) : Dev.Agrees WG.calm d (d.write k bs) :=
  .trans (.of_eq (by rfl)) (.ite (.refl _) (.ite (Dev.touch_agrees _ _) (.trans (Dev.touch_agrees _ _) (Dev.touch_agrees _ _))))

theorem Dev.postBadWrite_agrees (d : Dev) (core ctx ia : Nat) : Dev.Agrees WG.calm d (d.postBadWrite core ctx ia) := .of_eq (by rfl)

theorem Dev.recallNow_agrees (d : Dev) (line : Nat) : Dev.Agrees WG.calm d (d.recallNow line) := by
  refine .ite (.refl _) ?_
  have chosen : Dev.Agrees WG.calm d (if (d.dirEnt line).st = 1 then (0, d) else d.choose 2).2 := by
    split
    · exact .refl _
    · exact .of_eq (by rfl)
  refine chosen.trans ?_
  refine .trans (.trans (.ite (.refl _) ?_) (.ite (Dev.postBadWrite_agrees _ _ _ _) (.refl _))) (.of_eq (by rfl))
  exact .trans (Dev.write_agrees _ _ _) (.of_eq (by rfl))

theorem Dev.pteWord1_agrees (e : Env) (d : Dev) (pte : Nat) (f : Nat → Nat) : Dev.Agrees WG.calm d (d.pteWord1 e pte f) := by
  unfold Dev.pteWord1
  exact .trans (Dev.recallNow_agrees d _) (Dev.write_agrees _ _ _)

theorem Dev.putL2_agrees (d : Dev) (l : L2Line) : Dev.Agrees WG.calm d (d.putL2 l) :=
  .ite (.of_eq (by rfl)) (.of_eq (by rfl))

theorem Dev.copyBytes_agrees (e : Env) (d : Dev) (src dst n : Nat) : Dev.Agrees WG.calm d (d.copyBytes e src dst n) :=
  .trans (.foldl (fun _ _ => Dev.write_agrees _ _ _) _ _) (.of_eq (by rfl))

theorem Dev.evict_agrees (e : Env) (d : Dev) (frame : Nat) (large : Bool) : Dev.Agrees WG.calm d (d.evict e frame large) :=
  .trans (.ite (Dev.copyBytes_agrees _ _ _ _ _) (.refl _))
    (.trans (Dev.pteWord1_agrees _ _ _ _) (.trans (Dev.write_agrees _ _ _) (.of_eq (by rfl))))

theorem Dev.sweep_agrees (e : Env) (large : Bool) (fs : List Nat) (d : Dev) : Dev.Agrees WG.calm d (Dev.sweep e large fs d).2 := by
  induction fs generalizing d with
  | nil => exact .refl _
  | cons f r ih =>
    simp only [Dev.sweep]
    split
    · exact ih _
    · split
      · exact .trans (Dev.pteWord1_agrees _ _ _ _) (ih _)
      · exact .trans (Dev.evict_agrees _ _ _ _) (.ite (.of_eq (by rfl)) (.of_eq (by rfl)))

theorem Dev.takeFrame_agrees (e : Env) (d : Dev) (large : Bool) : Dev.Agrees WG.calm d (d.takeFrame e large).2 := by
  unfold Dev.takeFrame
  split
  · exact .ite (.of_eq (by rfl)) (.of_eq (by rfl))
  · exact Dev.sweep_agrees _ _ _ _

theorem Dev.reachRaw_agrees (e : Env) (d : Dev) (ia : Nat) (acc : Acc) : Dev.Agrees WG.calm d (d.reachRaw e ia acc).2 := by
  unfold Dev.reachRaw
  split
  · split <;> exact .refl _
  · extract_lets line page miss
    have missed : Dev.Agrees WG.calm d miss.2 := by
      unfold miss
      split
      · exact .refl _
      · split
        · exact .refl _
        · split
          · exact .refl _
          · exact .refl _
          · next f _ =>
            refine .trans (Dev.takeFrame_agrees e d (f.n > 1)) ?_
            dsimp only
            split
            · exact .of_eq (by rfl)
            · exact .refl _
          · exact .refl _
          · refine .trans (.ite (.refl _) (Dev.pteWord1_agrees _ _ _ _)) (.ite (.refl _) (Dev.putL2_agrees _ _))
    split
    · split
      · refine .trans (.ite (Dev.pteWord1_agrees _ _ _ _) (.refl _)) (.ite (Dev.putL2_agrees _ _) (.refl _))
      · exact missed
    · exact missed

theorem Dev.iaWrite_agrees (e : Env) (n ia : Nat) (bs : List Byte) (d : Dev) : Dev.Agrees WG.calm d (Dev.iaWrite e n ia bs d).2 := by
  induction n generalizing ia bs d with
  | zero => exact .refl _
  | succ n ih =>
    unfold Dev.iaWrite
    split
    · exact .refl _
    · dsimp only
      split
      · next k d' h =>
        have reached : Dev.Agrees WG.calm d d' := by have := Dev.reachRaw_agrees e d ia .wr; rwa [h] at this
        exact reached.trans (.trans (Dev.recallNow_agrees _ _) (.trans (Dev.write_agrees _ _ _) (ih _ _ _)))
      · exact .refl _

theorem Dev.qState_agrees (e : Env) (d : Dev) (q st : Nat) : Dev.Agrees WG.calm d (d.qState e q st) := by
  rw [Dev.qState, Dev.qdPut]
  exact Dev.iaWrite_agrees _ _ _ _ _

theorem Dev.modQueue_agrees (d : Dev) (q : Nat) (f : Queue → Queue) : Dev.Agrees WG.calm d (d.modQueue q f) := .of_eq (by rfl)

theorem Dev.mapQueues_agrees (e : Env) (d : Dev) : Dev.Agrees WG.calm d (d.mapQueues e) := by
  refine .trans (.foldl (fun d u => ?_) _ _) (.foldl (fun d u => ?_) _ _)
  · exact .ite (.trans (Dev.qState_agrees _ _ _ _) (Dev.modQueue_agrees _ _ _)) (.refl _)
  · dsimp only
    split
    · exact .trans (Dev.qState_agrees _ _ _ _) (Dev.modQueue_agrees _ _ _)
    · exact .refl _

/-- A posted event: bytes written at intermediate addresses, then the ring's put index and the vectors. -/
theorem Dev.postEvent_eq (e : Env) (d : Dev) (kind part ctx : Nat) (data : List Byte) :
    ∃ (ia : Nat) (bs : List Byte) (put : Hub → Nat) (l : List Nat), d.postEvent e kind part ctx data =
      { ((Dev.iaWrite e 2 ia bs { d with evSeq := d.evSeq + 1 }).2.modHub fun h => { h with evput := put h }) with msix := l } :=
  ⟨_, _, _, _, rfl⟩

theorem Dev.postEvent_agrees (e : Env) (d : Dev) (kind part ctx : Nat) (data : List Byte) :
    Dev.Agrees WG.calm d (d.postEvent e kind part ctx data) := by
  obtain ⟨ia, bs, put, l, h⟩ := d.postEvent_eq e kind part ctx data
  rw [h]
  have written := Dev.iaWrite_agrees e 2 ia bs { d with evSeq := d.evSeq + 1 }
  exact ⟨written.ropes, written.boot, written.wgs⟩

theorem Dev.debugDone_agrees (e : Env) (d : Dev) (g : WG) (stat : Nat) : Dev.Agrees WG.calm d (d.debugDone e g stat) := by
  unfold Dev.debugDone
  exact .trans (.modHub d fun _ => by rfl) (Dev.postEvent_agrees _ _ _ _ _ _)

/-! ## Links, the home's requests -/

theorem Dev.modLink_agrees (d : Dev) (i : Nat) (f : Link → Link) : Dev.Agrees WG.calm d (d.modLink i f) := .of_eq (by rfl)

theorem Dev.send_agrees (d : Dev) (dst kind line arg : Nat) (bs : List Byte) : Dev.Agrees WG.calm d (d.send dst kind line arg bs) :=
  .of_eq (by rfl)

theorem Dev.drain1_agrees (d : Dev) (i vc : Nat) : Dev.Agrees WG.calm d (d.drain1 i vc) := by
  unfold Dev.drain1
  extract_lets l
  split
  · exact .refl _
  · extract_lets dst src pop
    have popped (d : Dev) : Dev.Agrees WG.calm d (pop d) := Dev.modLink_agrees _ _ _
    refine .ite (.trans (.of_eq (by rfl)) (popped _)) ?_
    split
    · exact .ite (.trans (popped _) (Dev.send_agrees _ _ _ _ _ _)) (.ite (.trans (popped _) (Dev.send_agrees _ _ _ _ _ _)) (popped _))
    · exact .ite (.trans (popped _) (Dev.modLink_agrees _ _ _)) (.refl _)

theorem Dev.drainLinks_agrees (d : Dev) : Dev.Agrees WG.calm d d.drainLinks :=
  .foldl (fun _ _ => .foldl (fun _ _ => Dev.drain1_agrees _ _ _) _ _) _ _

theorem Dev.grant_agrees (e : Env) (d : Dev) (t : Txn) : Dev.Agrees WG.calm d (d.grant e t) :=
  .ite (.of_eq (by rfl)) (.trans (.of_eq (by rfl)) (Dev.send_agrees _ _ _ _ _ _))

theorem Dev.serveOnce_agrees (e : Env) (d : Dev) (line : Nat) : Dev.Agrees WG.calm d (d.serveOnce e line) := by
  have sends (l : List Nat) (k : Nat) (d : Dev) : Dev.Agrees WG.calm d (l.foldl (fun d a => d.send a k line 0 []) d) :=
    .foldl (fun _ _ => Dev.send_agrees _ _ _ _ _ _) _ _
  unfold Dev.serveOnce
  split
  · exact .ite (.trans (.of_eq (by rfl)) (sends _ _ _)) (.trans (.of_eq (by rfl)) (.ite (Dev.grant_agrees _ _ _) (sends _ _ _)))
  · exact .refl _

theorem Dev.serveAll_agrees (e : Env) (d : Dev) : Dev.Agrees WG.calm d (d.serveAll e) :=
  .foldl (fun _ _ => Dev.serveOnce_agrees _ _ _) _ _

/-! ## Steps that are due: they only join the agenda -/

theorem Dev.choose_agrees (d : Dev) (n : Nat) : Dev.Agrees WG.calm d (d.choose n).2 := .of_eq (by rfl)

theorem Dev.agenda_agrees (d : Dev) (l : List Todo) : Dev.Agrees WG.calm d { d with agenda := d.agenda ++ l } := .of_eq (by rfl)

theorem Dev.copyUnits_agrees (d : Dev) (o : Op) : Dev.Agrees WG.calm d (d.copyUnits o) :=
  .ite (.refl _) (.of_eq (by rfl))

theorem Dev.deviceWalks_agrees (d : Dev) (o : Op) : Dev.Agrees WG.calm d (d.deviceWalks o) :=
  .ite (.refl _) (.foldl (fun d _ => .ite (.refl _) (.trans (Dev.choose_agrees d 2) (.ite (Dev.agenda_agrees _ _) (.refl _)))) _ _)

theorem Dev.timedSteps_agrees (e : Env) (d : Dev) : Dev.Agrees WG.calm d (d.timedSteps e) := by
  unfold Dev.timedSteps
  extract_lets t add d₁ d₂ d₃ d₄
  have added (l : List Todo) (d : Dev) : Dev.Agrees WG.calm d (add l d) := Dev.agenda_agrees _ _
  have h₂ : Dev.Agrees WG.calm d₁ d₂ := .ite (.refl _) (.trans (Dev.choose_agrees d₁ (2 ^ 16)) (added _ _))
  have h₄ : Dev.Agrees WG.calm d d₄ := .trans (.trans (.trans (added _ _) h₂) (added _ _)) (added _ _)
  exact .ite h₄ (h₄.trans (added _ _))

theorem Dev.dueSteps_agrees (e : Env) (d : Dev) : Dev.Agrees WG.calm d (d.dueSteps e) := by
  unfold Dev.dueSteps
  extract_lets add
  have added (l : List Todo) (d : Dev) : Dev.Agrees WG.calm d (add l d) := Dev.agenda_agrees _ _
  refine .trans ?_ (Dev.timedSteps_agrees _ _)
  -- after the fills, ten groups of units in a row
  iterate 10 refine .trans ?_ (added _ _)
  refine .trans (.trans (.trans (.trans (.trans (added _ _) (added _ _)) (.foldl Dev.copyUnits_agrees _ _))
    (.foldl Dev.deviceWalks_agrees _ _)) (added _ _)) (.foldl (fun d f => ?_) _ _)
  exact .trans (Dev.choose_agrees d 2) (.ite (added _ _) (.refl _))

/-! ## Before the ropes are formed: work-groups change, and none joins, leaves or moves in the list -/

theorem Dev.Agrees.ids {d d' : Dev} (h : Dev.Agrees WG.calm d d') : Dev.Agrees WG.id d d' := h.coarser WG.id fun _ => rfl

theorem Dev.modFib_ids (d : Dev) (w k : Nat) (f : Fib → Fib) : Dev.Agrees WG.id d (d.modFib w k f) := .modWg d w fun _ => by rfl

theorem Dev.modLaunch_ids (d : Dev) (l : Nat) (f : Launch → Launch) : Dev.Agrees WG.id d (d.modLaunch l f) := .of_eq (by rfl)

theorem Dev.endWg_ids (d : Dev) (w : Nat) (c : Cause) (flags : Nat) : Dev.Agrees WG.id d (d.endWg w c flags) := by
  unfold Dev.endWg
  split
  · exact .refl _
  · split
    · exact .modWg d w fun _ => by rfl
    · exact .trans (.trans (.of_eq (by rfl)) (.modWg _ w fun _ => by rfl)) (Dev.modLaunch_ids _ _ _)

theorem Dev.raise_ids (e : Env) (d : Dev) (w i cause tval : Nat) : Dev.Agrees WG.id d (d.raise e w i cause tval) := by
  unfold Dev.raise
  split
  · exact .refl _
  · split
    · exact .refl _
    · refine .ite (.modWg d w fun _ => by rfl) (.ite (Dev.endWg_ids _ _ _ _) ?_)
      split
      · refine .trans (Dev.choose_agrees d 5).ids (.modWg _ w fun _ => by rfl)
      · refine .ite (.modWg d w fun g => ?_) (.modWg d w fun _ => by rfl)
        unfold WG.unflag
        split <;> rfl

theorem Dev.endings_ids (d : Dev) : Dev.Agrees WG.id d d.endings := by
  refine .foldl (fun d g => ?_) _ _
  split
  · exact .ite (Dev.endWg_ids _ _ _ _) (.refl _)
  · exact .refl _

theorem Dev.dbgPoll_ids (e : Env) (d : Dev) : Dev.Agrees WG.id d (d.dbgPoll e) := by
  refine .ite (.refl _) ?_
  split
  · exact .modHub d fun _ => by rfl
  · refine .ite (Dev.debugDone_agrees _ _ _ _).ids (.ite ?_ (.refl _))
    exact .trans (Dev.choose_agrees d 5).ids (.modWg _ _ fun _ => by rfl)

theorem Dev.withdraw_ids (d : Dev) (w : Nat) : Dev.Agrees WG.id d (d.withdraw w) := by
  unfold Dev.withdraw
  split
  · exact .refl _
  · exact .trans (.of_eq (by rfl)) (.modWg _ w fun _ => by rfl)

theorem Dev.dawn_ids (d : Dev) : Dev.Agrees WG.id d d.dawn :=
  .trans (.mapWgs d fun _ => by rfl) (.foldl (fun _ _ => Dev.withdraw_ids _ _) _ _)

theorem Dev.unheld_ids (e : Env) (d : Dev) : Dev.Agrees WG.id d (d.unheld e) := .of_eq (by rfl)

theorem Dev.markDevice_ids (e : Env) (d : Dev) : Dev.Agrees WG.id d (d.markDevice e) := .of_eq (by rfl)

theorem Dev.recheck_ids (e : Env) (d : Dev) : Dev.Agrees WG.id d (d.recheck e) := by
  refine .trans (.mapWgs d fun g => ?_) (.foldl (fun d c => ?_) _ _)
  · split <;> rfl
  · exact .of_eq (by rfl)

theorem Dev.latchTrap_ids (e : Env) (d : Dev) (w : Nat) (is : List Nat) (i cause tval : Nat) :
    Dev.Agrees WG.id d (d.latchTrap e w is i cause tval) :=
  .trans (.foldl (fun _ _ => Dev.modFib_ids _ _ _ _) _ _) (Dev.raise_ids _ _ _ _ _ _)

theorem Dev.latchGo_ids (e : Env) (d : Dev) (w : Nat) (is : List Nat) (len : Nat) : Dev.Agrees WG.id d (d.latchGo e w is len) :=
  .foldl (fun _ _ => Dev.modFib_ids _ _ _ _) _ _

theorem Dev.release_ids (e : Env) (d : Dev) (w : Nat) (o : MOp) : Dev.Agrees WG.id d (d.release e w o) :=
  .trans (.of_eq (by rfl)) (.modWg _ w fun _ => by rfl)

theorem Dev.mmaRelease_ids (e : Env) (d : Dev) (g : WG) (l : Launch) (is : List Nat) (x : X) :
    Dev.Agrees WG.id d (d.mmaRelease e g l is x) := by
  refine .ite (.refl _) ?_
  split
  · exact .refl _
  · split
    · exact .refl _
    · dsimp only
      split
      · exact Dev.latchTrap_ids _ _ _ _ _ _ _
      · exact .trans (Dev.release_ids _ _ _ _) (Dev.latchGo_ids _ _ _ _ _)

theorem Dev.latchFire_ids (e : Env) (d : Dev) (w r last : Nat) : Dev.Agrees WG.id d (d.latchFire e w r last) := by
  unfold Dev.latchFire
  split
  · exact .refl _
  · dsimp only
    split
    · exact .refl _
    · refine .ite (.refl _) (.ite (Dev.latchTrap_ids _ _ _ _ _ _ _) ?_)
      split
      · exact .refl _
      · exact Dev.latchGo_ids _ _ _ _ _
      · exact Dev.latchTrap_ids _ _ _ _ _ _ _
      · exact Dev.mmaRelease_ids _ _ _ _ _ _
      · exact .refl _

theorem Dev.latchRecheck_ids (e : Env) (d : Dev) (w : Nat) : Dev.Agrees WG.id d (d.latchRecheck e w) := by
  refine .foldl (fun d r => ?_) _ _
  split
  · exact Dev.latchFire_ids _ _ _ _ _
  · exact .refl _

theorem Dev.latches_ids (e : Env) (d : Dev) : Dev.Agrees WG.id d (d.latches e) :=
  .foldl (fun _ _ => Dev.latchRecheck_ids _ _ _) _ _

/-! ## A work-group less what the selection marks and what its fibres wait for -/

/-- A fibre less its wait and its place in the candidate set. -/
def Fib.plain (f : Fib) : Fib := { f with wait := .none, cand := false, age := 0, order := 0 }

/-- A work-group with its fibres so. -/
def WG.plain (g : WG) : WG := { g with fibs := g.fibs.map Fib.plain }

theorem Fib.plain_calm (f : Fib) : f.calm.plain = f.plain := by
  unfold Fib.calm
  split <;> rfl

theorem WG.plain_calm (g : WG) : g.calm.plain = g.plain := by
  simp only [WG.plain, WG.calm, List.map_map]
  congr 1
  exact List.map_congr_left fun f _ => f.plain_calm

theorem WG.fib?_plain (g : WG) (i : Nat) : g.plain.fib? i = (g.fib? i).map Fib.plain := List.getElem?_map

theorem WG.fib?_calm (g : WG) (i : Nat) : g.calm.fib? i = (g.fib? i).map Fib.calm := List.getElem?_map

/-- Whether a fibre is eligible does not hang on the marks of the others. -/
theorem WG.eligible_plain (g : WG) (now i : Nat) (f : Fib) : g.plain.eligible now i f = g.eligible now i f := by
  have live (j : Nat) : ((g.plain.fib? j).map (·.live)).getD false = ((g.fib? j).map (·.live)).getD false := by
    rw [WG.fib?_plain]
    cases g.fib? j <;> rfl
  have async : g.plain.asyncAt i = g.asyncAt i := by
    simp only [WG.asyncAt, live]
    simp only [WG.plain, List.length_map]
  have crit : (g.plain.fibs.any fun h => h.live && h.critn ≠ 0) = g.fibs.any fun h => h.live && h.critn ≠ 0 := by
    simp only [WG.plain, List.any_map]
    rfl
  simp only [WG.eligible, async, crit]
  rfl

theorem WG.eligible_of_plain {g g' : WG} (h : g'.plain = g.plain) (now i : Nat) (f : Fib) :
    g'.eligible now i f = g.eligible now i f := by
  rw [← WG.eligible_plain, h, WG.eligible_plain]

theorem WG.core_of_plain {g g' : WG} (h : g'.plain = g.plain) : g'.core = g.core :=
  show g'.plain.core = g.plain.core from congrArg WG.core h

theorem WG.launch_of_plain {g g' : WG} (h : g'.plain = g.plain) : g'.launch = g.launch :=
  show g'.plain.launch = g.plain.launch from congrArg WG.launch h

/-- What an eligible fibre is: alive, resident, blocked by nothing, and its time has come (R33). -/
theorem WG.eligible_elim {g : WG} {now i : Nat} {f : Fib} (h : g.eligible now i f = true) :
    f.live = true ∧ f.wait = .none ∧ f.readyAt ≤ now ∧ g.place = .resident := by
  simp only [WG.eligible, Bool.and_eq_true, decide_eq_true_eq] at h
  obtain ⟨⟨⟨⟨⟨⟨hlive, _⟩, hwait⟩, hready⟩, hplace⟩, _⟩, _⟩ := h
  exact ⟨hlive, hwait, hready, hplace⟩

/-- A mark of a write leaves a fibre that waits for nothing. -/
theorem Fib.eq_of_calm_eq {f f' : Fib} (h : f'.calm = f.calm) (hw : f.wait = .none) : f' = f := by
  rw [Fib.calm_of_ready hw] at h
  have hw' : f'.calm.wait = .none := by rw [h, hw]
  unfold Fib.calm at h hw'
  split at h
  · next k l v b i e => rw [e] at hw'; cases hw'
  · exact h

/-! ## Work-groups and fibres by number -/

theorem Dev.map_wg? {v : WG → WG} (hv : ∀ g, (v g).id = g.id) (d : Dev) (w : Nat) :
    (d.wg? w).map v = (d.wgs.map v).find? fun g => g.id = w := by
  rw [List.find?_map]
  simp only [Dev.wg?, Function.comp_def, hv]

/-- Devices whose work-groups look the same find the same ones. -/
theorem Dev.wg?_of_map_eq {v : WG → WG} (hv : ∀ g, (v g).id = g.id) {d d' : Dev} (h : d'.wgs.map v = d.wgs.map v) {w : Nat} {g : WG}
    (hg : d.wg? w = some g) : ∃ g', d'.wg? w = some g' ∧ v g' = v g := by
  have e : (d'.wg? w).map v = some (v g) := by rw [Dev.map_wg? hv, h, ← Dev.map_wg? hv, hg]; rfl
  exact Option.map_eq_some_iff.1 e

/-- Elements of a list whose images are distinct are equal once their images are. -/
theorem eq_of_nodup_map {α β : Type} {f : α → β} {l : List α} (h : (l.map f).Nodup) {a b : α} (ha : a ∈ l) (hb : b ∈ l)
    (e : f a = f b) : a = b := by
  induction l with
  | nil => cases ha
  | cons x r ih =>
    rw [List.map_cons, List.nodup_cons] at h
    obtain ⟨hx, hr⟩ := h
    rcases List.mem_cons.1 ha with rfl | har
    · rcases List.mem_cons.1 hb with rfl | hbr
      · rfl
      · exact (hx (List.mem_map.2 ⟨b, hbr, e.symm⟩)).elim
    · rcases List.mem_cons.1 hb with rfl | hbr
      · exact (hx (List.mem_map.2 ⟨a, har, e⟩)).elim
      · exact ih hr har hbr

/-- With distinct numbers, every work-group is found by its own. -/
theorem Dev.wg?_of_mem {d : Dev} (hd : (d.wgs.map WG.id).Nodup) {g : WG} (hg : g ∈ d.wgs) : d.wg? g.id = some g := by
  obtain ⟨g', hg'⟩ : ∃ g', d.wg? g.id = some g' := by
    rw [← Option.isSome_iff_exists, Dev.wg?, List.find?_isSome]
    exact ⟨g, hg, decide_eq_true rfl⟩
  have hid : g'.id = g.id := of_decide_eq_true (List.find?_some (p := fun h : WG => decide (h.id = g.id)) hg')
  rw [hg', eq_of_nodup_map hd (List.mem_of_find?_eq_some hg') hg hid]

theorem Dev.fib?_eq_some {d : Dev} {w k : Nat} {g : WG} {f : Fib} (hg : d.wg? w = some g) (hf : g.fib? k = some f) :
    d.fib? w k = some f := by
  rw [Dev.fib?, hg]
  exact hf

theorem Dev.fib?_of_wg? {d : Dev} {w k : Nat} {g : WG} {f : Fib} (hg : d.wg? w = some g) (hf : d.fib? w k = some f) :
    g.fib? k = some f := by
  rwa [Dev.fib?, hg] at hf

/-! ## Fibres that stand selected -/

/-- Fibre `q` is in the candidate set and eligible. -/
structure Dev.Picks (now : Nat) (d : Dev) (q : Nat × Nat) (g : WG) (f : Fib) : Prop where
  wg : d.wg? q.1 = some g
  fib : g.fib? q.2 = some f
  eligible : g.eligible now q.2 f = true
  cand : f.cand = true

theorem Dev.Picks.fib? {now : Nat} {d : Dev} {q : Nat × Nat} {g : WG} {f : Fib} (h : d.Picks now q g f) : d.fib? q.1 q.2 = some f :=
  Dev.fib?_eq_some h.wg h.fib

/-- What is picked in one device is picked in the other, the fibre unchanged. -/
def Dev.Carries (now : Nat) (d d' : Dev) : Prop :=
  ∀ q g f, d.Picks now q g f → ∃ g', d'.Picks now q g' f ∧ g'.plain = g.plain

namespace Dev.Carries

variable {now : Nat} {d d' d'' : Dev}

theorem refl (d : Dev) : Dev.Carries now d d := fun _ g _ h => ⟨g, h, rfl⟩

theorem trans (h : Dev.Carries now d d') (h' : Dev.Carries now d' d'') : Dev.Carries now d d'' := fun q g f p => by
  obtain ⟨g', p', e⟩ := h q g f p
  obtain ⟨g'', p'', e'⟩ := h' q g' f p'
  exact ⟨g'', p'', e'.trans e⟩

theorem of_wgs (h : d'.wgs = d.wgs) : Dev.Carries now d d' := fun q g f p =>
  ⟨g, ⟨by rw [Dev.wg?, h]; exact p.wg, p.fib, p.eligible, p.cand⟩, rfl⟩

/-- It is enough that the work-groups keep their plain view and the picked fibres their state. -/
theorem of_plain (hw : d'.wgs.map WG.plain = d.wgs.map WG.plain)
    (hf : ∀ q g f, d.Picks now q g f → d'.fib? q.1 q.2 = some f) : Dev.Carries now d d' := fun q g f p => by
  obtain ⟨g', hg', e⟩ := Dev.wg?_of_map_eq (v := WG.plain) (fun _ => rfl) hw p.wg
  exact ⟨g', ⟨hg', Dev.fib?_of_wg? hg' (hf q g f p), by rw [WG.eligible_of_plain e, p.eligible], p.cand⟩, e⟩

/-- Writes to memory carry every picked fibre: it waits for nothing. -/
theorem of_agrees (h : Dev.Agrees WG.calm d d') : Dev.Carries now d d' := by
  refine of_plain (h.coarser WG.plain WG.plain_calm).wgs fun q g f p => ?_
  obtain ⟨g', hg', e⟩ := Dev.wg?_of_map_eq (v := WG.calm) (fun _ => rfl) h.wgs p.wg
  have ef : (g'.fib? q.2).map Fib.calm = some f.calm := by rw [← WG.fib?_calm, e, WG.fib?_calm, p.fib]; rfl
  obtain ⟨f', hf', e'⟩ := Option.map_eq_some_iff.1 ef
  obtain ⟨_, hwait, _⟩ := WG.eligible_elim p.eligible
  rw [Dev.fib?_eq_some hg' hf', Fib.eq_of_calm_eq e' hwait]

end Dev.Carries

theorem Dev.tidy_carries (now : Nat) (d : Dev) : Dev.Carries now d d.tidy := fun q g f p => by
  refine ⟨g, ⟨?_, p.fib, p.eligible, p.cand⟩, rfl⟩
  obtain ⟨_, _, _, resident⟩ := WG.eligible_elim p.eligible
  obtain ⟨hid, before, after, hl, hb⟩ := List.find?_eq_some_iff_append.1 p.wg
  refine List.find?_eq_some_iff_append.2 ⟨hid, ?_⟩
  simp only [Dev.tidy, hl, List.filter_append]
  rw [List.filter_cons_of_pos (by rw [resident]; rfl)]
  exact ⟨_, _, rfl, fun a ha => hb a (List.mem_filter.1 ha).1⟩

/-! ## Sorting and least elements -/

theorem insBy_perm {α : Type} (f : α → Nat) (x : α) (l : List α) : (insBy f x l).Perm (x :: l) := by
  induction l with
  | nil => exact .refl _
  | cons y r ih =>
    simp only [insBy]
    split
    · exact .refl _
    · exact (ih.cons y).trans (.swap x y r)

theorem sortBy_perm {α : Type} (f : α → Nat) (l : List α) : (sortBy f l).Perm l := by
  induction l with
  | nil => exact .refl _
  | cons x r ih => exact (insBy_perm f x _).trans (ih.cons x)

theorem mem_of_minBy {α : Type} {f : α → Nat} {l : List α} {x : α} (h : minBy f l = some x) : x ∈ l := by
  induction l generalizing x with
  | nil => cases h
  | cons y r ih =>
    simp only [minBy] at h
    split at h
    · cases h; exact List.mem_cons_self
    · next z hz =>
      split at h
      · cases h; exact List.mem_cons_of_mem _ (ih hz)
      · cases h; exact List.mem_cons_self

/-! ## The rope of a candidate set (R34) -/

/-- A member of a rope is, of the candidates alike to one, the oldest of its lane. -/
theorem mem_ropeOf {ms : List Member} {m : Member} (h : m ∈ ropeOf ms) :
    ∃ b, minBy Member.aged ms = some b ∧ minBy Member.aged ((ms.filter b.sameGroup).filter fun n => n.f.lane = m.f.lane) = some m := by
  unfold ropeOf at h
  split at h
  · cases h
  · next b hb =>
    obtain ⟨l, _, hm⟩ := List.mem_filterMap.1 ((sortBy_perm _ _).mem_iff.1 h)
    have hl : m.f.lane = l := of_decide_eq_true (List.mem_filter.1 (mem_of_minBy hm)).2
    exact ⟨b, hb, by rw [hl]; exact hm⟩

theorem mem_of_mem_ropeOf {ms : List Member} {m : Member} (h : m ∈ ropeOf ms) : m ∈ ms := by
  obtain ⟨b, _, hm⟩ := mem_ropeOf h
  exact (List.mem_filter.1 (List.mem_filter.1 (mem_of_minBy hm)).1).1

/-- The members of a rope are of one group. -/
theorem ropeOf_sameGroup {ms : List Member} {m n : Member} (hm : m ∈ ropeOf ms) (hn : n ∈ ropeOf ms) :
    m.g.launch = n.g.launch ∧ m.f.pc = n.f.pc ∧ m.f.priv = n.f.priv ∧ m.f.hnd = n.f.hnd := by
  obtain ⟨b, hb, hm⟩ := mem_ropeOf hm
  obtain ⟨b', hb', hn⟩ := mem_ropeOf hn
  obtain rfl : b = b' := Option.some.inj (hb.symm.trans hb')
  have alike {x : Member} {p : Member → Bool} (hx : x ∈ (ms.filter b.sameGroup).filter p) :
      b.g.launch = x.g.launch ∧ b.f.pc = x.f.pc ∧ b.f.priv = x.f.priv ∧ b.f.hnd = x.f.hnd := by
    have := (List.mem_filter.1 (List.mem_filter.1 hx).1).2
    simp only [Member.sameGroup, Bool.and_eq_true, decide_eq_true_eq] at this
    obtain ⟨⟨⟨⟨hl, hpc⟩, _⟩, hpriv⟩, hhnd⟩ := this
    exact ⟨hl, hpc, hpriv, hhnd⟩
  obtain ⟨hl, hpc, hpriv, hhnd⟩ := alike (mem_of_minBy hm)
  obtain ⟨hl', hpc', hpriv', hhnd'⟩ := alike (mem_of_minBy hn)
  exact ⟨hl ▸ hl', hpc ▸ hpc', hpriv ▸ hpriv', hhnd ▸ hhnd'⟩

/-- The members of a rope are in different lanes. -/
theorem ropeOf_lane_inj {ms : List Member} {m n : Member} (hm : m ∈ ropeOf ms) (hn : n ∈ ropeOf ms) (h : m.f.lane = n.f.lane) : m = n := by
  obtain ⟨b, hb, hm⟩ := mem_ropeOf hm
  obtain ⟨b', hb', hn⟩ := mem_ropeOf hn
  obtain rfl : b = b' := Option.some.inj (hb.symm.trans hb')
  rw [h] at hm
  exact Option.some.inj (hm.symm.trans hn)

theorem ropeOf_length_le (ms : List Member) : (ropeOf ms).length ≤ 32 := by
  unfold ropeOf
  split
  · exact Nat.zero_le _
  · rw [(sortBy_perm _ _).length_eq]
    exact Nat.le_trans (List.length_filterMap_le _ _) (Nat.le_of_eq List.length_range)

/-! ## Marks put on fibres -/

theorem modAt_getElem?_ne {α : Type} (f : α → α) (l : List α) {i j : Nat} (h : i ≠ j) : (modAt f l i)[j]? = l[j]? := by
  induction l generalizing i j with
  | nil => rfl
  | cons a r ih =>
    match i, j with
    | 0, 0 => exact absurd rfl h
    | 0, j + 1 => rfl
    | i + 1, 0 => rfl
    | i + 1, j + 1 => simpa [modAt] using ih fun e => h (by rw [e])

theorem map_modAt {α β : Type} {v : α → β} {f : α → α} (hv : ∀ a, v (f a) = v a) (l : List α) (i : Nat) :
    (modAt f l i).map v = l.map v := by
  refine List.ext_getElem? fun j => ?_
  rw [List.getElem?_map, List.getElem?_map]
  by_cases h : i = j
  · rw [← h, modAt_getElem?, Option.map_map]
    exact congrArg (fun u => Option.map u l[i]?) (funext hv)
  · rw [modAt_getElem?_ne f l h]

theorem Dev.wg?_modFib (d : Dev) (w k w' : Nat) (F : Fib → Fib) :
    (d.modFib w k F).wg? w' = (d.wg? w').map fun g => if g.id = w then g.modFib k F else g :=
  (Dev.map_wg? (fun g => by split <;> rfl) d w').symm

theorem Dev.id_of_wg? {d : Dev} {w : Nat} {g : WG} (h : d.wg? w = some g) : g.id = w :=
  of_decide_eq_true (List.find?_some (p := fun g : WG => decide (g.id = w)) h)

/-- A change of a fibre is read at that fibre. -/
theorem Dev.fib?_modFib_same (d : Dev) (w k : Nat) (F : Fib → Fib) : (d.modFib w k F).fib? w k = (d.fib? w k).map F := by
  rw [Dev.fib?, Dev.fib?, Dev.wg?_modFib]
  cases h : d.wg? w with
  | none => rfl
  | some g =>
    simp only [Option.map_some, Option.bind_some, Dev.id_of_wg? h, if_true]
    exact modAt_getElem? F g.fibs k

/-- A change of a fibre leaves every other. -/
theorem Dev.fib?_modFib_other (d : Dev) {w k w' k' : Nat} (F : Fib → Fib) (h : (w, k) ≠ (w', k')) :
    (d.modFib w k F).fib? w' k' = d.fib? w' k' := by
  rw [Dev.fib?, Dev.fib?, Dev.wg?_modFib]
  cases hg : d.wg? w' with
  | none => rfl
  | some g =>
    simp only [Option.map_some, Option.bind_some, Dev.id_of_wg? hg]
    split
    · next e => exact modAt_getElem?_ne F g.fibs fun ek => h (by rw [e, ek])
    · rfl

/-- The number of a member's work-group and its index. -/
def Member.key (m : Member) : Nat × Nat := (m.g.id, m.i)

/-- A change made to each fibre of a list of members. -/
def Dev.markAll (F : Fib → Fib) (l : List Member) (d : Dev) : Dev := l.foldl (fun d m => d.modFib m.g.id m.i F) d

/-- Changes that the view does not see. -/
theorem Dev.markAll_agrees {F : Fib → Fib} (hF : ∀ f, (F f).plain = f.plain) (l : List Member) (d : Dev) :
    Dev.Agrees WG.plain d (d.markAll F l) := by
  refine .foldl (fun d m => .modWg d _ fun g => ?_) l d
  simp only [WG.plain, WG.modFib, map_modAt hF]

theorem Dev.markAll_other (F : Fib → Fib) (l : List Member) (d : Dev) {k : Nat × Nat} (h : ∀ m ∈ l, m.key ≠ k) :
    (d.markAll F l).fib? k.1 k.2 = d.fib? k.1 k.2 := by
  induction l generalizing d with
  | nil => rfl
  | cons m r ih =>
    calc ((d.modFib m.g.id m.i F).markAll F r).fib? k.1 k.2
        = (d.modFib m.g.id m.i F).fib? k.1 k.2 := ih _ fun n hn => h n (List.mem_cons_of_mem _ hn)
      _ = d.fib? k.1 k.2 := d.fib?_modFib_other F (h m List.mem_cons_self)

theorem Dev.markAll_hit {F : Fib → Fib} (hF : ∀ f, F (F f) = F f) {l : List Member} (d : Dev) {k : Nat × Nat}
    (h : ∃ m ∈ l, m.key = k) : (d.markAll F l).fib? k.1 k.2 = (d.fib? k.1 k.2).map F := by
  induction l generalizing d with
  | nil => obtain ⟨_, hm, _⟩ := h; cases hm
  | cons n r ih =>
    change ((d.modFib n.g.id n.i F).markAll F r).fib? k.1 k.2 = _
    by_cases hr : ∃ m ∈ r, m.key = k
    · rw [ih _ hr]
      by_cases hn : n.key = k
      · subst hn
        rw [Member.key, d.fib?_modFib_same, Option.map_map]
        exact congrArg (fun u => Option.map u _) (funext hF)
      · rw [d.fib?_modFib_other F hn]
    · rw [Dev.markAll_other F r _ fun m hm e => hr ⟨m, hm, e⟩]
      obtain ⟨m, hm, rfl⟩ := h
      rcases List.mem_cons.1 hm with rfl | hm
      · exact d.fib?_modFib_same _ _ F
      · exact absurd ⟨m, hm, rfl⟩ hr

/-! ## A quadrant (R33) -/

/-- A member of a quadrant is a fibre of a work-group of its core. -/
theorem mem_quadMembers {d : Dev} {c q : Nat} {m : Member} (h : m ∈ d.quadMembers c q) :
    m.g ∈ d.wgs ∧ m.g.core = c ∧ m.g.fib? m.key.2 = some m.f := by
  obtain ⟨g, hg, hm⟩ := List.mem_flatMap.1 h
  obtain ⟨⟨i, f⟩, hp, e⟩ := List.mem_filterMap.1 hm
  obtain ⟨j, hj⟩ := List.mem_iff_getElem?.1 hp
  obtain ⟨hi, hf⟩ := List.getElem?_zip_eq_some.1 hj
  obtain ⟨_, rfl⟩ := List.getElem?_eq_some_iff.1 hi
  split at e
  · obtain rfl := Option.some.inj e
    obtain ⟨hmem, hcore⟩ := List.mem_filter.1 hg
    simp only [Bool.and_eq_true, decide_eq_true_eq] at hcore
    obtain ⟨hcore, _⟩ := hcore
    refine ⟨hmem, hcore, ?_⟩
    change g.fibs[(List.range g.fibs.length)[j]]? = some f
    rwa [List.getElem_range]
  · cases e

/-- With distinct numbers, a member is found by its key. -/
theorem Dev.wg?_of_mem_quadMembers {d : Dev} (hd : (d.wgs.map WG.id).Nodup) {c q : Nat} {m : Member} (h : m ∈ d.quadMembers c q) :
    d.wg? m.key.1 = some m.g := Dev.wg?_of_mem hd (mem_quadMembers h).1

/-- The mark of a fibre that leaves the candidate set, and that of one that enters it. -/
def Fib.leave (f : Fib) : Fib := { f with cand := false }
def Fib.enter (now : Nat) (f : Fib) : Fib := { f with cand := true, age := now, order := 0 }

/-- The members that leave the candidate set. -/
def Dev.leaving (now : Nat) (d : Dev) (c q : Nat) : List Member :=
  (d.quadMembers c q).filter fun m => m.f.cand && !m.g.eligible now m.i m.f

/-- The device once the candidate set of a quadrant is up to date. -/
def Dev.remarked (now : Nat) (d : Dev) (c q : Nat) : Dev :=
  (d.markAll Fib.leave (d.leaving now c q)).markAll (Fib.enter now) (admitted now (d.quadMembers c q)).2

/-- The candidate set. -/
def candidateSet (now : Nat) (ms : List Member) : List Member := (admitted now ms).1 ++ (admitted now ms).2

/-- What a quadrant does: nothing, or its candidate set is brought up to date and its rope, if any, joins the list. -/
theorem Dev.quadrant_cases (e : Env) (d : Dev) (c q : Nat) :
    d.quadrant e c q = d ∨ d.quadrant e c q = d.remarked e.now c q ∨
      (ropeOf (candidateSet e.now (d.quadMembers c q)) ≠ [] ∧
        d.quadrant e c q = { d.remarked e.now c q with
          ropes := (d.remarked e.now c q).ropes ++
            [{ core := c, quad := q, fibs := (ropeOf (candidateSet e.now (d.quadMembers c q))).map Member.key }] }) := by
  unfold Dev.quadrant
  extract_lets ms
  split
  · exact .inl rfl
  · split
    · exact .inr (.inl rfl)
    · next h => exact .inr (.inr ⟨h, rfl⟩)

/-- The first part of the candidate set: members that stand in it and are eligible. -/
theorem mem_admitted_inside {now : Nat} {ms : List Member} {m : Member} (h : m ∈ (admitted now ms).1) :
    m ∈ ms ∧ m.g.eligible now m.i m.f = true ∧ m.f.cand = true := by
  obtain ⟨h, hcand⟩ := List.mem_filter.1 h
  obtain ⟨hm, he⟩ := List.mem_filter.1 h
  exact ⟨hm, he, hcand⟩

/-- The second: eligible members that enter it now. -/
theorem mem_admitted_entering {now : Nat} {ms : List Member} {m : Member} (h : m ∈ (admitted now ms).2) :
    ∃ n ∈ ms, n.g.eligible now n.i n.f = true ∧ n.f.cand = false ∧ m = { n with f := n.f.enter now } := by
  obtain ⟨n, hn, rfl⟩ := List.mem_map.1 h
  obtain ⟨hn, hcand⟩ := List.mem_filter.1 ((sortBy_perm _ _).mem_iff.1 (List.mem_of_mem_take hn))
  obtain ⟨hn, he⟩ := List.mem_filter.1 hn
  exact ⟨n, hn, he, by simpa using hcand, rfl⟩

/-- Entering the candidate set leaves a fibre as eligible as it is. -/
theorem WG.eligible_enter (g : WG) (now i : Nat) (f : Fib) : g.eligible now i (f.enter now) = g.eligible now i f := rfl

theorem Dev.remarked_agrees (d : Dev) (now c q : Nat) : Dev.Agrees WG.plain d (d.remarked now c q) := by
  refine .trans (Dev.markAll_agrees ?_ _ _) (Dev.markAll_agrees ?_ _ _)
  · exact fun _ => rfl
  · exact fun _ => rfl

section Quadrant

variable {now : Nat} {d : Dev} {c q : Nat} (hd : (d.wgs.map WG.id).Nodup)

include hd

/-- A member is its work-group and fibre as the device has them. -/
theorem member_eq {m : Member} (hm : m ∈ d.quadMembers c q) {k : Nat × Nat} (hk : m.key = k) {g : WG} {f : Fib}
    (hg : d.wg? k.1 = some g) (hf : g.fib? k.2 = some f) : m.g = g ∧ m.f = f := by
  subst hk
  obtain rfl := Option.some.inj ((Dev.wg?_of_mem_quadMembers hd hm).symm.trans hg)
  obtain ⟨_, _, hf'⟩ := mem_quadMembers hm
  exact ⟨rfl, Option.some.inj (hf'.symm.trans hf)⟩

/-- An eligible fibre does not leave the candidate set. -/
theorem not_leaving {k : Nat × Nat} {g : WG} {f : Fib} (hg : d.wg? k.1 = some g) (hf : g.fib? k.2 = some f)
    (he : g.eligible now k.2 f = true) : ∀ m ∈ d.leaving now c q, m.key ≠ k := fun m hm hk => by
  obtain ⟨hm, hout⟩ := List.mem_filter.1 hm
  obtain ⟨rfl, rfl⟩ := member_eq hd hm hk hg hf
  subst hk
  simp only [Bool.and_eq_true, Bool.not_eq_true'] at hout
  exact Bool.false_ne_true (hout.2.symm.trans he)

/-- A fibre of the candidate set does not enter it. -/
theorem not_entering {k : Nat × Nat} {g : WG} {f : Fib} (p : d.Picks now k g f) :
    ∀ m ∈ (admitted now (d.quadMembers c q)).2, m.key ≠ k := fun m hm hk => by
  obtain ⟨n, hn, _, hcand, rfl⟩ := mem_admitted_entering hm
  obtain ⟨_, rfl⟩ := member_eq hd hn hk p.wg p.fib
  exact Bool.false_ne_true (hcand.symm.trans p.cand)

theorem remarked_carries : Dev.Carries now d (d.remarked now c q) := by
  refine .of_plain (d.remarked_agrees now c q).wgs fun k g f p => ?_
  rw [Dev.remarked, Dev.markAll_other _ _ _ (not_entering hd p), Dev.markAll_other _ _ _ (not_leaving hd p.wg p.fib p.eligible), p.fib?]

/-- Every member of the candidate set is picked once the set is up to date. -/
theorem candidate_picked {m : Member} (hm : m ∈ candidateSet now (d.quadMembers c q)) :
    ∃ g, (d.remarked now c q).Picks now m.key g m.f ∧ g.core = c ∧ g.launch = m.g.launch := by
  rcases List.mem_append.1 hm with hm | hm
  · obtain ⟨hm, he, hcand⟩ := mem_admitted_inside hm
    obtain ⟨_, hcore, hf⟩ := mem_quadMembers hm
    obtain ⟨g, p, e⟩ := remarked_carries hd m.key m.g m.f ⟨Dev.wg?_of_mem_quadMembers hd hm, hf, he, hcand⟩
    exact ⟨g, p, (WG.core_of_plain e).trans hcore, WG.launch_of_plain e⟩
  · obtain ⟨n, hn, he, hcand, rfl⟩ := mem_admitted_entering hm
    obtain ⟨_, hcore, hf⟩ := mem_quadMembers hn
    have hg := Dev.wg?_of_mem_quadMembers hd hn
    have marked : (d.remarked now c q).fib? n.key.1 n.key.2 = some (n.f.enter now) := by
      rw [Dev.remarked, Dev.markAll_hit (F := Fib.enter now) (k := n.key) (fun _ => rfl) _ ⟨_, hm, rfl⟩,
        Dev.markAll_other _ _ _ (not_leaving hd hg hf he), Dev.fib?_eq_some hg hf, Option.map_some]
    obtain ⟨g, hg', e⟩ := Dev.wg?_of_map_eq (v := WG.plain) (fun _ => rfl) (d.remarked_agrees now c q).wgs hg
    refine ⟨g, ⟨hg', Dev.fib?_of_wg? hg' marked, ?_, rfl⟩, (WG.core_of_plain e).trans hcore, WG.launch_of_plain e⟩
    exact (WG.eligible_of_plain e _ _ _).trans ((WG.eligible_enter _ _ _ _).trans he)

end Quadrant

/-! ## Ropes that stand formed -/

/-- A rope as R34 forms it: at most 32 picked fibres of its core, alike in launch, PC and privilege, in different lanes. -/
structure Rope.Formed (now : Nat) (d : Dev) (r : Rope) : Prop where
  nonempty : r.fibs ≠ []
  atMost : r.fibs.length ≤ 32
  alike : ∃ launch pc priv hnd, ∀ q ∈ r.fibs, ∃ g f, d.Picks now q g f ∧ g.core = r.core ∧ g.launch = launch ∧
    f.pc = pc ∧ f.priv = priv ∧ f.hnd = hnd
  lanes : ∀ q ∈ r.fibs, ∀ q' ∈ r.fibs, ∀ f f', d.fib? q.1 q.2 = some f → d.fib? q'.1 q'.2 = some f' → f'.lane = f.lane → q' = q

theorem Rope.Formed.carried {now : Nat} {d d' : Dev} {r : Rope} (h : r.Formed now d) (hc : Dev.Carries now d d') : r.Formed now d' := by
  obtain ⟨launch, pc, priv, hnd, alike⟩ := h.alike
  have same : ∀ q ∈ r.fibs, ∀ f, d'.fib? q.1 q.2 = some f → d.fib? q.1 q.2 = some f := fun q hq f hf => by
    obtain ⟨g, f₀, p, _⟩ := alike q hq
    obtain ⟨g', p', _⟩ := hc q g f₀ p
    rw [p.fib?, ← p'.fib?, hf]
  refine ⟨h.nonempty, h.atMost, ⟨launch, pc, priv, hnd, fun q hq => ?_⟩, fun q hq q' hq' f f' hf hf' => ?_⟩
  · obtain ⟨g, f, p, hcore, hlaunch, rest⟩ := alike q hq
    obtain ⟨g', p', e⟩ := hc q g f p
    exact ⟨g', f, p', (WG.core_of_plain e).trans hcore, (WG.launch_of_plain e).trans hlaunch, rest⟩
  · exact h.lanes q hq q' hq' f f' (same q hq f hf) (same q' hq' f' hf')

/-- The rope of a quadrant's candidate set is formed so. -/
theorem quadrant_rope_formed {now : Nat} {d : Dev} (hd : (d.wgs.map WG.id).Nodup) {c q : Nat}
    (hne : ropeOf (candidateSet now (d.quadMembers c q)) ≠ []) :
    Rope.Formed now (d.remarked now c q) { core := c, quad := q, fibs := (ropeOf (candidateSet now (d.quadMembers c q))).map Member.key } := by
  have picked {m : Member} (hm : m ∈ ropeOf (candidateSet now (d.quadMembers c q))) := candidate_picked hd (mem_of_mem_ropeOf hm)
  refine ⟨by simpa using hne, by simpa using ropeOf_length_le _, ?_, ?_⟩
  · obtain ⟨b, hb⟩ := List.exists_mem_of_ne_nil _ hne
    refine ⟨b.g.launch, b.f.pc, b.f.priv, b.f.hnd, fun k hk => ?_⟩
    obtain ⟨m, hm, rfl⟩ := List.mem_map.1 hk
    obtain ⟨g, p, hcore, hlaunch⟩ := picked hm
    obtain ⟨hl, same⟩ := ropeOf_sameGroup hm hb
    exact ⟨g, m.f, p, hcore, hlaunch.trans hl, same⟩
  · intro k hk k' hk' f f' hf hf' hlane
    obtain ⟨m, hm, rfl⟩ := List.mem_map.1 hk
    obtain ⟨m', hm', rfl⟩ := List.mem_map.1 hk'
    obtain ⟨_, p, _⟩ := picked hm
    obtain ⟨_, p', _⟩ := picked hm'
    obtain rfl : m.f = f := Option.some.inj (p.fib?.symm.trans hf)
    obtain rfl : m'.f = f' := Option.some.inj (p'.fib?.symm.trans hf')
    rw [ropeOf_lane_inj hm' hm hlane]

/-- What holds while ropes are selected: work-groups have distinct numbers, the boot state is `b`, the ropes so far stand formed. -/
structure Dev.Selecting (now b : Nat) (d : Dev) : Prop where
  ids : (d.wgs.map WG.id).Nodup
  boot : d.hub.bootState = b
  formed : ∀ r ∈ d.ropes, r.Formed now d

theorem Dev.quadrant_selecting {e : Env} {b : Nat} {d : Dev} (h : d.Selecting e.now b) (c q : Nat) : (d.quadrant e c q).Selecting e.now b := by
  have agrees := d.remarked_agrees e.now c q
  have ids : ((d.remarked e.now c q).wgs.map WG.id).Nodup := by rw [(agrees.coarser (u := WG.id) WG.id fun _ => rfl).wgs]; exact h.ids
  have boot := agrees.boot.trans h.boot
  have old : ∀ r ∈ (d.remarked e.now c q).ropes, r.Formed e.now (d.remarked e.now c q) := fun r hr =>
    (h.formed r (agrees.ropes ▸ hr)).carried (remarked_carries h.ids)
  rcases d.quadrant_cases e c q with hq | hq | ⟨hne, hq⟩
  · rw [hq]; exact h
  · rw [hq]; exact ⟨ids, boot, old⟩
  · rw [hq]
    refine ⟨ids, boot, fun r hr => ?_⟩
    rcases List.mem_append.1 hr with hr | hr
    · exact (old r hr).carried (.of_wgs (by rfl))
    · obtain rfl := List.mem_singleton.1 hr
      exact (quadrant_rope_formed h.ids hne).carried (.of_wgs (by rfl))

theorem Dev.selectRopes_selecting {e : Env} {b : Nat} {d : Dev} (h : d.Selecting e.now b) : (d.selectRopes e).Selecting e.now b := by
  have all : (d.busyCores.foldl (fun d c => (List.range 4).foldl (fun d q => d.quadrant e c q) d) d).Selecting e.now b :=
    List.foldlRecOn _ _ h fun _ h c _ => List.foldlRecOn _ _ h fun _ h q _ => Dev.quadrant_selecting h c q
  refine ⟨all.ids, all.boot, fun r hr => ?_⟩
  exact (all.formed r ((sortBy_perm _ _).mem_iff.1 hr)).carried (.of_wgs (by rfl))

/-! ## The cycle -/

/-- A cc with power up to the selection of its ropes. -/
def Dev.untilSelection (e : Env) (d : Dev) : Dev :=
  let d := d.takeInputs e.now
  let d := if d.hub.bootState = 0 then d.modHub fun h => { h with bootState := 1 } else d
  let d := d.endings
  let d := (d.drainLinks.serveAll e).dbgPoll e
  let d := ((d.dawn.unheld e).markDevice e).recheck e
  d.latches e

/-- A cc without power takes what comes from outside. -/
theorem Dev.cycle_off (e : Env) {d : Dev} (h : d.power ≠ .on) : d.cycle e = d.takeInputs e.now := if_pos h

theorem Dev.cycle_on (e : Env) {d : Dev} (h : d.power = .on) :
    d.cycle e = ((((d.untilSelection e).selectRopes e).mapQueues e).tidy.dueSteps e) := if_neg fun hn => hn h

/-- The boot state after step 1 of bring-up (R472). -/
def bootAfter (b : Nat) : Nat := if b = 0 then 1 else b

/-- Up to the selection no rope is formed, work-groups keep their numbers, and bring-up begins. -/
theorem Dev.untilSelection_selecting (e : Env) {d : Dev} (hr : d.ropes = []) (hd : (d.wgs.map WG.id).Nodup) :
    (d.untilSelection e).Selecting e.now (bootAfter d.hub.bootState) := by
  unfold Dev.untilSelection
  extract_lets d₁ d₂ d₃ d₄ d₅
  have begun : d₂.ropes = [] ∧ d₂.wgs = d.wgs ∧ d₂.hub.bootState = bootAfter d.hub.bootState := by
    unfold d₂ bootAfter
    by_cases h : d.hub.bootState = 0
    · rw [if_pos (show d₁.hub.bootState = 0 from h), if_pos h]
      exact ⟨hr, rfl, rfl⟩
    · rw [if_neg (show ¬ d₁.hub.bootState = 0 from h), if_neg h]
      exact ⟨hr, rfl, rfl⟩
  have links : Dev.Agrees WG.id d₃ d₄ :=
    .trans ((Dev.drainLinks_agrees _).trans (Dev.serveAll_agrees _ _)).ids (Dev.dbgPoll_ids _ _)
  have woken : Dev.Agrees WG.id d₄ d₅ :=
    .trans (.trans (.trans (Dev.dawn_ids _) (Dev.unheld_ids _ _)) (Dev.markDevice_ids _ _)) (Dev.recheck_ids _ _)
  have rest : Dev.Agrees WG.id d₂ (d₅.latches e) :=
    .trans (.trans (.trans (Dev.endings_ids _) links) woken) (Dev.latches_ids _ _)
  obtain ⟨hropes, hwgs, hboot⟩ := begun
  refine ⟨by rw [rest.wgs, hwgs]; exact hd, rest.boot.trans hboot, fun r h => ?_⟩
  rw [rest.ropes, hropes] at h
  cases h

/-- What the end of a cc does leaves the formed ropes: queues are mapped, what is over is dropped, and due steps join the agenda. -/
theorem Dev.finish_carries (e : Env) (d : Dev) : Dev.Carries e.now d ((d.mapQueues e).tidy.dueSteps e) :=
  .trans (.trans (.of_agrees (d.mapQueues_agrees e)) (Dev.tidy_carries _ _)) (.of_agrees (Dev.dueSteps_agrees _ _))

theorem Dev.finish_ropes (e : Env) (d : Dev) : ((d.mapQueues e).tidy.dueSteps e).ropes = d.ropes :=
  (Dev.dueSteps_agrees e (d.mapQueues e).tidy).ropes.trans (d.mapQueues_agrees e).ropes

theorem Dev.finish_boot (e : Env) (d : Dev) : ((d.mapQueues e).tidy.dueSteps e).hub.bootState = d.hub.bootState :=
  (Dev.dueSteps_agrees e (d.mapQueues e).tidy).boot.trans (d.mapQueues_agrees e).boot

/-- A cc with power: bring-up begins, and every rope is formed by R33 and R34. -/
theorem Dev.cycle_formed (e : Env) {d : Dev} (hp : d.power = .on) (hr : d.ropes = []) (hd : (d.wgs.map WG.id).Nodup) :
    (d.cycle e).hub.bootState = bootAfter d.hub.bootState ∧ ∀ r ∈ (d.cycle e).ropes, r.Formed e.now (d.cycle e) := by
  have selected := Dev.selectRopes_selecting (Dev.untilSelection_selecting e hr hd)
  rw [Dev.cycle_on e hp]
  refine ⟨(Dev.finish_boot e _).trans selected.boot, fun r h => ?_⟩
  rw [Dev.finish_ropes] at h
  exact (selected.formed r h).carried (Dev.finish_carries e _)

/-- What comes from outside by `now` leaves the inputs and joins the agenda; nothing else changes. -/
theorem Dev.takeInputs_eq (now : Nat) (d : Dev) :
    d.takeInputs now = { d with
      inputs := d.inputs.filter fun p => now < p.1
      agenda := d.agenda ++ (d.inputs.filter fun p => p.1 ≤ now).map (·.2) } := by
  have later : (fun p : Nat × Todo => !decide (p.1 ≤ now)) = fun p => decide (now < p.1) := by
    funext p
    rw [← decide_not, decide_eq_decide, Nat.not_le]
  rw [Dev.takeInputs, later]

/-- Settles O58: ropes are formed one quadrant after another, and what is picked stays picked through the rest of the cc. -/
theorem issueCycle : Obligations.IssueCycle := by
  intro s hwb hropes
  refine ⟨fun hoff => ?_, fun hon hids => ?_⟩
  · dsimp only
    rw [exec_issueCycle, Dev.cycle_off _ hoff, put_of_quiet _ (s.d.takeInputs (s.clock + 1)) hwb, Dev.takeInputs_eq]
  · obtain ⟨boot, formed⟩ := Dev.cycle_formed { now := s.clock + 1, mem := s.mem } hon hropes hids
    refine ⟨_, exec_issueCycle s, rfl, fun h => boot.trans (if_pos h), fun r hr => ?_⟩
    have hf : r.Formed (s.clock + 1) (({ s with clock := s.clock + 1 } : State).put (s.d.cycle { now := s.clock + 1, mem := s.mem })).d :=
      (formed r hr).carried (.of_wgs (by rfl))
    obtain ⟨launch, pc, priv, hnd, alike⟩ := hf.alike
    refine ⟨hf.nonempty, hf.atMost, launch, pc, priv, hnd, fun q hq => ?_⟩
    obtain ⟨g, f, p, hcore, hlaunch, hpc, hpriv, hhnd⟩ := alike q hq
    obtain ⟨hlive, hwait, hready, hplace⟩ := WG.eligible_elim p.eligible
    exact ⟨g, f, p.wg, p.fib, hplace, hcore, hlaunch, hlive, hwait, hready, hpc, hpriv, hhnd, p.cand, fun q' hq' g' f' hg' hf' =>
      hf.lanes q hq q' hq' f f' p.fib? (Dev.fib?_eq_some hg' hf')⟩

end Sys2Proof.Machine
